-- ==== Sys2Proof/Word.lean ====
section
/-! DEFINITION. The plain word types of the XH-2048: bytes, 32-bit register words, 64-bit scalars and 41-bit operand
fields. Nothing here computes; byte order and bit fields are in Sys2Proof/Machine/Ops.lean. -/
namespace Sys2Proof

/-- One byte of a memory, a parcel, a control word or a mailbox page. -/
abbrev Byte := BitVec 8

/-- One 32-bit register word. -/
abbrev Word32 := BitVec 32

/-- One 64-bit scalar or instruction word (R138, R140). -/
abbrev Word64 := BitVec 64

/-- A map from keys to values: a list of pairs in one canonical form (keys strictly rising, no entry equal to the
default of the map), so that equal maps are equal data. -/
abbrev Sparse (α : Type) := List (Nat × α)

end Sys2Proof
end

