-- ==== Sys2Proof/Syntax.lean ====
section
/-! DEFINITION. The commands of the block: one constructor of `Instr` for each row of spec/opcode_table.json, with the
operands the spec gives the row. -/
namespace Sys2Proof

/-- A logical core of the module: p × 128 + c × 8 + k (R16, R164). -/
abbrev CoreId := Fin 2048

/-- A scalar number s0 to s63 (R140). -/
abbrev Reg := Fin 64

/-- A tile register t0 to t15 (R20). -/
abbrev Tile16 := Fin 16

/-- A link port: 0 East, 1 West, 2 North, 3 South (R331). -/
abbrev PortId := Fin 4

/-- A mailbox, 0 to 15 (R408). -/
abbrev MbxId := Fin 16

/-- A context, 0 to 63 (R300). -/
abbrev CtxId := Fin 64

/-- The header of an instruction word apart from opcode and V: the Waymark waited on and the Waymark signalled (R138). -/
structure Hdr where
  /-- W and WW: the Waymark waited on. -/
  w : Option (Fin 32)
  /-- SE and WS: the Waymark signalled on completion. -/
  s : Option (Fin 32)
  deriving DecidableEq, Repr

/-- A Pass that a core can name: its own partition's, or module Pass 0 to 3 (R256). -/
inductive PassId where
  | part
  | mod (m : Fin 4)
  deriving DecidableEq, Repr

/-- The Pass of a CC.PENTER with its L and RING, which only a module Pass may carry (R257). -/
inductive EnterArg where
  | part
  | mod (m : Fin 4) (l ring : Bool)
  deriving DecidableEq, Repr

/-- The element formats of MM.F8 (R81). -/
inductive F8Fmt where
  | e4m3 | e5m2 | mx8e4m3 | mx8e5m2 | mx6e2m3 | mx6e3m2
  deriving DecidableEq, Repr

/-- The operand fields shared by the six compute instructions (R80). -/
structure MmArgs where
  sa : Reg
  ss : Reg
  acc : Fin 8
  col : Fin 64
  /-- NT: token count minus one. -/
  nt : Fin 64
  /-- LS: false L0, true L1. -/
  ls : Bool
  clr : Bool
  /-- HALF and HSEL: `none` full row, `some false` lanes 0 to 31, `some true` lanes 32 to 63. -/
  half : Option Bool
  tr : Bool
  deriving DecidableEq, Repr

/-- The shapes of the lane row with their weight and operand formats (R71, R81). -/
inductive MmShape where
  | b16 | f8 (wf opf : F8Fmt) | f4 | f4e | n3 | n2 (ternary : Bool)
  deriving DecidableEq, Repr

/-- Rounding modes, in the order of RND (R54). -/
inductive Rnd where
  | rne | dsr | rtz | rna
  deriving DecidableEq, Repr

/-- Destination formats of MM.RD (R87). -/
inductive RdFmt where
  | copy32 | bf16 | e4m3 | e5m2
  deriving DecidableEq, Repr

/-- Matrix engine operations (R75). -/
inductive MmOp where
  | lw (ts : Tile16) (ls : Bool)
  | comp (sh : MmShape) (a : MmArgs)
  | rd (acc : Fin 8) (col : Fin 64) (td : Tile16) (df : RdFmt) (rnd : Rnd) (st : Reg)
  | la (acc : Fin 8) (col : Fin 64) (ts : Tile16)
  deriving DecidableEq, Repr

/-- Element types of the vector engine (R99). -/
inductive Ty where
  | fp32 | int32 | bf16 | u8
  deriving DecidableEq, Repr

/-- Where a vector instruction takes its count from (R101); `imm n` is n + 1 elements. Under CS = 0b10 CNT is not read and any value of it
may stand there. -/
inductive CountSrc where
  | imm (n : Fin 4096)
  | scalar (r : Reg)
  | vc (cnt : Fin 4096)
  deriving DecidableEq, Repr

/-- Operand B (R104). -/
inductive OpB where
  | span (vb : Tile16)
  | scalar (sb : Reg)
  | seg (vb : Tile16) (sh : Fin 13)
  deriving DecidableEq, Repr

/-- VE.ALU functions (R111). -/
inductive AluFn where
  | add | sub | mul | min | max | and | or | xor
  deriving DecidableEq, Repr

/-- VE.FMA functions (R113). -/
inductive FmaFn where
  | fma | fms | nfma
  deriving DecidableEq, Repr

/-- VE.UN functions (R114). -/
inductive UnFn where
  | neg | abs | recip | rsqrt | sqrt | exp2 | log2
  deriving DecidableEq, Repr

/-- VE.CMP conditions (R115). -/
inductive Cond where
  | eq | ne | lt | le | gt | ge
  deriving DecidableEq, Repr

/-- VE.CVT destination formats (R119). -/
inductive CvtDst where
  | fp32 | int32 | bf16 | e4m3 | e5m2 | mx8e4m3 | mx8e5m2 | mx6e2m3 | mx6e3m2 | mx4 | n2
  deriving DecidableEq, Repr

/-- VE.RED functions (R133). -/
inductive RedFn where
  | sum | max | min | sumsq
  deriving DecidableEq, Repr

/-- Sources of VE.TRED (R135). -/
inductive TredSrc where
  | int32 | u8 | scale
  deriving DecidableEq, Repr

/-- VE.TRED functions (R135). -/
inductive TredFn where
  | sum | max | min
  deriving DecidableEq, Repr

/-- Vector engine operations (R105, R117). -/
inductive VeOp where
  | alu (fn : AluFn) (ty : Ty) (rnd : Rnd) (vd va : Tile16) (b : OpB) (n : CountSrc)
  | fma (fn : FmaFn) (ty : Ty) (rnd : Rnd) (vd va : Tile16) (b : OpB) (n : CountSrc)
  | un (fn : UnFn) (ty : Ty) (rnd : Rnd) (vd va : Tile16) (n : CountSrc)
  | cmp (cond : Cond) (ty : Ty) (vd va : Tile16) (b : OpB) (n : CountSrc)
  | sel (ty : Ty) (vd va vb mask : Tile16) (n : CountSrc)
  | copy (ty : Ty) (vd va : Tile16) (n : CountSrc)
  | bcast (ty : Ty) (rnd : Rnd) (vd : Tile16) (b : OpB) (n : CountSrc)
  | iota (ty : Ty) (vd : Tile16) (n : CountSrc)
  | gets (vd va : Tile16) (esc : Bool)
  | puts (vd va : Tile16) (esc : Bool)
  | ld (ty : Ty) (vd : Tile16) (sb : Reg) (n : CountSrc)
  | st (ty : Ty) (va : Tile16) (sb : Reg) (n : CountSrc)
  | cvt (ty : Ty) (dst : CvtDst) (rnd : Rnd) (vd va : Tile16) (st : Reg) (n : CountSrc)
  | red (fn : RedFn) (ty : Ty) (vd va : Tile16) (seg : Option (Fin 13)) (n : CountSrc)
  | tred (fn : TredFn) (col : Bool) (src : TredSrc) (vd va : Tile16)
  | cmpr (ty : Ty) (vd va vm : Tile16) (n : CountSrc)
  | expd (ty : Ty) (vd va vm : Tile16) (n : CountSrc)
  deriving DecidableEq, Repr

/-- Stream engine operations (R230); `n` is the encoded N − 1. -/
inductive StOp where
  | arm (ch : Fin 6) (sh : Bool) (sa : Reg)
  | tail (ch : Fin 6) (n : Fin 16)
  | head (ch : Fin 6) (n : Fin 16)
  | cancel (ch : Fin 4)
  deriving DecidableEq, Repr

/-- Control core operations (R144, R257). -/
inductive CcOp where
  | nop
  | add (rd ra rb : Reg) | sub (rd ra rb : Reg) | mul (rd ra rb : Reg)
  | and (rd ra rb : Reg) | or (rd ra rb : Reg) | xor (rd ra rb : Reg)
  | shl (rd ra rb : Reg) | shr (rd ra rb : Reg) | sar (rd ra rb : Reg)
  | min (rd ra rb : Reg) | max (rd ra rb : Reg) | slt (rd ra rb : Reg) | sltu (rd ra rb : Reg)
  | addi (rd ra : Reg) (imm : BitVec 29) | andi (rd ra : Reg) (imm : BitVec 29)
  | ori (rd ra : Reg) (imm : BitVec 29) | xori (rd ra : Reg) (imm : BitVec 29)
  | shli (rd ra : Reg) (imm : BitVec 29) | shri (rd ra : Reg) (imm : BitVec 29) | sari (rd ra : Reg) (imm : BitVec 29)
  | li (rd : Reg) (imm : Word32) | lih (rd : Reg) (imm : Word32)
  | beq (ra rb : Reg) (off : BitVec 29) | bne (ra rb : Reg) (off : BitVec 29)
  | blt (ra rb : Reg) (off : BitVec 29) | bge (ra rb : Reg) (off : BitVec 29)
  | bltu (ra rb : Reg) (off : BitVec 29) | bgeu (ra rb : Reg) (off : BitVec 29)
  | jmp (off : BitVec 29)
  | ld (rd ra : Reg) (imm : BitVec 29) | st (rd ra : Reg) (imm : BitVec 29)
  | rds (rd : Reg) (sel : Byte) | rdsc (rd : Reg) (sel : Byte)
  | halt
  | parrive (p : PassId) | penter (p : EnterArg) | pwait (p : PassId)
  | plevel (wn : Fin 32) (d now : Bool) (level : BitVec 12)
  deriving DecidableEq, Repr

/-- The unit whose instruction completes (INSTRUCTION_COMPLETION). -/
inductive CompUnit where
  | control | laneRow | readout | vector | stream
  deriving DecidableEq, Repr

/-- A unit that one of the resets below module level resets, by physical position (R453, R455). -/
inductive RstUnit where
  | core (p c : Fin 16) (j : Fin 9)
  | cluster (p c : Fin 16)
  | partition (p : Fin 16)
  deriving DecidableEq, Repr

/-- The strap pins and address pins as they stand at a latching moment (R435, R518). -/
structure Straps where
  strict : Bool
  cold : Bool
  hostw : BitVec 2
  cool : Bool
  expert : Bool
  coord : Bool
  smbAdr : BitVec 2
  deriving DecidableEq, Repr

/-- What the mask ROM's test found (R436, R495): whether all but the sponge lanes passed, and the lanes that failed. -/
structure RomTest where
  ok : Bool
  lanes : BitVec 4
  deriving DecidableEq, Repr

/-- What a port reads in the management memory of its cable (R351). -/
structure CableMem where
  /-- the memory could be read and declares CMIS management (byte 0) -/
  cmis : Bool
  /-- byte 1, the CMIS revision -/
  revision : Byte
  /-- bit 7 of byte 2: the memory is flat and not paged -/
  flat : Bool
  /-- the module state of byte 3 reached Ready within 5 s -/
  ready : Bool
  /-- byte 85, the media type -/
  media : Byte
  /-- page 00h bytes 129 to 144, 145 to 147 and 148 to 163: vendor name, OUI and part number -/
  vendor : List Byte
  oui : List Byte
  part : List Byte
  /-- page 00h bytes 166 to 181, the vendor serial number -/
  serial : List Byte
  /-- page 00h byte 202, the assembly length -/
  length : Byte
  deriving DecidableEq, Repr

/-- A unit of the bonded SRAM or of a port that a spare can replace, or that is such a spare (R331, R395). Banks are numbered core-local
first, 16 for each position (p × 16 + c) × 8 + k with p the physical partition, from 0; then 64 for each physical partition's Landing buffer,
from 32,768; then 64 BOT and 64 housekeeping banks, from 33,792. A row number at or above the bank's own rows is one of its spare rows. A pool
of spare banks is a cluster's, 16p + c, a Landing buffer's, 256 + p, the BOT's, 272, or the housekeeping SRAM's, 273. -/
inductive SpareUnit where
  | row (bank row : Nat)
  | bank (n : Nat)
  | spare (pool i : Nat)
  | lane (q : PortId) (i : Fin 34)
  deriving DecidableEq, Repr

/-- What the tests of a start-up found (R440 to R446): the units that failed. -/
structure TestResults where
  /-- physical cores (p × 16 + c) × 9 + j that failed -/
  cores : List Nat
  /-- rows, banks and spares of the bonded SRAM and link lanes that failed -/
  units : List SpareUnit
  /-- LPDDR controllers that failed training -/
  lpdFailed : List Nat
  /-- LPDDR rows that failed, as region 0x2 offsets, soft PPR being possible -/
  lpdRows : List Nat
  /-- region 0x2 offsets of rows beyond the package's PPR resources -/
  lpdLost : List Nat
  /-- digest sponge lanes that failed -/
  digest : BitVec 4
  deriving DecidableEq, Repr

/-- One reading of all sensors (R515, R524). -/
structure Sensors where
  /-- junction of cluster 16p + c (physical), in 1/16 °C, two's complement; a missing entry reads 0 -/
  tj : List (BitVec 16)
  /-- input voltage in 10 mV -/
  vin : BitVec 16
  /-- input power in W: the sample, from which the 1 ms average is formed by the module -/
  pin : BitVec 16
  /-- inlet and outlet temperature, in 1/16 °C -/
  tin : BitVec 12
  tout : BitVec 12
  /-- levels of STRAP_EXPERT and of the SEAL loop, closed being true (R498, R518) -/
  expert : Bool
  sealed : Bool
  deriving DecidableEq, Repr

/-- An access of the host to BAR2 or to the debug window: a read of `len` bytes, or a write. -/
inductive HostAcc where
  | read (off len : Nat)
  | write (off : Nat) (bytes : List Byte)
  deriving DecidableEq, Repr

/-- A 32-bit register write of the host with its requester ID (R432). -/
structure RegWrite where
  value : Word32
  rid : BitVec 16
  deriving DecidableEq, Repr

/-- What a write of the host carries (R429, R432): its bytes and the requester ID. -/
structure HostWrite where
  bytes : List Byte
  rid : BitVec 16
  deriving DecidableEq, Repr

/-- The requests that R429 answers. -/
inductive BadTlp where
  | malformed | poisoned | ecrc | noBar | reservedBar0 | notWholeWord
  deriving DecidableEq, Repr

/-- How a transfer of host DMA ended (R415): the bytes moved, whether the host request failed, and for TO_MODULE the
bytes read from host memory. -/
structure DmaResult where
  ok : Bool
  moved : Nat
  bytes : List Byte
  deriving DecidableEq, Repr

/-- An event raised by a unit outside the other rows: its CODE with the fields of R462. -/
structure EvReq where
  code : BitVec 16
  unit : Word32
  ctx : Option CtxId
  layer : BitVec 16
  pc : BitVec 16
  arg0 : Word32
  arg1 : Word32
  arg2 : Word32
  arg3 : Word32
  deriving DecidableEq, Repr

/-- The commands, one constructor for each row of the table, in the table's order. -/
inductive Instr where
  | ccNop (c : CoreId) (h : Hdr)
  | ccAdd (c : CoreId) (h : Hdr) (rd ra rb : Reg)
  | ccSub (c : CoreId) (h : Hdr) (rd ra rb : Reg)
  | ccMul (c : CoreId) (h : Hdr) (rd ra rb : Reg)
  | ccAnd (c : CoreId) (h : Hdr) (rd ra rb : Reg)
  | ccOr (c : CoreId) (h : Hdr) (rd ra rb : Reg)
  | ccXor (c : CoreId) (h : Hdr) (rd ra rb : Reg)
  | ccShl (c : CoreId) (h : Hdr) (rd ra rb : Reg)
  | ccShr (c : CoreId) (h : Hdr) (rd ra rb : Reg)
  | ccSar (c : CoreId) (h : Hdr) (rd ra rb : Reg)
  | ccMin (c : CoreId) (h : Hdr) (rd ra rb : Reg)
  | ccMax (c : CoreId) (h : Hdr) (rd ra rb : Reg)
  | ccSlt (c : CoreId) (h : Hdr) (rd ra rb : Reg)
  | ccSltu (c : CoreId) (h : Hdr) (rd ra rb : Reg)
  | ccAddi (c : CoreId) (h : Hdr) (rd ra : Reg) (imm : BitVec 29)
  | ccAndi (c : CoreId) (h : Hdr) (rd ra : Reg) (imm : BitVec 29)
  | ccOri (c : CoreId) (h : Hdr) (rd ra : Reg) (imm : BitVec 29)
  | ccXori (c : CoreId) (h : Hdr) (rd ra : Reg) (imm : BitVec 29)
  | ccShli (c : CoreId) (h : Hdr) (rd ra : Reg) (imm : BitVec 29)
  | ccShri (c : CoreId) (h : Hdr) (rd ra : Reg) (imm : BitVec 29)
  | ccSari (c : CoreId) (h : Hdr) (rd ra : Reg) (imm : BitVec 29)
  | ccLi (c : CoreId) (h : Hdr) (rd : Reg) (imm : Word32)
  | ccLih (c : CoreId) (h : Hdr) (rd : Reg) (imm : Word32)
  | ccBeq (c : CoreId) (h : Hdr) (ra rb : Reg) (off : BitVec 29)
  | ccBne (c : CoreId) (h : Hdr) (ra rb : Reg) (off : BitVec 29)
  | ccBlt (c : CoreId) (h : Hdr) (ra rb : Reg) (off : BitVec 29)
  | ccBge (c : CoreId) (h : Hdr) (ra rb : Reg) (off : BitVec 29)
  | ccBltu (c : CoreId) (h : Hdr) (ra rb : Reg) (off : BitVec 29)
  | ccBgeu (c : CoreId) (h : Hdr) (ra rb : Reg) (off : BitVec 29)
  | ccJmp (c : CoreId) (h : Hdr) (off : BitVec 29)
  | ccLd (c : CoreId) (h : Hdr) (rd ra : Reg) (imm : BitVec 29)
  | ccSt (c : CoreId) (h : Hdr) (rd ra : Reg) (imm : BitVec 29)
  | ccRds (c : CoreId) (h : Hdr) (rd : Reg) (sel : Byte)
  | ccRdsc (c : CoreId) (h : Hdr) (rd : Reg) (sel : Byte)
  | ccHalt (c : CoreId) (h : Hdr)
  | ccParrive (c : CoreId) (h : Hdr) (p : PassId)
  | ccPenter (c : CoreId) (h : Hdr) (p : EnterArg)
  | ccPwait (c : CoreId) (h : Hdr) (p : PassId)
  | ccPlevel (c : CoreId) (h : Hdr) (wn : Fin 32) (d now : Bool) (level : BitVec 12)
  | releaseNotice (c : CoreId) (p : PassId)
  | ringPassReport (m : Fin 4)
  | mmLw (c : CoreId) (h : Hdr) (ts : Tile16) (ls : Bool)
  | fillStart (c : CoreId)
  | heldWritesRelease (c : CoreId)
  | fillVerdict (c : CoreId)
  | mmB16 (c : CoreId) (h : Hdr) (a : MmArgs)
  | mmF8 (c : CoreId) (h : Hdr) (wf opf : F8Fmt) (a : MmArgs)
  | mmF4 (c : CoreId) (h : Hdr) (a : MmArgs)
  | mmF4e (c : CoreId) (h : Hdr) (a : MmArgs)
  | mmN3 (c : CoreId) (h : Hdr) (a : MmArgs)
  | mmN2 (c : CoreId) (h : Hdr) (ternary : Bool) (a : MmArgs)
  | mmRd (c : CoreId) (h : Hdr) (acc : Fin 8) (col : Fin 64) (td : Tile16) (df : RdFmt) (rnd : Rnd) (st : Reg)
  | mmLa (c : CoreId) (h : Hdr) (acc : Fin 8) (col : Fin 64) (ts : Tile16)
  | veAlu (c : CoreId) (h : Hdr) (fn : AluFn) (ty : Ty) (rnd : Rnd) (vd va : Tile16) (b : OpB) (n : CountSrc)
  | veFma (c : CoreId) (h : Hdr) (fn : FmaFn) (ty : Ty) (rnd : Rnd) (vd va : Tile16) (b : OpB) (n : CountSrc)
  | veUn (c : CoreId) (h : Hdr) (fn : UnFn) (ty : Ty) (rnd : Rnd) (vd va : Tile16) (n : CountSrc)
  | veCmp (c : CoreId) (h : Hdr) (cond : Cond) (ty : Ty) (vd va : Tile16) (b : OpB) (n : CountSrc)
  | veSel (c : CoreId) (h : Hdr) (ty : Ty) (vd va vb mask : Tile16) (n : CountSrc)
  | veCopy (c : CoreId) (h : Hdr) (ty : Ty) (vd va : Tile16) (n : CountSrc)
  | veBcast (c : CoreId) (h : Hdr) (ty : Ty) (rnd : Rnd) (vd : Tile16) (b : OpB) (n : CountSrc)
  | veIota (c : CoreId) (h : Hdr) (ty : Ty) (vd : Tile16) (n : CountSrc)
  | veGets (c : CoreId) (h : Hdr) (vd va : Tile16) (esc : Bool)
  | vePuts (c : CoreId) (h : Hdr) (vd va : Tile16) (esc : Bool)
  | veLd (c : CoreId) (h : Hdr) (ty : Ty) (vd : Tile16) (sb : Reg) (n : CountSrc)
  | veSt (c : CoreId) (h : Hdr) (ty : Ty) (va : Tile16) (sb : Reg) (n : CountSrc)
  | veCvt (c : CoreId) (h : Hdr) (ty : Ty) (dst : CvtDst) (rnd : Rnd) (vd va : Tile16) (st : Reg) (n : CountSrc)
  | veRed (c : CoreId) (h : Hdr) (fn : RedFn) (ty : Ty) (vd va : Tile16) (seg : Option (Fin 13)) (n : CountSrc)
  | veTred (c : CoreId) (h : Hdr) (fn : TredFn) (col : Bool) (src : TredSrc) (vd va : Tile16)
  | veCmpr (c : CoreId) (h : Hdr) (ty : Ty) (vd va vm : Tile16) (n : CountSrc)
  | veExpd (c : CoreId) (h : Hdr) (ty : Ty) (vd va vm : Tile16) (n : CountSrc)
  | stArm (c : CoreId) (h : Hdr) (ch : Fin 6) (sh : Bool) (sa : Reg)
  | stTail (c : CoreId) (h : Hdr) (ch : Fin 6) (n : Fin 16)
  | stHead (c : CoreId) (h : Hdr) (ch : Fin 6) (n : Fin 16)
  | stCancel (c : CoreId) (h : Hdr) (ch : Fin 4)
  | slotFillStart (c : CoreId) (ch : Fin 4)
  | slotFillComplete (c : CoreId) (ch : Fin 4)
  | staleFillAbsorbed (c : CoreId) (ch : Fin 4)
  | outboundSlotSent (c : CoreId) (o : Fin 2)
  | coreResume (c : CoreId) (ns : Nat)
  | programEnd (c : CoreId)
  | waymarkDeadlock (c : CoreId)
  | wymSignal (v : Word32) (rid : BitVec 16)
  | wymDbgfence (v : Word32) (rid : BitVec 16)
  | debugFenceDone
  | wymValWrite (n : Fin 32) (v : Word32) (rid : BitVec 16)
  | scalarDebugWrite (n : Reg) (hi : Bool) (v : Word32) (rid : BitVec 16)
  | scheduleOverrun
  | gateMiss (p : Fin 16)
  | lndStepAdvance (p : Fin 16)
  | milestoneAdvance
  | inject (r : Nat) (ready : Bool)
  | send (r : Nat)
  | parcelArrival (q : PortId) (bytes : List Byte)
  | recvfForward (r : Nat)
  | forwardSlotLost (r : Nat)
  | stepTimeout (r : Nat)
  | detourArrival (q : PortId) (bytes : List Byte)
  | detourSend (tag : BitVec 12)
  | timeWordReceived (q : PortId) (pos : Fin 22) (frac : BitVec 16) (w : List Byte)
  | milestoneSteer
  | identReceived (q : PortId) (w : List Byte)
  | cableRead (q : PortId) (mem : CableMem)
  | portAlign (q : PortId) (lanes good : BitVec 34) (peerMs : Nat)
  | trainTimeout (q : PortId)
  | trainRetry (q : PortId)
  | linkLost (q : PortId) (lost : BitVec 34)
  | missingNeighbour (q : PortId)
  | passWordReceived (q : PortId) (w : List Byte)
  | stopReceived (q : PortId) (w : List Byte)
  | msgReceived (q : PortId) (w : List Byte)
  | transferStall
  | ready (q : PortId) (pos idx : Fin 64) (w : List Byte)
  | fix (q : PortId) (w : List Byte)
  | bindAt
  | bound (q : PortId) (pos idx : Fin 64) (w : List Byte)
  | go (q : PortId) (w : List Byte)
  | decline (q : PortId) (pos idx : Fin 64) (w : List Byte)
  | runTimeout
  | runStart
  | runEnd
  | editionSwitch (x : CtxId)
  | scrubRotation
  | scrubDigestDone
  | redigestDone
  | doorbell (m : MbxId) (v : RegWrite)
  | mbxRheadWrite (m : MbxId) (v : RegWrite)
  | mbxNheadWrite (m : MbxId) (v : RegWrite)
  | mailboxEntryWrite (m : MbxId) (off : BitVec 16) (w : HostWrite)
  | status (m : MbxId)
  | openContext (m : MbxId)
  | closeContext (m : MbxId)
  | loadImage (m : MbxId)
  | unloadImage (m : MbxId)
  | bind (m : MbxId)
  | unbind (m : MbxId)
  | loadEdition (m : MbxId)
  | publish (m : MbxId)
  | unpublish (m : MbxId)
  | unloadEdition (m : MbxId)
  | runBatch (m : MbxId)
  | stopRun (m : MbxId)
  | dma (m : MbxId)
  | setWindow (m : MbxId)
  | setStrict (m : MbxId)
  | armMailbox (m : MbxId)
  | disarmMailbox (m : MbxId)
  | setPolicy (m : MbxId)
  | debugMap (m : MbxId)
  | debugUnmap (m : MbxId)
  | coreHalt (m : MbxId)
  | coreReset (m : MbxId)
  | clusterReset (m : MbxId)
  | partitionReset (m : MbxId)
  | resetComplete (u : RstUnit)
  | staleResponseAbsorbed (u : RstUnit)
  | rawXfer (m : MbxId)
  | rawDesc (m : MbxId)
  | unlockDebug (m : MbxId)
  | commitSpares (m : MbxId)
  | regenIdentity (m : MbxId)
  | presencePress
  | presenceTimeout
  | presenceStuck
  | presenceRelease
  | sealOpen
  | bar2Access (a : HostAcc)
  | debugWindowAccess (a : HostAcc) (rid : BitVec 16)
  | malformedTlp (k : BadTlp) (off : Word32) (rid : BitVec 16)
  | registerWrite (off : Nat) (w : HostWrite)
  | errsumClear (v : Word32)
  | digScrubcfgWrite (v : Word32)
  | glbPwrctlWrite (v : Word32)
  | attestationGo (v : Word32)
  | attestationReport (smc : Bool)
  | identityReserve (ok : Bool)
  | treeBuildDone
  | fwLoadGo (v : Word32)
  | firmwareVerified (img : Option (List Byte))
  | coldPath (t : TestResults)
  | startupRetest (t : TestResults)
  | warmPath (lpdFailed : List Nat)
  | powerGood (st : Straps) (rom : RomTest)
  | powerGoodDrop
  | perstAssert (st : Straps)
  | perstDeassert (rom : RomTest)
  | functionLevelReset (st : Straps) (rom : RomTest)
  | hotReset (st : Straps) (rom : RomTest)
  | moduleReset (st : Straps) (rom : RomTest)
  | watchdog (st : Straps) (rom : RomTest)
  | junctionSample (x : Sensors)
  | vcoreStep
  | powerFloor
  | thermalFloor (q : Fin 256)
  | wearSample (margins : List (Nat × Nat))
  | lpddrLinkError (n : Fin 12) (off : Nat) (chan : Fin 4) (corrected : Bool)
  | eventRaise (e : EvReq)
  | recordHandling
  | persistentLogWrite
  | smcHalt (tag : Word32)
  | smcReset (tag : Word32) (st : Straps) (rom : RomTest)
  | smcAttestationRequest (tag : Word32) (nonce : List Byte) (ctx : Byte)
  | cablingPlan (tag : Word32) (plan : List Byte)
  | coordinateMessage (tag : Word32) (ringlen rings pos idx : Byte)
  | routingEntryWrite (tag : Word32) (slice : BitVec 16) (entry : List Byte)
  | telemetryRequest (tag : Word32)
  | smcPowerLimit (tag : Word32) (limit : BitVec 16)
  | setEndpointId (eid : Byte)
  | getEndpointId
  | getMctpVersionSupport (msgType : Byte)
  | getMessageTypeSupport
  | getVendorDefinedMessageSupport (sel : Byte)
  | instructionCompletion (c : CoreId) (u : CompUnit)
  | loadDigestDone
  | dmaTransferDone (r : DmaResult)
  | testAccessPortInstruction (basic : Bool)
  | smcMessageSent
  deriving DecidableEq, Repr

end Sys2Proof
end

