-- ==== Sys2Proof/Machine/State.lean ====
section
/-! DEFINITION. The state of an XH-2048 module as plain data, everything the spec gives it, and the state right after
reset. Registers that are views of other state (a status word built from counts, a queue length) are computed in
Sys2Proof/Machine/Registers.lean and not stored twice. -/
namespace Sys2Proof.Machine

/-- A byte memory: address and byte pairs in the canonical form of `Sparse` with default 0. -/
abbrev Memory := Sparse Byte

/-- Reasons for which the machine stops with a fault: none. Every fault of the spec is an event that changes the state
(R465), so no command ends in a fault of the model. -/
inductive Fault where
  /-- Raised by nobody; present because the interface asks for a fault type. Safe. -/
  | none
  deriving DecidableEq, Repr

/-- Reasons for which a command has no meaning. -/
inductive Refusal where
  /-- The command has no meaning in the model yet; raised by the dispatch arms alone. Safe. -/
  | notModelled (mnemonic : String)
  /-- The instruction's fields have an encoding that R76, R106 or R165 reason 0x08 calls reserved: an image that holds
  it is refused, so it never executes. Raised by the instruction meanings. Safe. -/
  | reservedEncoding
  deriving DecidableEq, Repr

/-! ### Core state -/

/-- A tile register: its 5,376-byte string, header slot and expected tile number (R191). -/
structure Tile where
  bytes : Memory := []
  /-- the 16 header bytes, byte 0 in bits 7..0; R192 gives the Open header -/
  hdr : BitVec 128 := 0x0F00000000000000000000#128
  texp : Word32 := 0xFFFFFFFF
  deriving DecidableEq, Repr

/-- A latch set (R65): expanded rows at 0, scale strip at 4,096, escape strip at 4,352. -/
structure Latch where
  bytes : Memory := []
  src : Tile16 := 0
  e2 : Bool := false
  ready : Bool := true
  /-- beat at which the set last became ready (R92) -/
  readyAt : Nat := 0
  /-- first beat later than the last occupied beat of the computes that read the set (R91) -/
  freeAt : Nat := 0
  deriving DecidableEq, Repr

/-- A Waymark (R246, R249, R272), resolved beat by beat: `value` is VALUE at the start of beat `at_` less what its waits took in that
beat, `add` the signals of that beat, `wr` what the debug window has written in that beat in place of the start value less the takes, `re` whether
a re-level of that beat replaces the result, `first` the first instruction in the order of R250 that signalled it in that beat. A wait takes
the present count from the beat after `since` on. -/
structure Waymark where
  value : BitVec 12 := 0
  at_ : Nat := 0
  add : Nat := 0
  wr : Option (BitVec 12) := none
  re : Bool := false
  first : Option (BitVec 2 × BitVec 15) := none
  level : BitVec 12 := 0
  desig : Bool := false
  eng : BitVec 2 := 0
  dbg : Bool := false
  any : Bool := false
  pc : BitVec 15 := 0
  since : Nat := 0
  deriving DecidableEq, Repr

/-- A write of bytes to a tile register's string by an engine other than a block transfer (R192). -/
structure TileWr where
  t : Tile16
  off : Nat
  data : List Byte
  deriving DecidableEq, Repr

/-- A write held by a fill (R94, R193): of a string, of a whole block, or of one piece of a block's payload, with its header and TEXP when
the piece holds the header (R191, R222). `window` is a write of a string by the debug window. -/
inductive HeldWr where
  | plain (w : TileWr)
  | window (w : TileWr)
  | block (t : Tile16) (hdr : BitVec 128) (texp : Word32) (data : List Byte)
  | part (w : TileWr) (head : Option (BitVec 128 × Word32))
  deriving DecidableEq, Repr

/-- An entry of the matrix queue with the scalars read at issue (R149). -/
structure MmEnt where
  seq : Nat
  pc : BitVec 15
  h : Hdr
  op : MmOp
  va : Word64
  vb : Word64
  q : Nat
  deriving DecidableEq, Repr

/-- An entry of the vector queue with the scalars read at issue. -/
structure VeEnt where
  seq : Nat
  pc : BitVec 15
  h : Hdr
  op : VeOp
  sv : Word64
  cnt : Word64
  q : Nat
  deriving DecidableEq, Repr

/-- An entry of the stream queue with the scalar read at issue. -/
structure StEnt where
  seq : Nat
  pc : BitVec 15
  h : Hdr
  op : StOp
  sv : Word64
  q : Nat
  deriving DecidableEq, Repr

/-- A running fill: its first beat, the tile register as it stood then, and whether its held writes were released. -/
structure FillRun where
  start : Nat
  tile : Tile
  released : Bool
  deriving DecidableEq, Repr

/-- An MM.LW in the load list (R90). -/
structure LwItem where
  ent : MmEnt
  disp : Nat
  fill : Option FillRun
  deriving DecidableEq, Repr

/-- A compute instruction in a compute slot: dispatch beat, first beat, beats occupied, the operand beats made, and under
TR the operand block as it stood at the first beat (R69, R86). -/
structure CmpItem where
  ent : MmEnt
  disp : Nat
  start : Option Nat
  busy : Nat
  oper : Nat
  blk : List Byte
  deriving DecidableEq, Repr

/-- An MM.RD or MM.LA in a readout slot, with the layer step of its dispatch (R263), its beats and the beats made. -/
structure RdItem where
  ent : MmEnt
  disp : Nat
  lstep : Nat
  start : Option Nat
  len : Nat
  made : Nat
  deriving DecidableEq, Repr

/-- What a vector instruction writes at the end of one beat: pieces of one tile register, bytes of SRAM, and the counts
(tile register, saturations, invalid codes). -/
structure VeOut where
  wr : List TileWr
  sram : Option (Nat × List Byte)
  clip : Nat × Nat × Nat
  deriving DecidableEq, Repr

/-- A vector instruction in flight: dispatch beat, layer step, first beat, beat after the last occupied one, completion
beat, count, read beats made, what it has gathered, the writes still due with their beats, VC, the registers that it
writes, and those in which a fill holds a write of it (R127 to R130). -/
structure VeItem where
  ent : VeEnt
  disp : Nat
  lstep : Nat
  start : Option Nat
  free : Nat
  done : Nat
  n : Nat
  made : Nat
  bufA : List Nat
  bufB : List Nat
  outs : List (Nat × VeOut)
  vc : Option Nat
  regs : List Nat
  heldIn : List Tile16
  deriving DecidableEq, Repr

/-- One piece of a slot's fill as read from its source: bytes at an offset of an SRAM slot or tile string, or a block
for a tile register. -/
inductive FillPiece where
  | raw (off : Nat) (data : List Byte)
  | block (hdr : BitVec 128) (payload : List Byte) (texp : Word32)
  deriving DecidableEq, Repr

/-- A stream instruction in the waiting or running slot: dispatch beat, first beat, beats occupied so far, and the descriptor bytes that
an ST.ARM read at its first beat. -/
structure StItem where
  ent : StEnt
  disp : Nat
  start : Option Nat
  occ : Nat
  desc : List Byte
  /-- reason of a Stream Slot Fault found at the first beat, 0 for none (R225) -/
  bad : Nat
  /-- the region-0x0 slots that an ST.TAIL has still to fill, the index of the present transfer, its length once known, the bytes of it
  moved so far and the bytes of a block's SLEN as its header gave them (R222) -/
  todo : List Nat
  xfer : Nat
  xlen : Option Nat
  got : Nat
  slen : Nat
  /-- what the present fill beat has read and not yet written (R131, R222, R382) -/
  buf : Option (List Byte)
  /-- the slot count that F must reach before the instruction goes on (R221) -/
  want : Nat
  /-- what an ST.CANCEL has still to zero: the beat at whose end it does, the ring slot, the byte offset in the slot, the length, and
  whether that piece is the slot's last (R226, R231) -/
  zap : List (Nat × Nat × Nat × Nat × Bool)
  deriving DecidableEq, Repr

/-- A descriptor as armed (R207, R208), with the layer step at its arm beat, the index of the arming instruction and
the slot count at which its own slots begin. -/
structure Desc where
  start : Nat
  xk : Nat
  rk : Bool
  nslot : Nat
  lead : Nat
  tck : Bool
  unit : Nat
  tps : Nat
  slsz : Nat
  rbaseT : Nat
  rbase : Nat
  gate : Option (Nat × Nat)
  counts : List Nat
  strides : List Int
  botbase : Nat
  tbase : Word32
  tmul : List Word32
  layerStep : Nat
  armPc : BitVec 15
  first : Nat
  deriving DecidableEq, Repr

/-- Ring geometry of a channel (R214). -/
structure Geo where
  rk : Bool := false
  rbase : Nat := 0
  rbaseT : Nat := 0
  nslot : Nat := 0
  slsz : Nat := 0
  deriving DecidableEq, Repr

/-- A transaction of a slot's fill that is outstanding (R205): the transfer's place in the slot, its source region, offset and granules, and
what it has read so far (R210). -/
structure Xact where
  m : Nat
  region : Nat
  off : Nat
  n : Nat
  got : List Byte
  deriving DecidableEq, Repr

/-- A slot fill in progress, with the generations it carries (R227, R455): the transactions outstanding, oldest first, the next transfer
to start and how many the slot has, the descriptor, and whether a reset of the core has cleared the channel since. -/
structure SlotFill where
  n : Nat
  gen : BitVec 4
  rgen : BitVec 4
  out : List Xact
  next : Nat
  count : Nat
  desc : Desc
  old : Bool := false
  deriving DecidableEq, Repr

/-- An outbound slot handed to the engine: the slot count and, for each transfer, its destination, its offset in the slot and its granules
(R224). -/
structure OutSlot where
  n : Nat
  xfers : List (Nat × Nat × Nat)
  /-- of a slot whose core has been reset since: the reset generation that its writes carry and what they hold (R455, R456) -/
  old : Option (BitVec 4 × List (List Byte)) := none
  deriving DecidableEq, Repr

/-- A stream channel (R204 to R228, R242). `mask` is the veiled slots of an inbound ring and the locked slots of an
outbound ring, bit s for slot s. -/
structure Chan where
  active : Option Desc := none
  shadow : Option Desc := none
  geo : Geo := {}
  h : Nat := 0
  t : Nat := 0
  f : Nat := 0
  gen : BitVec 4 := 0
  fills : List SlotFill := []
  outs : List OutSlot := []
  mask : BitVec 16 := 0
  xfer : Word32 := 0
  ign : BitVec 16 := 0
  disc : BitVec 16 := 0
  wdr : Word32 := 0
  deriving DecidableEq, Repr

/-- A core's own view of a Pass: O, its arrivals since program start, whether it holds uncrossed arrivals and whether
one of those carried L (R258, R259, R262). -/
structure PassView where
  o : Nat := 0
  n : Nat := 0
  unc : Nat := 0
  uncL : Bool := false
  deriving DecidableEq, Repr

/-- What a parked core waits for (R153). -/
inductive ParkWhy where
  | arrive (p : Nat) (l ring enter : Bool) (h : Hdr) (pc : BitVec 15)
  | pass (p : Nat) (h : Hdr) (pc : BitVec 15)
  | tail | head | cancel
  deriving DecidableEq, Repr

/-- CORE_CCSTAT.STATE with the reason of a park (R169). -/
inductive CoreStatus where
  | none | running | parked (why : ParkWhy) | halted
  deriving DecidableEq, Repr

/-- A signal that falls at a later beat (R148, R130): beat, Waymark, engine and instruction. -/
structure PendSig where
  due : Nat
  wm : Fin 32
  eng : BitVec 2
  pc : BitVec 15
  deriving DecidableEq, Repr

/-- One core, by logical position, with its core-local SRAM. -/
structure Core where
  status : CoreStatus := .none
  pc : BitVec 15 := 0
  beat : Nat := 0
  parkt : Word32 := 0
  vseen : Bool := false
  cwd : Nat := 0
  codeLen : Nat := 0
  /-- issue beat of CC.HALT (R150) -/
  haltAt : Option Nat := none
  /-- program beat count once the program has ended -/
  beats : Option Nat := none
  /-- latest completion beat of any engine instruction -/
  lastDone : Nat := 0
  /-- the first beat in which the engines have done nothing yet -/
  upto : Nat := 0
  seq : Nat := 0
  scal : Sparse Word64 := []
  avail : Sparse Nat := []
  pendRes : List (Nat × Reg × Word64) := []
  pendSig : List PendSig := []
  layer : Nat := 0
  lstep : Nat := 0
  /-- the layer step before the last advance, and the first beat in which a dispatch reads the new one (R263) -/
  lstepOld : Nat := 0
  lstepAt : Nat := 0
  /-- the Milestone plus one of the step in which a layer was last advanced, and the layer before that step (R167) -/
  advMs : Nat := 0
  advFrom : Nat := 0
  /-- the beat of a crossing whose channel actions (R228) fall at its end and are still to be made -/
  crossAt : Option Nat := none
  ctx : Nat := 0
  sram : Memory := []
  tiles : Sparse Tile := []
  banks : Sparse Word32 := []
  l0 : Latch := {}
  l1 : Latch := {}
  clips : Sparse Word32 := []
  /-- invalid codes that a fill verdict adds at the end of a beat (R61, R187): beat, tile register, count -/
  pendClip : List (Nat × Nat × Nat) := []
  mmbusy : Word32 := 0
  mmwait : Word32 := 0
  vebusy : Word32 := 0
  vc : BitVec 13 := 0
  mq : List MmEnt := []
  vq : List VeEnt := []
  sq : List StEnt := []
  mdisp : Nat := 0
  vdisp : Nat := 0
  sdisp : Nat := 0
  /-- dispatches in the control core's present beat or later: engine and beat (R148, R149) -/
  disps : List (BitVec 2 × Nat) := []
  lws : List LwItem := []
  cmps : List CmpItem := []
  rds : List RdItem := []
  ves : List VeItem := []
  sts : List StItem := []
  /-- earliest start of the next fill, of the next compute, of the next readout, of the next vector and stream instruction -/
  fillNext : Nat := 0
  /-- beat after the last occupied beat of the last compute instruction started -/
  cmpFree : Nat := 0
  cmpNext : Nat := 0
  rdNext : Nat := 0
  veNext : Nat := 0
  stNext : Nat := 0
  /-- completion beats of vector writes per tile register (key 16 for VC, 17 for SRAM by VE.ST) -/
  veDone : Sparse Nat := []
  /-- per bank: first beat after the last readout (key b) and beat of the last addition (key 8 + b) -/
  bankAt : Sparse Nat := []
  held : List HeldWr := []
  xfail : Bool := false
  xcause : BitVec 3 := 0
  xftr : Tile16 := 0
  xfls : Bool := false
  xlkind : BitVec 4 := 0xF
  xltr : Tile16 := 0
  xfills : Word32 := 0
  xopen : Word32 := 0
  xftile : Word32 := 0
  tables : Sparse Word64 := []
  chans : Sparse Chan := []
  stmFault : Word32 := 0
  stmFaultPc : BitVec 15 := 0
  wms : Sparse Waymark := []
  pv : Sparse PassView := []
  brk : Bool := false
  povr : Bool := false
  fence : Bool := false
  /-- writes of WYM_SIGNAL that wait for their fence (R255) -/
  sigWait : List (Fin 32) := []
  sramrep : Word32 := 0
  deriving DecidableEq, Repr

/-! ### Partitions, Passes and the ring -/

/-- A partition's Landing buffer, LND_STEP and LND_OVR (R233, R235, R245), LND_SPARE (R401), and the cores of it whose missed gate has been
noted in the run (R237). -/
structure Part where
  landing : Memory := []
  step : Nat := 0
  ovr : Word32 := 0
  spare : Word32 := 0
  missed : List Nat := []
  deriving DecidableEq, Repr

/-- A partition or module Pass (R259, R261, R264, R274). The masks hold the arrived cores of the current and the next
generation; `l`, `ring`, `lNext`, `ringNext` what fixed the generation. `pos` and `rings` are the masks of R367. -/
structure Pass where
  gen : Bool := false
  arr : Nat := 0
  next : Nat := 0
  cur : BitVec 2048 := 0
  nxt : BitVec 2048 := 0
  l : Bool := false
  ring : Bool := false
  lNext : Bool := false
  ringNext : Bool := false
  last : Option (Fin 2048) := none
  brk : Bool := false
  ovr : Bool := false
  /-- UNIT of the reset or ended core that broke the Pass -/
  by_ : Word32 := 0xFFFFFFFF
  reported : Bool := false
  pos : BitVec 64 := 0
  rings : BitVec 64 := 0
  deriving DecidableEq, Repr

/-- A release notice on its way to a core (R259): the Pass, the completed generation's bit and the reset generation it is addressed to
(R268). -/
structure Notice where
  core : CoreId
  pass : Nat
  bit : Bool
  rgen : BitVec 4
  deriving DecidableEq, Repr

/-- A send slot: its bytes, its 4,096 granule-valid bits, and the writes held until after a send, each with its Milestone, its byte offset
and its bytes (R283). -/
structure SendSlot where
  bytes : Memory := []
  valid : BitVec 4096 := 0
  late : List (Nat × Nat × List Byte) := []
  deriving DecidableEq, Repr

/-- A parcel waiting to be forwarded for a RECVF record (R292). -/
structure Forward where
  rix : Nat
  bytes : List Byte
  deriving DecidableEq, Repr

/-- The Milestone and the ring side (R276, R277, R289 to R299). -/
structure Ring where
  ms : Nat := 0
  base : Nat := 0
  rx : Word32 := 0
  tx : Word32 := 0
  hdrdrop : Word32 := 0
  rfault : Word32 := 0
  rfrec : Word32 := 0
  rfstep : Nat := 0
  slots : Sparse SendSlot := []
  /-- records matched, timed out, and sends done, in the run -/
  matched : List Nat := []
  timedOut : List Nat := []
  sentRecs : List Nat := []
  forwards : List Forward := []
  deriving DecidableEq, Repr

/-! ### Links -/

/-- What an IDENT word names (R339). -/
structure Ident where
  modser : Word64
  port : BitVec 2
  cmode : Bool
  plan : Bool
  pos : BitVec 6
  idx : BitVec 6
  planid : Word32
  good : BitVec 34
  deriving DecidableEq, Repr

/-- Port states (R341). -/
inductive PortState where
  | down | train | align | skewed | held | ready
  deriving DecidableEq, Repr

/-- A control word that waits for a control position of a port (R336, R338): the Milestone at which it was put there, TYPE, TAG and BODY. -/
structure CtrlOut where
  at_ : Nat
  type : Nat
  tag : Nat
  body : List Byte
  deriving DecidableEq, Repr

/-- What the log entry of a finding names (R352, R464). -/
structure Found where
  code : BitVec 16
  layer : BitVec 16
  a0 : Word32
  a1 : Word32
  a2 : Word32
  a3 : Word32
  cable : List Byte
  deriving DecidableEq, Repr

/-- What the module logs of a cable assembly (R351). -/
structure CableLog where
  vendor : List Byte
  oui : List Byte
  part : List Byte
  length : Byte
  deriving DecidableEq, Repr

/-- A link port (R341 to R353, R373). `theta` is the offset in 1/65,536 step and `delay` the delay in the same unit,
the means over the samples of the present window. -/
structure Port where
  st : PortState := .down
  trained : Bool := false
  cause : BitVec 4 := 0
  /-- lanes that the fuses, the keeping flash and the start-up test leave good, and those that training has left good too (R335) -/
  base : BitVec 34 := 0
  good : BitVec 34 := 0
  insvc : BitVec 34 := 0
  theta : Int := 0
  delay : Nat := 0
  samples : List (Nat × Int × Nat) := []
  feccor : Word32 := 0
  fecunc : Word32 := 0
  cwdrop : Word32 := 0
  tagdrop : Word32 := 0
  prx : Word32 := 0
  ptx : Word32 := 0
  dtdrop : Word32 := 0
  ident : Option Ident := none
  serial : List Byte := []
  cable : Option CableLog := none
  /-- the finding last logged (R352: once per change) -/
  found : Option Found := none
  /-- arrivals of control words that a departing word may still name: arrival time in 1/65,536 step, SEQ (R338, R343) -/
  heard : List (Nat × Byte) := []
  /-- the present frame and the last ones before it, newest first: Milestone at the start, SEQ of the word at position 0 -/
  frames : List (Nat × Byte) := []
  /-- control words that wait for a position, oldest first -/
  queue : List CtrlOut := []
  /-- Milestone plus one of the last frame in which a parcel left -/
  lastTx : Nat := 0
  deriving DecidableEq, Repr

/-- A cabling plan's port record (R350). -/
structure PlanPort where
  use : Bool
  peerPort : BitVec 2
  peerSer : Word64
  cableSn : List Byte
  deriving DecidableEq, Repr

/-- The cabling plan or coordinate message held (R350, R354). -/
structure CPlan where
  cmode : Bool
  dres : Nat
  xwrap : Bool
  planid : Word32
  ringlen : Nat
  rings : Nat
  pos : Nat
  idx : Nat
  ports : List PlanPort
  deriving DecidableEq, Repr

/-- A routing-table entry (R357): four 64-bit words. -/
structure Route where
  w0 : Word64 := 0
  w1 : Word64 := 0
  w2 : Word64 := 0
  w3 : Word64 := 0
  deriving DecidableEq, Repr

/-- The Detour buffer of a transit entry (R361, R379): whether it holds a buffer set, and its parcels, each with the
Milestone of the last step of its incoming frame. -/
structure Detour where
  held : Bool := false
  queue : List (Nat × List Byte) := []
  deriving DecidableEq, Repr

/-- The transfer service's sending side of one stream (R368): the installation position that asked for it, the LPDDR offset of its bytes, its
fragments, the next to send, those below which all are acknowledged, and the step of the last progress. -/
structure MsgSend where
  pos : Nat
  idx : Nat
  stream : Byte
  base : Nat
  count : Nat
  next : Nat
  acked : Nat
  progress : Nat
  deriving DecidableEq, Repr

/-- The transfer service's receive side of one stream (R368): the fragments stored and the step of the last progress. -/
structure MsgStream where
  stream : Byte
  frags : List (Nat × List Byte)
  last : Option Nat
  progress : Nat
  deriving DecidableEq, Repr

/-- Alignment, plan, routing table, Detours and transfer streams. -/
structure Links where
  skew : Bool := false
  jump : Bool := false
  steer : Int := 0
  /-- Milestone of the last steering (R346) -/
  steerAt : Nat := 0
  dres : Nat := 1
  plan : Option CPlan := none
  /-- the plan against which ports of the running job's tag are still checked, when a newer one is held (R349) -/
  planOld : Option CPlan := none
  routes : Sparse Route := []
  detours : Sparse Detour := []
  strays : Sparse Nat := []
  streams : List MsgStream := []
  sends : List MsgSend := []
  deriving DecidableEq, Repr

/-! ### Contexts, editions and runs -/

/-- Slot states (R306). -/
inductive SlotState where
  | empty | loading | failed | verified | pending | live | retiring
  deriving DecidableEq, Repr

/-- A shard record (R309). -/
structure Shard where
  off : Nat
  len : Nat
  layer : Nat
  pcount : Nat
  digest : List Byte
  deriving DecidableEq, Repr

/-- What a verified manifest says (R308, R309), with the first BOT entry of each run. -/
structure Manifest where
  charge : Nat
  manlen : Nat
  shards : List Shard
  runs : List (Nat × Nat)
  tables : List Word64
  images : List (List Byte)
  digest : List Byte
  deriving DecidableEq, Repr

/-- An edition slot (R306, R310, R328). -/
structure Slot where
  st : SlotState := .empty
  dmg : Bool := false
  keep : Bool := false
  pin : Nat := 0
  edition : Word32 := 0
  bad : List Nat := []
  man : Option Manifest := none
  botFirst : List Nat := []
  /-- the tiles that each shard's stored parcels hold, as the load that verified them found them (R198) -/
  tiles : List (List Nat) := []
  deriving DecidableEq, Repr

/-- A layer record (R164). -/
structure LayerRec where
  mode : Byte
  lstep : Nat
  deadline : Nat
  deriving DecidableEq, Repr

/-- A record of the ring plan (R287), with its layer. -/
structure PlanRec where
  layer : Nat
  stepoff : Nat
  act : Nat
  kind : Nat
  port : BitVec 2
  hops : Nat
  slotg : Nat
  home : BitVec 12
  pmask : BitVec 16
  seq : Word32
  lbase : Nat
  ngran : Nat
  src : Nat
  deriving DecidableEq, Repr

/-- A loaded image and ring plan (R163 to R166, R285 to R287). Offsets are region 0x2 offsets of the image. -/
structure Loaded where
  at_ : Nat
  len : Nat
  planAt : Nat
  planLen : Nat
  hasv : Bool
  cores : Nat
  ringlen : Nat
  rings : Nat
  pos : Nat
  idx : Nat
  split : Nat × Nat × Nat
  layers : List LayerRec
  codes : List (Nat × Nat)
  map : List (Nat × Nat × Nat)
  datas : List (Nat × Nat × Nat)
  digest : List Byte
  recs : List PlanRec
  timeouts : List Nat
  planDigest : List Byte
  deriving DecidableEq, Repr

/-- A context (R300 to R303, R329). Sizes in bytes; `next` is an image that waits for the end of the present batch. -/
structure Ctx where
  opened : Bool := false
  eslots : Nat := 0
  easize : Nat := 0
  botq : Nat := 0
  imgsize : Nat := 0
  work : Nat := 0
  imgBase : Nat := 0
  workBase : Nat := 0
  areas : List Nat := []
  bots : List Nat := []
  slots : Sparse Slot := []
  at_ : Nat := 0
  /-- KEEP of the pending publish (R316) -/
  atKeep : Bool := false
  split : Word32 := 0
  loaded : Option Loaded := none
  next : Option Loaded := none
  tag : Option (BitVec 12) := none
  deriving DecidableEq, Repr

/-- The run-start agreement and the run (R365, R366, R320). -/
inductive RunPhase where
  | idle | ready | fixed | bound | go | running
  deriving DecidableEq, Repr

/-- A READY or a BOUND as the leader holds it. -/
structure Member where
  pos : Nat
  idx : Nat
  a : Nat
  b : Nat
  dig : List Byte
  deriving DecidableEq, Repr

/-- The batch of this module: the agreement's state, the binding and the stop (R369). -/
structure Run where
  phase : RunPhase := .idle
  mbx : MbxId := 0
  cmdTag : Word32 := 0
  runid : Word32 := 0
  ctx : CtxId := 0
  pctx : Option CtxId := none
  b : Nat := 0
  slot : Nat := 0
  edition : Word32 := 0
  pslot : Nat := 0
  pedition : Word32 := 0
  readys : List Member := []
  bounds : List Member := []
  firstReady : Nat := 0
  /-- bodies of the RUN words that this member repeats once per step, its own and those that it relays (R340, R365) -/
  words : List (List Byte) := []
  /-- steps for which a DECLINE is still repeated, the word and its tag -/
  declLeft : Nat := 0
  declWord : List Byte := []
  declTag : Nat := 0
  /-- whether the program of the run has started -/
  started : Bool := false
  /-- STOP words still to be repeated, the word and its tag -/
  stopLeft : Nat := 0
  stopWord : List Byte := []
  stopTag : Nat := 0
  stopPorts : BitVec 4 := 0
  /-- the run was stopped: its cause (code), kept until its RUN_BATCH completes -/
  cause : Option (BitVec 16) := none
  stopped : Bool := false
  /-- whether a JOB-class record has carried the RUNID of the run (R467) -/
  jobRec : Bool := false
  /-- the run that ended or stopped last: its Milestone, RUNID, schedule base, ring place and context, and whether a JOB-class record has
  carried its RUNID; a raise of the same step still is of that run (R462, R467) -/
  endMs : Option Nat := none
  endRun : Word32 := 0
  endB : Nat := 0
  endPos : Nat := 0
  endIdx : Nat := 0
  endJob : Bool := false
  deriving DecidableEq, Repr

/-- A re-digest that a failed fill calls for (R198): TILE and TEXP, and the slots that its run had bound. -/
structure Redigest where
  tile : Word32
  texp : Word32
  bound : List (Nat × Nat)
  deriving DecidableEq, Repr

/-- The scrubber (R327, R330). -/
structure Scrub where
  cfg : Word32 := 0x05A00005
  active : Word32 := 0x05A00005
  run : Bool := false
  late : Bool := false
  /-- a rotation has become due while one runs -/
  due : Bool := false
  /-- what the rotation has still to digest: context, slot, shard (0xFFFF for the manifest), edition number at its start -/
  todo : List (Nat × Nat × Nat × Word32) := []
  ctx : Nat := 0
  slot : Nat := 0
  shard : Nat := 0
  cnt : Word32 := 0
  err : Word32 := 0
  deriving DecidableEq, Repr

/-- One LPDDR controller's registers (R400). -/
structure LpdCtl where
  st : BitVec 2 := 0
  tref : Byte := 0
  pprh : Byte := 0
  pprs : Byte := 0
  trd : Word32 := 0
  twr : Word32 := 0
  trm : Word32 := 0
  unc : BitVec 16 := 0
  cor : BitVec 16 := 0
  deriving DecidableEq, Repr

/-- The LPDDR split and confinement registers (R399) and the controllers. -/
structure Lpd where
  run : Bool := false
  rd : Nat := 8
  wr : Nat := 5
  rm : Nat := 3
  confv : Word32 := 0
  confa : Option Nat := none
  ctl : Sparse LpdCtl := []
  deriving DecidableEq, Repr

/-! ### Host, mailboxes and commands in progress -/

/-- A mailbox (R408, R409). -/
structure Mbx where
  armed : Bool := false
  expert : Bool := false
  mask : Word64 := 0
  chead : BitVec 9 := 0
  ctail : BitVec 9 := 0
  rtail : BitVec 9 := 0
  rhead : BitVec 9 := 0
  ntail : Byte := 0
  nhead : Byte := 0
  errLast : Byte := 0
  errCount : BitVec 16 := 0
  nlost : BitVec 16 := 0
  page : Memory := []
  deriving DecidableEq, Repr

/-- Where a started command stands (R419). -/
inductive JobPhase where
  | dmaWaiting | dmaRunning
  /-- LOAD_IMAGE: the image digest, then the plan digest, is being computed -/
  | imgDigest | planDigest
  /-- LOAD_EDITION: peer transfer; manifest digest; shard digests still to do, with the shards that failed and those that passed. `repair` is
  whether the slot had DMG set when the load began (R326). -/
  | peerLoad (stream : Byte) (repair : Bool)
  | manDigest
  | shardDigest (todo bad good : List Nat) (reason : Byte) (repair : Bool)
  | runWaiting | runActive
  | presence (since : Nat)
  | disarming (m : MbxId)
  | resetting (u : RstUnit)
  /-- REGEN_IDENTITY after its press (R490): the steps made, and the seeds drawn by step 2 -/
  | regen (step : Nat) (seeds : List Byte)
  deriving DecidableEq, Repr

/-- A started command that has not completed: its entry's fields and its phase (R411, R417). -/
structure Job where
  mbx : MbxId
  opc : BitVec 16
  flags : Byte
  vec : Byte
  tag : Word32
  ctx : Byte
  args : List Byte
  phase : JobPhase
  deriving DecidableEq, Repr

/-- What configuration space holds and an access of the model can read or change (R402, R405, R429): the AER status bits of a malformed and a
poisoned TLP, of an unsupported request and of a Completer Abort, the ECRC enables, and MSI-X Enable and Function Mask. -/
structure ConfigSpace where
  aerMalformed : Bool := false
  aerPoisoned : Bool := false
  aerUnsupported : Bool := false
  aerAbort : Bool := false
  aerEcrc : Bool := false
  ecrcGen : Bool := false
  ecrcCheck : Bool := false
  msixEnable : Bool := true
  msixMask : Bool := false
  bar0 : Word64 := 0
  bar2 : Word64 := 0
  deriving DecidableEq, Repr

/-- The host side: policy, BAR2 window, misuse, PCIe counters, MSI-X (R402 to R407, R412, R430). -/
structure HostSt where
  cfg : ConfigSpace := {}
  lock : Bool := false
  expert : Bool := false
  window : Option (CtxId × Nat) := none
  windowLogged : Bool := false
  bar2v : Word32 := 0
  misLast : Byte := 0
  misMbx : Byte := 0
  misCount : BitVec 16 := 0
  ur : BitVec 16 := 0
  ca : BitVec 16 := 0
  rate : BitVec 4 := 0
  width : BitVec 4 := 0
  flit : Bool := false
  msix : Memory := []
  pba : BitVec 2048 := 0
  /-- mailbox whose turn is next (R417) -/
  served : Nat := 0
  /-- the mapped core, as a key of `State.cores`, and the mailbox that mapped it -/
  mapped : Option (Nat × MbxId) := none
  deriving DecidableEq, Repr

/-! ### Start-up, persistence, errors, trust and power -/

/-- Ordering codes (R1). -/
inductive Grade where
  | a2048 | a1920 | e2048
  deriving DecidableEq, Repr

/-- An event record (R462). -/
structure EvRec where
  seq : Nat
  code : BitVec 16
  cls : BitVec 3
  sec : Bool
  remote : Bool
  esc : Bool
  count : Nat
  time : Word64
  ms : Word64
  runid : Word32
  ctx : Byte
  opos : Byte
  oidx : Byte
  unit : Word32
  layer : BitVec 16
  pc : BitVec 16
  step : Word64
  arg0 : Word32
  arg1 : Word32
  arg2 : Word32
  arg3 : Word32
  /-- byte 0x1F in the persistent log: bits [7:0] of the power-cycle count (R476) -/
  cyc : Byte := 0
  deriving DecidableEq, Repr

/-- A sealed record of the keeping flash (R486): nonce, ciphertext and tag. -/
structure Sealed where
  nonce : List Byte
  text : List Byte
  tag : List Byte
  deriving DecidableEq, Repr

/-- Fuses and keeping flash (R440 to R458, R476, R480, R486 to R491, R501, R502). `wear` holds the kept MARGIN plus one. -/
structure Persist where
  grade : Grade := .a2048
  fuseOff : BitVec 16 := 0
  /-- fused core marks, physical key (p × 16 + c) × 9 + j; other fused substitutions -/
  fuseMarks : List Nat := []
  fuseDig : BitVec 4 := 0
  fuseRows : List Nat := []
  /-- LPDDR rows beyond their package's PPR resources that are marked for good (R446, R457) -/
  fuseLost : List Nat := []
  fuseUnits : List SpareUnit := []
  fuseFree : Nat := 2048
  /-- VKEY and UDS, byte i in bits 8i + 7 to 8i (R480) -/
  vkey : BitVec 512 := 0
  modser : Word64 := 0
  uds : BitVec 256 := 0
  floors : List (BitVec 20) := []
  idgen : Nat := 0
  /-- pending marks with the SPSEQ of each -/
  pend : List (Nat × Nat) := []
  pendDig : BitVec 4 := 0
  pendRows : List Nat := []
  pendLost : List Nat := []
  pendUnits : List SpareUnit := []
  spseq : Nat := 0
  /-- the 64 bytes of the token (R449), none before the first is written -/
  token : List Byte := []
  wear : Sparse Nat := []
  dbgcnt : Word32 := 0
  sealcnt : Word32 := 0
  /-- the sealed records of the identity (R486, R487, R490): the current key, a pending key, the index state -/
  idKey : Option Sealed := none
  idPend : Option Sealed := none
  idLim : Option Sealed := none
  chain : List Byte := []
  plog : List EvRec := []
  pseq : Nat := 0
  /-- powered time in 100 µs samples, and power cycles -/
  ticks : Nat := 0
  cycles : Nat := 0
  deriving DecidableEq, Repr

/-- The resident firmware with the digest recorded beside it (R439). -/
structure Firmware where
  image : List Byte
  digest : List Byte
  release : Nat
  deriving DecidableEq, Repr

/-- Start-up and firmware registers and the substitutions in force (R435 to R460). -/
structure Boot where
  power : Bool := false
  perst : Bool := true
  romOk : Bool := true
  straps : Straps := ⟨false, false, 0, false, false, false, 0⟩
  smbAdr : BitVec 2 := 0
  ready : Bool := false
  strict : Bool := false
  halt : Bool := false
  fwhost : Word64 := 0
  fwlen : Word32 := 0
  discard : Bool := false
  /-- the image whose transfer has ended, while the ROM verifies it (R438, R483) -/
  fwImg : List Byte := []
  /-- sponge lanes that the mask ROM's test failed (R495) -/
  romDig : BitVec 4 := 0
  go : Bool := false
  fwstate : BitVec 4 := 0
  fwcode : Byte := 0
  att : Byte := 0
  path : BitVec 2 := 0
  tok : BitVec 3 := 0
  phase : BitVec 4 := 0
  repeats : BitVec 7 := 0
  elapsed : BitVec 16 := 0
  enabled : BitVec 16 := 0
  cores : Nat := 0
  dgDig : Bool := false
  dgPort : Bool := false
  oos : Bool := false
  retired : List Nat := []
  fw : Option Firmware := none
  /-- physical positions excluded and those that failed the last test -/
  excl : List Nat := []
  testBad : List Nat := []
  /-- positions (p × 16 + c) × 8 + k whose core-local SRAM cannot be served (R398, R443) -/
  sramBad : List Nat := []
  results : Option TestResults := none
  /-- LPDDR controllers that failed training on a warm path, until it is resolved (R447) -/
  lpdBad : List Nat := []
  wearCrit : Bool := false
  /-- the period of 2^20 steps in which the wear monitors are next sampled (R458) -/
  wearAt : Nat := 0
  /-- what GLB_CBADq.FLASH and HKP_WEARq were set to at the end of the start-up (R460): pending positions, kept MARGINs plus one -/
  flash : List Nat := []
  wearShown : Sparse Nat := []
  /-- SEQ of the next record at the moment the token was written: earlier records do not invalidate it (R451) -/
  tokSeq : Nat := 0
  rep0 : Word32 := 0
  rep1 : Word32 := 0
  rep2 : Word32 := 0
  deriving DecidableEq, Repr

/-- What the firmware does when it handles a record of class CONDITION (R468): mark a slot damaged for a shard, none for its manifest, if it
still holds the edition (R325), or refuse admission for a worn position (R458). -/
inductive CondAct where
  | damage (x e : Nat) (i : Option Nat) (edition : Word32)
  | wear (n : Nat)
  deriving DecidableEq, Repr

/-- The error queue, the logs and the halt (R465 to R479). -/
structure Err where
  queue : List EvRec := []
  busy : Bool := false
  seq : Nat := 0
  peak : Nat := 0
  errsum : Word32 := 0
  logsel : Bool := false
  logbase : Word32 := 0
  vlog : List EvRec := []
  ppend : List EvRec := []
  lostCode : BitVec 16 := 0
  lostCount : BitVec 16 := 0
  lostOwed : Bool := false
  haltCode : BitVec 16 := 0
  haltSeq : Word32 := 0
  /-- codes entered in the queue for the present run (R466) -/
  entered : List (Word32 × BitVec 16) := []
  /-- actions that wait for the handling of the record of an event code -/
  acts : List (BitVec 16 × CondAct) := []
  /-- an event has been raised that sends the next module reset down the cold path (R451, R478, R515) -/
  tokDue : Bool := false
  deriving DecidableEq, Repr

/-- Trust, presence and attestation (R487 to R504). -/
structure Trust where
  dbg : Bool := false
  idrdy : Bool := false
  next : Nat := 0
  /-- LIM as the firmware holds it (R487), and the secret seeds of the key in force, none when no record opened -/
  lim : Nat := 0
  seeds : Option (List Byte) := none
  /-- the sealing keys that the mask ROM derived, and whether UDS is locked (R481) -/
  kf : List Byte := []
  kn : Option (List Byte) := none
  udsLocked : Bool := false
  /-- generation whose sealing key is in force, and whether REGEN_IDENTITY ran since the reset -/
  regened : Bool := false
  pres : Bool := false
  stuck : Bool := false
  /-- debounced levels of STRAP_EXPERT and the SEAL loop, and samples that have shown the other level (R498) -/
  jumper : Bool := false
  sealed : Bool := false
  jumperN : Nat := 0
  sealedN : Nat := 0
  /-- a 1 ms sample has been taken since the reset, so that GLB_PRES shows the levels -/
  sampled : Bool := false
  presses : BitVec 16 := 0
  attGo : Bool := false
  attCtx : Byte := 0xFF
  attState : BitVec 2 := 0
  attCode : Byte := 0
  attCount : BitVec 16 := 0
  nonce : List Byte := []
  /-- latched requests: nonce and context of the host's, and tag, nonce, context of the SMC's -/
  hostReq : Option (List Byte × Byte) := none
  smcReq : Option (Word32 × List Byte × Byte) := none
  hostLast : Option Nat := none
  smcLast : Option Nat := none
  report : List Byte := []
  /-- a build of the next lower tree is under way, or has ended (R488) -/
  building : Bool := false
  built : Bool := false
  /-- DIG_ROUND: the division of the last complete round (R504) -/
  round : Word32 := 0
  lanesIn : BitVec 4 := 0
  lanesEx : BitVec 4 := 0
  deriving DecidableEq, Repr

/-- Power, temperature and sideband (R507 to R524). -/
structure Phys where
  pwrctl : Word32 := 0x001405DC
  slim : Nat := 0
  plim : Nat := 1500
  vin : BitVec 16 := 0
  pin : BitVec 16 := 0
  /-- input power samples of the present 1 ms window, and whether a window average is complete -/
  pwin : List Nat := []
  va : Nat := 0
  vb : Nat := 0
  tj : List (BitVec 16) := []
  tin : BitVec 12 := 0
  tout : BitVec 12 := 0
  /-- 100 µs samples for which each condition of R514 has held -/
  powerOver : Nat := 0
  hot : Sparse Nat := []
  eid : Option Byte := none
  smcq : List (List Byte) := []
  smcDrop : BitVec 16 := 0
  deriving DecidableEq, Repr

/-- What the module sends to the world outside: the model's own trace, newest last. -/
inductive Sent where
  | parcel (q : PortId) (bytes : List Byte)
  | word (q : PortId) (bytes : List Byte)
  | msix (vec : Nat)
  | pageSelect (q : PortId)
  | readData (bytes : List Byte)
  | unsupported
  | completerAbort
  | smcAck (tag : Word32) (status reason : Byte)
  | mctp (src : BitVec 7) (bytes : List Byte)
  | toHost (addr : Nat) (bytes : List Byte)
  | tap (ok : Bool)
  deriving DecidableEq, Repr

/-- The state of a module with the queue of the commands that wait. -/
structure State where
  pending : List Instr := []
  /-- logical cores at p × 128 + c × 8 + k; a physical position that serves none at 2048 + (p × 16 + c) × 9 + j -/
  cores : Sparse Core := []
  parts : Sparse Part := []
  passes : Sparse Pass := []
  notices : List Notice := []
  ring : Ring := {}
  ports : Sparse Port := []
  links : Links := {}
  ctxs : Sparse Ctx := []
  run : Run := {}
  scrub : Scrub := {}
  redigests : List Redigest := []
  lpddr : Memory := []
  bot : Sparse Word32 := []
  lpd : Lpd := {}
  mbx : Sparse Mbx := []
  jobs : List Job := []
  host : HostSt := {}
  keep : Persist := {}
  boot : Boot := {}
  err : Err := {}
  trust : Trust := {}
  phys : Phys := {}
  /-- reset generations: cores at (p × 16 + c) × 9 + j, cluster ports at 4096 + 16p + c, ramps at 8192 + p (R455) -/
  rgen : Sparse (BitVec 4) := []
  /-- units whose reset has begun and not completed -/
  resets : List RstUnit := []
  sent : List Sent := []
  /-- the model's own counter of free values drawn -/
  free : Nat := 0
  deriving DecidableEq, Repr

/-- The module right after reset: every field at the value its declaration gives, which is the Reset column of the
spec's tables; power-good is not yet asserted. -/
def State.reset : State := {}

end Sys2Proof.Machine
end

