-- ==== Sys2Proof/Machine/Ops.lean ====
section
/-! DEFINITION. The named operations over memories, registers and the parts of the state: sparse maps in canonical
form, little-endian byte fields, bit fields, and the accessors through which every meaning reads and writes. -/
namespace Sys2Proof.Machine

/-! ### Sparse maps and memories -/

/-- The value at a key; an unlisted key reads as the default. -/
def sget {α : Type} (d : α) : Sparse α → Nat → α
  | [], _ => d
  | (k, v) :: r, i => if k = i then v else sget d r i

/-- Write a key, keeping the canonical form: keys rising, no entry equal to the default. -/
def sset {α : Type} [DecidableEq α] (d : α) : Sparse α → Nat → α → Sparse α
  | [], i, v => if v = d then [] else [(i, v)]
  | (k, w) :: r, i, v =>
    if i < k then (if v = d then (k, w) :: r else (i, v) :: (k, w) :: r)
    else if i = k then (if v = d then r else (i, v) :: r)
    else (k, w) :: sset d r i v

/-- The canonical form of a sparse map. -/
def Sparse.Wf {α : Type} (d : α) (m : Sparse α) : Prop :=
  m.Pairwise (fun a b => a.1 < b.1) ∧ ∀ e ∈ m, e.2 ≠ d

/-- The canonical form of a byte memory: addresses strictly rising, no entry equal to 0, which an unlisted address
reads as. -/
abbrev Memory.wf (m : Memory) : Prop := m.Pairwise (fun a b => a.1 < b.1) ∧ ∀ e ∈ m, e.2 ≠ 0#8

/-- One byte of a memory. -/
def rdByte (m : Memory) (a : Nat) : Byte := sget 0#8 m a

/-- Write one byte. -/
def wrByte (m : Memory) (a : Nat) (b : Byte) : Memory := sset 0#8 m a b

/-- `n` bytes from `a` upward. -/
def rdBytes (m : Memory) (a n : Nat) : List Byte := (List.range n).map fun i => rdByte m (a + i)

/-- Write bytes from `a` upward. -/
def wrBytes (m : Memory) (a : Nat) : List Byte → Memory
  | [] => m
  | b :: r => wrBytes (wrByte m a b) (a + 1) r

/-- Bytes of a memory that wraps at `size` (R82, R118, R146). -/
def rdWrap (m : Memory) (size a n : Nat) : List Byte := (List.range n).map fun i => rdByte m ((a + i) % size)

/-- Write bytes into a memory that wraps at `size`. -/
def wrWrap (m : Memory) (size a : Nat) : List Byte → Memory
  | [] => m
  | b :: r => wrWrap (wrByte m (a % size) b) size (a + 1) r

/-- Remove every entry in [a, a + n): the bytes read as 0. -/
def clrRange {α : Type} (m : Sparse α) (a n : Nat) : Sparse α := m.filter fun e => !(decide (a ≤ e.1) && decide (e.1 < a + n))

/-! ### Byte order and bit fields -/

/-- The number whose little-endian bytes are given (R7). -/
def leNat : List Byte → Nat
  | [] => 0
  | b :: r => b.toNat + 256 * leNat r

/-- The `n` little-endian bytes of a number (R7). -/
def leBytes : Nat → Nat → List Byte
  | 0, _ => []
  | n + 1, x => BitVec.ofNat 8 x :: leBytes n (x / 256)

/-- The little-endian field of `n` bytes at an offset of a byte string. -/
def leAt (l : List Byte) (off n : Nat) : Nat := leNat ((l.drop off).take n)

/-- The byte at an offset of a byte string. -/
def byteAt (l : List Byte) (off : Nat) : Byte := l.getD off 0

/-- Bits [hi:lo] of a number. -/
def bitsOf (x hi lo : Nat) : Nat := (x / 2 ^ lo) % 2 ^ (hi + 1 - lo)

/-- Bit i of a number. -/
def bitOf (x i : Nat) : Bool := x.testBit i

/-- A Bool as a number. -/
def b2n (b : Bool) : Nat := if b then 1 else 0

/-- Replace bytes of a byte string at an offset. -/
def putBytes (l : List Byte) (off : Nat) (d : List Byte) : List Byte := l.take off ++ d ++ l.drop (off + d.length)

/-- `n` zero bytes. -/
def zeros (n : Nat) : List Byte := List.replicate n 0

/-- Whether every byte is zero. -/
def allZero (l : List Byte) : Bool := l.all fun b => b == 0

/-- A counter of 32 bits that stops at all ones. -/
def sat32 (x : Word32) (n : Nat) : Word32 := BitVec.ofNat 32 (Nat.min (x.toNat + n) 0xFFFFFFFF)

/-- A counter of 16 bits that stops at all ones. -/
def sat16 (x : BitVec 16) (n : Nat) : BitVec 16 := BitVec.ofNat 16 (Nat.min (x.toNat + n) 0xFFFF)

/-- The signed value of the low `n` bits. -/
def signed (n x : Nat) : Int := if x % 2 ^ n < 2 ^ (n - 1) then (x % 2 ^ n : Nat) else ((x % 2 ^ n : Nat) : Int) - (2 ^ n : Nat)

/-- The `n`-bit two's complement pattern of an integer. -/
def patt (n : Nat) (x : Int) : Nat := (x % (2 ^ n : Nat)).toNat

/-! ### Accessors of the state -/

/-- The size of core-local SRAM: 4 MiB (R376). -/
def sramSize : Nat := 0x400000

/-- The core at a logical position. -/
def State.core (s : State) (c : Nat) : Core := sget {} s.cores c

/-- Replace a core. -/
def State.setCore (s : State) (c : Nat) (k : Core) : State := { s with cores := sset {} s.cores c k }

/-- Change a core. -/
def State.modCore (s : State) (c : Nat) (f : Core → Core) : State := s.setCore c (f (s.core c))

/-- A partition. -/
def State.part (s : State) (p : Nat) : Part := sget {} s.parts p

/-- Change a partition. -/
def State.modPart (s : State) (p : Nat) (f : Part → Part) : State := { s with parts := sset {} s.parts p (f (s.part p)) }

/-- A Pass: partition Pass p at p, module Pass m at 16 + m. -/
def State.pass (s : State) (p : Nat) : Pass := sget {} s.passes p

/-- Change a Pass. -/
def State.modPass (s : State) (p : Nat) (f : Pass → Pass) : State := { s with passes := sset {} s.passes p (f (s.pass p)) }

/-- A port. -/
def State.port (s : State) (q : Nat) : Port := sget {} s.ports q

/-- Change a port. -/
def State.modPort (s : State) (q : Nat) (f : Port → Port) : State := { s with ports := sset {} s.ports q (f (s.port q)) }

/-- A context. -/
def State.ctx (s : State) (x : Nat) : Ctx := sget {} s.ctxs x

/-- Change a context. -/
def State.modCtx (s : State) (x : Nat) (f : Ctx → Ctx) : State := { s with ctxs := sset {} s.ctxs x (f (s.ctx x)) }

/-- An edition slot of a context. -/
def Ctx.slot (k : Ctx) (e : Nat) : Slot := sget {} k.slots e

/-- Change an edition slot of a context. -/
def Ctx.modSlot (k : Ctx) (e : Nat) (f : Slot → Slot) : Ctx := { k with slots := sset {} k.slots e (f (k.slot e)) }

/-- Change an edition slot. -/
def State.modSlot (s : State) (x e : Nat) (f : Slot → Slot) : State := s.modCtx x fun k => k.modSlot e f

/-- A mailbox. At reset mailbox 0 is armed with every context and the others are not (R409): mailbox 0 is stored with
its mask bits and its armed bit inverted against that reset value by `mboxFix`. -/
def mboxFix (m : Nat) (x : Mbx) : Mbx := if m = 0 then { x with armed := !x.armed, mask := ~~~x.mask } else x

/-- Mailbox m. -/
def State.mbox (s : State) (m : Nat) : Mbx := mboxFix m (sget {} s.mbx m)

/-- Change a mailbox. -/
def State.modMbox (s : State) (m : Nat) (f : Mbx → Mbx) : State :=
  { s with mbx := sset {} s.mbx m (mboxFix m (f (s.mbox m))) }

/-- An LPDDR controller. -/
def State.lctl (s : State) (n : Nat) : LpdCtl := sget {} s.lpd.ctl n

/-- Change an LPDDR controller. -/
def State.modLctl (s : State) (n : Nat) (f : LpdCtl → LpdCtl) : State :=
  { s with lpd := { s.lpd with ctl := sset {} s.lpd.ctl n (f (s.lctl n)) } }

/-- A send slot: port q, slot i. -/
def State.sendSlot (s : State) (q i : Nat) : SendSlot := sget {} s.ring.slots (q * 16 + i)

/-- Change a send slot. -/
def State.modSendSlot (s : State) (q i : Nat) (f : SendSlot → SendSlot) : State :=
  { s with ring := { s.ring with slots := sset {} s.ring.slots (q * 16 + i) (f (s.sendSlot q i)) } }

/-- The reset generation at a key (R455). -/
def State.gen (s : State) (k : Nat) : BitVec 4 := sget 0 s.rgen k

/-- A routing entry. -/
def State.route (s : State) (t : Nat) : Route := sget {} s.links.routes t

/-- Emit something to the world outside. -/
def State.emit (s : State) (o : Sent) : State := { s with sent := s.sent ++ [o] }

/-- Draw a fresh free value: the counter advances. -/
def State.draw (s : State) : Nat × State := (s.free, { s with free := s.free + 1 })

/-- Whether a run holds the cores: from program start to the end of the run (R453). -/
def State.runHolds (s : State) : Bool := s.run.phase = .running

/-- Whether the run has been stopped in the present step (R462, R465). -/
def State.stoppedNow (s : State) : Bool := s.run.started && s.run.stopped && decide (s.run.endMs = some s.ring.ms)

/-- Whether the run holds the cores or has been stopped in the present step: the units that find a fault in one step all raise it (R462,
R465). -/
def State.runInStep (s : State) : Bool := s.runHolds || s.stoppedNow

/-- The schedule step: the Milestone less the base step of the running job (R277), which the step of a stop still has (R462). -/
def State.schedStep (s : State) : Nat := s.ring.ms - (if s.stoppedNow then s.run.endB else s.ring.base)

/-- The logical partitions in use: the number of enabled physical partitions (R2, R445). -/
def State.nparts (s : State) : Nat := s.boot.cores / 128

/-- Physical partition of a logical one: the enabled partitions in ascending order (R2). -/
def physPart (en : BitVec 16) (p : Nat) : Nat := (((List.range 16).filter fun i => en.getLsbD i).getD p 16)

/-- The physical position that serves logical core k of physical cluster (p, c) (R443): k, or 8 when k is excluded. -/
def physPos (excl : List Nat) (p c k : Nat) : Nat := if excl.contains ((p * 16 + c) * 9 + k) then 8 else k

/-- The physical key (p × 16 + c) × 9 + j of a logical core. -/
def State.physKey (s : State) (c : Nat) : Nat :=
  let p := physPart s.boot.enabled (c / 128)
  let cl := c / 8 % 16
  (p * 16 + cl) * 9 + physPos s.boot.excl p cl (c % 8)

/-- The reset generation that serves a logical core (R455). -/
def State.coreGen (s : State) (c : Nat) : BitVec 4 := s.gen (s.physKey c)

/-- The enabled logical cores. -/
def State.coreList (s : State) : List Nat := List.range s.boot.cores

/-- The logical partition that a physical one serves as, when it is enabled (R2). -/
def logPart (en : BitVec 16) (p : Nat) : Nat := ((List.range p).filter fun i => en.getLsbD i).length

/-- UNIT of a core (R463); a position that serves no logical core has zero in the logical core's bits. -/
def State.coreUnit (s : State) (c : Nat) : Word32 :=
  if c < 2048 then BitVec.ofNat 32 (0x10000000 + (s.physKey c % 9) * 0x1000 + (c / 128) * 0x100 + (c / 8 % 16) * 16 + c % 8)
  else
    let n := c - 2048
    BitVec.ofNat 32 (0x10000000 + (n % 9) * 0x1000 + logPart s.boot.enabled (n / 144) * 0x100 + (n / 9 % 16) * 16)

/-- The physical key of an entry of `State.cores`. -/
def State.keyPos (s : State) (c : Nat) : Nat := if c < 2048 then s.physKey c else c - 2048

/-- Whether a unit contains the physical position n = (p × 16 + c) × 9 + j. -/
def unitHolds (u : RstUnit) (n : Nat) : Bool :=
  match u with
  | .core p c j => decide (n = (p.val * 16 + c.val) * 9 + j.val)
  | .cluster p c => decide (n / 9 = p.val * 16 + c.val)
  | .partition p => decide (n / 144 = p.val)

/-- Whether a core is being reset: its reset has begun and not completed (R456). -/
def State.inReset (s : State) (c : Nat) : Bool := s.resets.any fun u => unitHolds u (s.keyPos c)

/-- Whether a logical partition is being reset: Landing writes addressed to it are dropped (R456). -/
def State.partInReset (s : State) (p : Nat) : Bool := s.resets.contains (.partition (Fin.ofNat 16 (physPart s.boot.enabled p)))

/-- Whether a run is in progress: from its binding to its end (R462). -/
def State.runBound (s : State) : Bool :=
  match s.run.phase with
  | .bound | .go | .running => true
  | _ => false

/-- The loaded image of the running batch. -/
def State.runImage (s : State) : Option Loaded := (s.ctx s.run.ctx).loaded

/-! ### Core registers -/

/-- Scalar n: s0 reads zero (R140). -/
def Core.sc (k : Core) (n : Reg) : Word64 := if n.val = 0 then 0 else sget 0 k.scal n.val

/-- Write scalar n: a write to s0 is dropped (R140). -/
def Core.setSc (k : Core) (n : Reg) (v : Word64) : Core :=
  if n.val = 0 then k else { k with scal := sset 0 k.scal n.val v }

/-- A tile register. -/
def Core.tile (k : Core) (t : Nat) : Tile := sget {} k.tiles t

/-- Replace a tile register. -/
def Core.setTile (k : Core) (t : Nat) (x : Tile) : Core := { k with tiles := sset {} k.tiles t x }

/-- The 32 bits of a bank element (bank, lane, column) (R66). -/
def bankKey (b lane col : Nat) : Nat := (b * 64 + lane) * 64 + col

/-- Clip counter n. -/
def Core.clip (k : Core) (n : Nat) : Word32 := sget 0 k.clips n

/-- A channel. -/
def Core.chan (k : Core) (n : Nat) : Chan := sget {} k.chans n

/-- Change a channel. -/
def Core.modChan (k : Core) (n : Nat) (f : Chan → Chan) : Core := { k with chans := sset {} k.chans n (f (k.chan n)) }

/-- A Waymark. -/
def Core.wm (k : Core) (n : Nat) : Waymark := sget {} k.wms n

/-- Replace a Waymark. -/
def Core.setWm (k : Core) (n : Nat) (x : Waymark) : Core := { k with wms := sset {} k.wms n x }

/-- The core's view of Pass index 0 (its partition's) or 1 + m. -/
def Core.pview (k : Core) (n : Nat) : PassView := sget {} k.pv n

/-- Replace the core's view of a Pass. -/
def Core.setPview (k : Core) (n : Nat) (x : PassView) : Core := { k with pv := sset {} k.pv n x }

/-- A latch set. -/
def Core.latch (k : Core) (ls : Bool) : Latch := if ls then k.l1 else k.l0

/-- Replace a latch set. -/
def Core.setLatch (k : Core) (ls : Bool) (x : Latch) : Core := if ls then { k with l1 := x } else { k with l0 := x }

/-- First byte of the code window (R147). -/
def codeBase : Nat := 0x3C0000

/-- Bytes of the code window: the code rounded up to 4 KiB (R147). -/
def Core.codeBytes (k : Core) : Nat := (k.codeLen * 8 + 4095) / 4096 * 4096

/-- Whether an SRAM byte lies in the read-only code window while a program runs (R147). -/
def Core.inCode (k : Core) (a : Nat) : Bool :=
  decide (k.codeLen ≠ 0) && decide (codeBase ≤ a) && decide (a < codeBase + k.codeBytes)

/-- Slot geometry: the inbound or outbound SRAM ring slot that holds SRAM byte a, if any. -/
def Geo.sramSlot (g : Geo) (a : Nat) : Option Nat :=
  let sz := (g.slsz + 1) * 64
  if g.rk then none
  else if decide (g.rbase * 64 ≤ a) && decide (a < g.rbase * 64 + (g.nslot + 1) * sz) then some ((a - g.rbase * 64) / sz) else none

/-- The slot of a tile-register ring that is tile register t, if any (R217). -/
def Geo.tileSlot (g : Geo) (t : Nat) : Option Nat :=
  if g.rk then (let d := (t + 16 - g.rbaseT % 16) % 16; if d ≤ g.nslot then some d else none) else none

/-- Whether the slot found is marked (veiled or locked) in a channel. -/
def Chan.marks (ch : Chan) (o : Option Nat) : Bool :=
  match o with
  | some i => ch.mask.getLsbD i
  | none => false

/-- The inbound channel that veils an SRAM byte (R220). -/
def Core.veilSram (k : Core) (a : Nat) : Option Nat :=
  (List.range 4).find? fun n => (k.chan n).marks ((k.chan n).geo.sramSlot a)

/-- The channel, inbound or outbound, whose veil or lock covers an SRAM byte (R220). -/
def Core.guardSram (k : Core) (a : Nat) : Option Nat :=
  (List.range 6).find? fun n => (k.chan n).marks ((k.chan n).geo.sramSlot a)

/-- The inbound channel that veils a tile register (R220). -/
def Core.veilTile (k : Core) (t : Nat) : Option Nat :=
  (List.range 4).find? fun n => (k.chan n).marks ((k.chan n).geo.tileSlot t)

/-- The channel whose veil or lock covers a tile register (R220). -/
def Core.guardTile (k : Core) (t : Nat) : Option Nat :=
  (List.range 6).find? fun n => (k.chan n).marks ((k.chan n).geo.tileSlot t)

/-- The channel other than ch, inbound or outbound, whose veil or lock covers an SRAM byte (R220): a channel's own traffic meets no guard of
its own slots. -/
def Core.otherSram (k : Core) (ch a : Nat) : Option Nat :=
  (List.range 6).find? fun n => decide (n ≠ ch) && (k.chan n).marks ((k.chan n).geo.sramSlot a)

/-- The channel other than ch whose veil or lock covers a tile register (R220). -/
def Core.otherTile (k : Core) (ch t : Nat) : Option Nat :=
  (List.range 6).find? fun n => decide (n ≠ ch) && (k.chan n).marks ((k.chan n).geo.tileSlot t)

/-- Whether a channel found by a guard veils what is read: an inbound one does (R220). -/
def veils (o : Option Nat) : Bool :=
  match o with
  | some n => decide (n < 4)
  | none => false

/-- An SRAM byte as an engine of the core reads it: a veiled slot reads zero (R220). -/
def Core.engByte (k : Core) (a : Nat) : Byte :=
  if (k.veilSram (a % sramSize)).isSome then 0 else rdByte k.sram (a % sramSize)

/-- SRAM bytes as an engine reads them, wrapping at 4 MiB. -/
def Core.engBytes (k : Core) (a n : Nat) : List Byte := (List.range n).map fun i => k.engByte (a + i)

/-- A tile register as an engine reads it: a veiled one reads zero in every part (R220). -/
def Core.engTile (k : Core) (t : Nat) : Tile :=
  if (k.veilTile t).isSome then { bytes := [], hdr := 0, texp := 0 } else k.tile t

/-- Add one dropped write to STM_WDR of a channel (R220). -/
def Core.dropWdr (k : Core) (n : Nat) : Core := k.modChan n fun ch => { ch with wdr := sat32 ch.wdr 1 }

/-- Write bytes of one access to SRAM: those of the code window are dropped and counted once in CWD (R147), those under a guard are dropped and
counted once per channel (R220), the others are written. Addresses wrap at 4 MiB. -/
def Core.guardedWrite (k : Core) (guard : Nat → Option Nat) (a : Nat) (d : List Byte) : Core :=
  let idx := List.range d.length
  let code := idx.any fun i => k.inCode ((a + i) % sramSize)
  let rings := (List.range 6).filter fun n => idx.any fun i => guard ((a + i) % sramSize) = some n
  let m := idx.foldl (fun m i =>
    let x := (a + i) % sramSize
    if k.inCode x || (guard x).isSome then m else wrByte m x (d.getD i 0)) k.sram
  let k1 := { k with sram := m, cwd := if code then Nat.min (k.cwd + 1) 31 else k.cwd }
  rings.foldl (fun k n => k.dropWdr n) k1

/-- An engine's write of one access to SRAM: every veiled or locked slot drops what falls in it (R147, R220). -/
def Core.engWrite (k : Core) (a : Nat) (d : List Byte) : Core := k.guardedWrite k.guardSram a d

/-- Whether a fill now holds writes to tile register t (R94); a core that halts abandons its fills (R197). -/
def Core.filling (k : Core) (t : Tile16) : Bool :=
  decide (k.status ≠ .halted) && k.lws.any fun x => match x.ent.op, x.fill with
    | .lw ts _, some f => decide (ts = t) && !f.released
    | _, _ => false

/-- A write of bytes to a tile register's string takes effect: the header slot becomes Open (R192). -/
def Core.applyTile (k : Core) (w : TileWr) : Core :=
  k.setTile w.t { bytes := wrBytes (k.tile w.t).bytes w.off w.data }

/-- A block written by the stream engine takes effect (R191): header slot, payload bytes, TEXP. -/
def Core.applyBlock (k : Core) (t : Tile16) (hdr : BitVec 128) (texp : Word32) (d : List Byte) : Core :=
  k.setTile t { bytes := wrBytes (k.tile t).bytes 0 d, hdr := hdr, texp := texp }

/-- One piece of a block's payload takes effect (R191, R222): the header slot and TEXP come with the piece that holds the header. -/
def Core.applyPart (k : Core) (w : TileWr) (head : Option (BitVec 128 × Word32)) : Core :=
  let x := k.tile w.t
  let y := { x with bytes := wrBytes x.bytes w.off w.data }
  k.setTile w.t (match head with
    | some (h, e) => { y with hdr := h, texp := e }
    | none => y)

/-- A held write takes effect (R94, R193). -/
def Core.applyHeld (k : Core) : HeldWr → Core
  | .plain w | .window w => k.applyTile w
  | .block t hdr texp d => k.applyBlock t hdr texp d
  | .part w head => k.applyPart w head

/-- The tile register that a held write is for. -/
def HeldWr.reg : HeldWr → Tile16
  | .plain w | .window w => w.t
  | .block t _ _ _ => t
  | .part w _ => w.t

/-- A tile write by an engine or the debug window: held during a fill of the register (R94), else it takes effect. -/
def Core.putTile (k : Core) (w : HeldWr) : Core :=
  if k.filling w.reg then { k with held := k.held ++ [w] } else k.applyHeld w

/-- A tile write by an engine: dropped and counted when a slot guard covers the register (R220). -/
def Core.engTileWrite (k : Core) (w : TileWr) : Core :=
  match k.guardTile w.t with
  | some n => k.dropWdr n
  | none => k.putTile (.plain w)

/-- A tile write of the stream engine for a channel: dropped and counted when a slot guard of another channel covers the register (R220). -/
def Core.slotTile (k : Core) (ch : Nat) (w : HeldWr) : Core :=
  match k.otherTile ch w.reg.val with
  | some n => k.dropWdr n
  | none => k.putTile w

/-- Whether the core executes: a program runs and it is not parked. -/
def Core.runs (k : Core) : Bool := k.status = .running

/-! ### Waymarks -/

/-- VALUE after steps 2 and 3 of R249, before it stops at 4,095: the start value less the takes, or what the debug window has written in the
beat, plus the signals. -/
def Waymark.sum (w : Waymark) : Nat := (w.wr.getD w.value).toNat + w.add

/-- VALUE as it stands after what its last beat has held so far (R249): the re-level, else the sum, which stops at 4,095 (R250). -/
def Waymark.shown (w : Waymark) : BitVec 12 := if w.re then w.level else BitVec.ofNat 12 (Nat.min w.sum 4095)

/-- Whether what the last beat leaves is not what its waits have seen (R249): a count from zero, a debug write or a re-level. -/
def Waymark.fresh (w : Waymark) : Bool := w.re || w.wr.isSome || decide (w.value = 0)

/-- A Waymark at the start of beat b: what earlier beats left is its value. -/
def Waymark.roll (w : Waymark) (b : Nat) : Waymark :=
  if w.at_ < b then
    { w with value := w.shown, at_ := b, add := 0, wr := none, re := false, first := none
             since := if w.fresh then w.at_ else w.since }
  else w

/-- The earliest beat from b on at which a wait on the Waymark holds no longer (R248, R249): a signal is visible from the next beat. -/
def Waymark.openAt (w : Waymark) (b : Nat) : Option Nat :=
  let x := Nat.max b (w.since + 1)
  if w.value ≠ 0 ∧ x ≤ w.at_ then some x
  else if w.shown ≠ 0 then some (Nat.max b (if w.fresh then w.at_ + 1 else x))
  else none

/-- Whether signaller a comes before signaller b in the engine order of R249; two of one engine in one beat are taken by instruction
index (log entry 15). -/
def sigBefore (a b : BitVec 2 × BitVec 15) : Bool := decide (a.1 < b.1) || (decide (a.1 = b.1) && decide (a.2 < b.2))

/-- One signal on a Waymark by an instruction in a beat (R249, R272): VALUE takes it at the end of the beat; WYM_LAST names the last
signaller of the beat in engine order. -/
def Core.signal (k : Core) (n : Fin 32) (eng : BitVec 2) (pc : BitVec 15) (beat : Nat) : Core :=
  let w := (k.wm n).roll beat
  let later := w.first.isSome && sigBefore (eng, pc) (w.eng, w.pc)
  k.setWm n { w with
    add := w.add + 1
    eng := if later then w.eng else eng
    pc := if later then w.pc else pc
    dbg := false, any := true
    first := match w.first with
      | some x => if sigBefore (eng, pc) x then some (eng, pc) else some x
      | none => some (eng, pc) }

/-- A signal by WYM_SIGNAL in a beat (R255, R272): ENG and PC stay. -/
def Core.signalDbg (k : Core) (n : Fin 32) (beat : Nat) : Core :=
  let w := (k.wm n).roll beat
  k.setWm n { w with add := w.add + 1, dbg := true, any := true }

/-- Take one from a Waymark in a beat (R248). -/
def Core.take (k : Core) (n : Fin 32) (beat : Nat) : Core :=
  let w := (k.wm n).roll beat
  k.setWm n { w with value := w.value - 1 }

/-- A write of VALUE by the debug window in a beat (R249): it replaces the start value less the takes, which the waits of the beat still see,
and the signals of the beat are added to it. -/
def Core.writeValue (k : Core) (n : Fin 32) (v : BitVec 12) (beat : Nat) : Core := k.setWm n { (k.wm n).roll beat with wr := some v }

/-- The re-level of a Waymark at the end of a beat (R265): it replaces what R249 gives for the beat; signals of a later beat that have been made
already add to it. -/
def Waymark.setTo (w : Waymark) (beat : Nat) : Waymark :=
  let x := w.roll beat
  if beat < x.at_ then { x with value := x.level, since := beat } else { x with re := true }

/-- Re-levelling of every designated Waymark at the end of a crossing beat (R265). -/
def Core.relevel (k : Core) (beat : Nat) : Core :=
  (List.range 32).foldl (fun k n => let w := k.wm n; if w.desig then k.setWm n (w.setTo beat) else k) k

/-- CC.PLEVEL at the end of its issue beat (R258): LEVEL and DESIG, and with NOW the re-level. -/
def Core.setLevel (k : Core) (n : Fin 32) (level : BitVec 12) (d now : Bool) (beat : Nat) : Core :=
  let w := { (k.wm n).roll beat with level := level, desig := d }
  k.setWm n (if now then w.setTo beat else w)

/-- LSTEP as a dispatch in a beat reads it (R263). -/
def Core.lstepIn (k : Core) (beat : Nat) : Nat := if beat < k.lstepAt then k.lstepOld else k.lstep

/-- Whether the module is powered and not held in reset (R508, R510). -/
def State.alive (s : State) : Bool := s.boot.power && !s.boot.perst

/-- Whether the module serves the SMC: a module whose ROM test has failed serves nothing but the registers of R436 (R437). -/
def State.serves (s : State) : Bool := s.alive && decide (s.boot.fwstate ≠ 0xF)

end Sys2Proof.Machine
end

