-- ==== Sys2Proof/Machine/Operands.lean ====
section
/-! DEFINITION. The operand forms of the four engines as 64-bit instruction words (R138, R143, R144, R75 to R89, R103 to
R135, R230, R257), which combinations of fields are legal (R76, R106, R139, R141), and the check of one word that the
image loader applies (R165, reason 0x08). -/
namespace Sys2Proof
open Sys2Proof.Machine

/-- An instruction of any engine. -/
inductive AnyOp where
  | cc (o : CcOp)
  | mm (o : MmOp)
  | ve (o : VeOp)
  | st (o : StOp)
  deriving DecidableEq, Repr

/-- The header word (R138): opcode, V, W, WW, WS, SE; ENG equals OPC[7:6] (R139). -/
def encHdr (opc : Nat) (v : Bool) (h : Hdr) (low : Nat) : Word64 :=
  let w := match h.w with
    | some n => 2 ^ 52 + n.val * 2 ^ 47
    | none => 0
  let s := match h.s with
    | some n => n.val * 2 ^ 42 + 2 ^ 41
    | none => 0
  BitVec.ofNat 64 (opc * 2 ^ 56 + (opc / 64) * 2 ^ 54 + b2n v * 2 ^ 53 + w + s + low)

/-- PID of a Pass (R256). -/
def PassId.code : PassId → Nat
  | .part => 0
  | .mod m => 4 + m.val

/-- Operand forms R, I, B of R143. -/
def formR (rd ra rb : Reg) : Nat := rd.val * 2 ^ 35 + ra.val * 2 ^ 29 + rb.val * 2 ^ 23
def formI (rd ra : Reg) (imm : BitVec 29) : Nat := rd.val * 2 ^ 35 + ra.val * 2 ^ 29 + imm.toNat

/-- Opcode, V bit and operand bits of a control-core instruction (R144, R158, R257). -/
def encCc : CcOp → Nat × Bool × Nat
  | .nop => (0x00, false, 0)
  | .add rd ra rb => (0x01, false, formR rd ra rb)
  | .sub rd ra rb => (0x02, false, formR rd ra rb)
  | .mul rd ra rb => (0x03, false, formR rd ra rb)
  | .and rd ra rb => (0x04, false, formR rd ra rb)
  | .or rd ra rb => (0x05, false, formR rd ra rb)
  | .xor rd ra rb => (0x06, false, formR rd ra rb)
  | .shl rd ra rb => (0x07, false, formR rd ra rb)
  | .shr rd ra rb => (0x08, false, formR rd ra rb)
  | .sar rd ra rb => (0x09, false, formR rd ra rb)
  | .min rd ra rb => (0x0A, false, formR rd ra rb)
  | .max rd ra rb => (0x0B, false, formR rd ra rb)
  | .slt rd ra rb => (0x0C, false, formR rd ra rb)
  | .sltu rd ra rb => (0x0D, false, formR rd ra rb)
  | .addi rd ra i => (0x11, false, formI rd ra i)
  | .andi rd ra i => (0x14, false, formI rd ra i)
  | .ori rd ra i => (0x15, false, formI rd ra i)
  | .xori rd ra i => (0x16, false, formI rd ra i)
  | .shli rd ra i => (0x17, false, formI rd ra i)
  | .shri rd ra i => (0x18, false, formI rd ra i)
  | .sari rd ra i => (0x19, false, formI rd ra i)
  | .li rd i => (0x1A, false, rd.val * 2 ^ 35 + i.toNat)
  | .lih rd i => (0x1B, false, rd.val * 2 ^ 35 + i.toNat)
  | .beq a b o => (0x20, false, formI a b o)
  | .bne a b o => (0x21, false, formI a b o)
  | .blt a b o => (0x22, false, formI a b o)
  | .bge a b o => (0x23, false, formI a b o)
  | .bltu a b o => (0x24, false, formI a b o)
  | .bgeu a b o => (0x25, false, formI a b o)
  | .jmp o => (0x26, false, o.toNat)
  | .ld rd ra i => (0x28, false, formI rd ra i)
  | .st rd ra i => (0x29, false, formI rd ra i)
  | .rds rd sel => (0x30, decide (0x20 ≤ sel.toNat ∧ sel.toNat ≤ 0x23), rd.val * 2 ^ 35 + sel.toNat * 2 ^ 27)
  | .rdsc rd sel => (0x31, false, rd.val * 2 ^ 35 + sel.toNat * 2 ^ 27)
  | .halt => (0x3F, false, 0)
  | .parrive p => (0x38, false, p.code * 2 ^ 38)
  | .penter .part => (0x39, false, 0)
  | .penter (.mod m l r) => (0x39, false, (4 + m.val) * 2 ^ 38 + b2n l * 2 ^ 37 + b2n r * 2 ^ 36)
  | .pwait p => (0x3A, false, p.code * 2 ^ 38)
  | .plevel wn d now lv => (0x3B, false, wn.val * 2 ^ 36 + b2n d * 2 ^ 35 + b2n now * 2 ^ 34 + lv.toNat)

/-- WF and OF codes (R81). -/
def F8Fmt.code : F8Fmt → Nat
  | .e4m3 => 0 | .e5m2 => 1 | .mx8e4m3 => 2 | .mx8e5m2 => 3 | .mx6e2m3 => 4 | .mx6e3m2 => 5

/-- Opcode, WF and OF of a shape (R75, R81). -/
def MmShape.code : MmShape → Nat × Nat × Nat
  | .b16 => (0x41, 0, 0)
  | .f8 w o => (0x42, w.code, o.code)
  | .f4 => (0x43, 0, 0)
  | .f4e => (0x44, 0, 0)
  | .n3 => (0x45, 0, 0)
  | .n2 t => (0x46, b2n t, 0)

/-- RND code (R54). -/
def Rnd.code : Rnd → Nat
  | .rne => 0 | .dsr => 1 | .rtz => 2 | .rna => 3

/-- DF code (R87). -/
def RdFmt.code : RdFmt → Nat
  | .copy32 => 0 | .bf16 => 1 | .e4m3 => 2 | .e5m2 => 3

/-- Opcode and operand bits of a matrix instruction (R75 to R89). -/
def encMm : MmOp → Nat × Nat
  | .lw ts ls => (0x40, ts.val * 2 ^ 37 + b2n ls * 2 ^ 36)
  | .comp sh a =>
    let (opc, wf, f) := sh.code
    let half := match a.half with
      | none => 0
      | some b => 2 ^ 11 + b2n b * 2 ^ 10
    (opc, a.sa.val * 2 ^ 35 + a.ss.val * 2 ^ 29 + a.acc.val * 2 ^ 26 + a.col.val * 2 ^ 20 + a.nt.val * 2 ^ 14
      + b2n a.ls * 2 ^ 13 + b2n a.clr * 2 ^ 12 + half + b2n a.tr * 2 ^ 9 + wf * 2 ^ 6 + f * 2 ^ 3)
  | .rd acc col td df rnd st =>
    (0x48, acc.val * 2 ^ 38 + col.val * 2 ^ 32 + td.val * 2 ^ 28 + df.code * 2 ^ 26 + rnd.code * 2 ^ 24 + st.val * 2 ^ 18)
  | .la acc col ts => (0x49, acc.val * 2 ^ 38 + col.val * 2 ^ 32 + ts.val * 2 ^ 28)

/-- TY code (R99). -/
def Ty.code : Ty → Nat
  | .fp32 => 0 | .int32 => 1 | .bf16 => 2 | .u8 => 3

/-- CS and CNT (R101). -/
def CountSrc.code : CountSrc → Nat
  | .imm n => n.val * 2 ^ 7
  | .scalar r => 1 * 2 ^ 19 + r.val * 2 ^ 7
  | .vc c => 2 * 2 ^ 19 + c.val * 2 ^ 7

/-- VB, BM and SB of operand B (R104). -/
def OpB.code : OpB → Nat
  | .span vb => vb.val * 2 ^ 29
  | .scalar sb => 1 * 2 ^ 27 + sb.val * 2 ^ 21
  | .seg vb g => vb.val * 2 ^ 29 + 2 * 2 ^ 27 + g.val * 2 ^ 21

/-- FN codes (R111, R113, R114, R115, R133, R135). -/
def AluFn.code : AluFn → Nat
  | .add => 0 | .sub => 1 | .mul => 2 | .min => 3 | .max => 4 | .and => 5 | .or => 6 | .xor => 7
def FmaFn.code : FmaFn → Nat
  | .fma => 0 | .fms => 1 | .nfma => 2
def UnFn.code : UnFn → Nat
  | .neg => 0 | .abs => 1 | .recip => 2 | .rsqrt => 3 | .sqrt => 4 | .exp2 => 5 | .log2 => 6
def Cond.code : Cond → Nat
  | .eq => 0 | .ne => 1 | .lt => 2 | .le => 3 | .gt => 4 | .ge => 5
def RedFn.code : RedFn → Nat
  | .sum => 0 | .max => 1 | .min => 2 | .sumsq => 3
def TredFn.code : TredFn → Nat
  | .sum => 0 | .max => 1 | .min => 2
/-- VB code of a conversion (R119). -/
def CvtDst.code : CvtDst → Nat
  | .fp32 => 0 | .int32 => 1 | .bf16 => 2 | .e4m3 => 3 | .e5m2 => 4 | .mx8e4m3 => 5 | .mx8e5m2 => 6 | .mx6e2m3 => 7
  | .mx6e3m2 => 8 | .mx4 => 9 | .n2 => 10

/-- The fields VD, VA, VB of R103. -/
def veRegs (vd va vb : Nat) : Nat := vd * 2 ^ 37 + va * 2 ^ 33 + vb * 2 ^ 29

/-- Opcode and operand bits of a vector instruction (R103 to R135). -/
def encVe : VeOp → Nat × Nat
  | .alu fn ty rnd vd va b n => (0x80, veRegs vd va 0 + b.code + n.code + ty.code * 2 ^ 5 + rnd.code * 2 ^ 3 + fn.code)
  | .fma fn ty rnd vd va b n => (0x81, veRegs vd va 0 + b.code + n.code + ty.code * 2 ^ 5 + rnd.code * 2 ^ 3 + fn.code)
  | .un fn ty rnd vd va n => (0x82, veRegs vd va 0 + n.code + ty.code * 2 ^ 5 + rnd.code * 2 ^ 3 + fn.code)
  | .cmp c ty vd va b n => (0x83, veRegs vd va 0 + b.code + n.code + ty.code * 2 ^ 5 + c.code)
  | .sel ty vd va vb m n => (0x84, veRegs vd va vb + m.val * 2 ^ 21 + n.code + ty.code * 2 ^ 5)
  | .cvt ty dst rnd vd va st n =>
    (0x85, veRegs vd va dst.code + st.val * 2 ^ 21 + n.code + ty.code * 2 ^ 5 + rnd.code * 2 ^ 3)
  | .red fn ty vd va seg n =>
    (0x86, veRegs vd va (match seg with | some v => v.val | none => 15) + n.code + ty.code * 2 ^ 5 + fn.code)
  | .tred fn col src vd va =>
    let (bm, ty) := match src with
      | .int32 => (0, 1)
      | .u8 => (0, 3)
      | .scale => (1, 3)
    (0x87, veRegs vd va 0 + bm * 2 ^ 27 + ty * 2 ^ 5 + (b2n col * 4 + fn.code))
  | .cmpr ty vd va vm n => (0x88, veRegs vd va vm + n.code + ty.code * 2 ^ 5)
  | .expd ty vd va vm n => (0x89, veRegs vd va vm + n.code + ty.code * 2 ^ 5)
  | .copy ty vd va n => (0x8A, veRegs vd va 0 + n.code + ty.code * 2 ^ 5)
  | .bcast ty rnd vd b n => (0x8A, veRegs vd 0 0 + b.code + n.code + ty.code * 2 ^ 5 + rnd.code * 2 ^ 3 + 1)
  | .iota ty vd n => (0x8A, veRegs vd 0 0 + n.code + ty.code * 2 ^ 5 + 2)
  | .gets vd va esc => (0x8A, veRegs vd va 0 + (1 + b2n esc) * 2 ^ 27 + 3 * 2 ^ 5 + 3)
  | .puts vd va esc => (0x8A, veRegs vd va 0 + (1 + b2n esc) * 2 ^ 27 + 3 * 2 ^ 5 + 4)
  | .ld ty vd sb n => (0x8B, veRegs vd 0 0 + sb.val * 2 ^ 21 + n.code + ty.code * 2 ^ 5)
  | .st ty va sb n => (0x8C, veRegs 0 va 0 + sb.val * 2 ^ 21 + n.code + ty.code * 2 ^ 5)

/-- Opcode and operand bits of a stream instruction (R230). -/
def encSt : StOp → Nat × Nat
  | .arm ch sh sa => (0xC0, ch.val * 2 ^ 38 + b2n sh * 2 ^ 37 + sa.val * 2 ^ 31)
  | .tail ch n => (0xC1, ch.val * 2 ^ 38 + n.val * 2 ^ 34)
  | .head ch n => (0xC2, ch.val * 2 ^ 38 + n.val * 2 ^ 34)
  | .cancel ch => (0xC3, ch.val * 2 ^ 38)

/-- The instruction word (R138). -/
def encOp (h : Hdr) : AnyOp → Word64
  | .cc o => let (opc, v, low) := encCc o; encHdr opc v h low
  | .mm o => let (opc, low) := encMm o; encHdr opc false h low
  | .ve o => let (opc, low) := encVe o; encHdr opc false h low
  | .st o => let (opc, low) := encSt o; encHdr opc false h low

/-! ### Legal combinations -/

/-- Whether RND is legal where it is read only for BF16 and never DSR (R107). -/
def rndBf (reads : Bool) (ty : Ty) (rnd : Rnd) : Bool :=
  if reads && decide (ty = .bf16) then decide (rnd ≠ .dsr) else decide (rnd = .rne)

/-- The legal source types of a conversion (R119). -/
def cvtSrcOk (ty : Ty) (d : CvtDst) : Bool :=
  match d, ty with
  | .fp32, .int32 | .fp32, .bf16 | .fp32, .u8 => true
  | .int32, .fp32 | .int32, .bf16 | .int32, .u8 => true
  | .bf16, .fp32 | .bf16, .int32 => true
  | .e4m3, .fp32 | .e4m3, .int32 | .e4m3, .bf16 => true
  | .e5m2, .fp32 | .e5m2, .int32 | .e5m2, .bf16 => true
  | .n2, .fp32 | .n2, .int32 | .n2, .bf16 => true
  | .mx8e4m3, .fp32 | .mx8e4m3, .bf16 | .mx8e5m2, .fp32 | .mx8e5m2, .bf16 => true
  | .mx6e2m3, .fp32 | .mx6e2m3, .bf16 | .mx6e3m2, .fp32 | .mx6e3m2, .bf16 => true
  | .mx4, .fp32 | .mx4, .bf16 => true
  | _, _ => false

/-- A conversion that widens exactly (R120): RND must be 0b00. -/
def cvtWidens (ty : Ty) (d : CvtDst) : Bool :=
  match d, ty with
  | .fp32, .bf16 | .fp32, .u8 | .int32, .u8 => true
  | _, _ => false

/-- Legal fields of a vector instruction (R106, R107, R113, R114, R117, R119 to R122, R133). -/
def VeOp.legal : VeOp → Bool
  | .alu fn ty rnd _ _ _ _ => rndBf (decide (fn = .add) || decide (fn = .sub) || decide (fn = .mul)) ty rnd
  | .fma _ ty rnd _ _ _ _ => decide (ty ≠ .u8) && rndBf true ty rnd
  | .un fn ty rnd _ _ _ =>
    (decide (ty = .fp32) || decide (ty = .bf16) || (decide (ty = .int32) && (decide (fn = .neg) || decide (fn = .abs))))
      && rndBf true ty rnd
  | .bcast ty rnd _ b _ =>
    match b with
    | .span _ => false
    | .scalar _ => rndBf true ty rnd
    | .seg _ _ => rndBf false ty rnd
  | .iota ty _ _ => decide (ty = .fp32) || decide (ty = .int32)
  | .cvt ty d rnd _ _ tn _ =>
    cvtSrcOk ty d && (!cvtWidens ty d || decide (rnd = .rne)) && (decide (rnd = .dsr) || decide (tn.val = 0))
  | .red _ ty _ _ _ _ => decide (ty = .fp32) || decide (ty = .bf16)
  | _ => true

/-- Legal fields of a matrix instruction (R87: RND is zero under the 32-bit copy). -/
def MmOp.legal : MmOp → Bool
  | .rd _ _ _ df rnd _ => decide (df ≠ .copy32) || decide (rnd = .rne)
  | _ => true

/-- The selectors of R141. -/
def selLegal (n : Nat) : Bool := decide (n ≤ 0x08) || (decide (0x10 ≤ n) && decide (n ≤ 0x23))

/-- The clearable selectors of R141. -/
def selClears (n : Nat) : Bool := (decide (6 ≤ n) && decide (n ≤ 8)) || (decide (0x10 ≤ n) && decide (n ≤ 0x1F))

/-- Legal fields of a control-core instruction (R141, R144). -/
def CcOp.legal : CcOp → Bool
  | .shli _ _ i | .shri _ _ i | .sari _ _ i => decide (i.toNat < 64)
  | .rds _ sel => selLegal sel.toNat
  | .rdsc _ sel => selClears sel.toNat
  | _ => true

/-- Legal fields of an instruction. -/
def AnyOp.legal : AnyOp → Bool
  | .cc o => o.legal
  | .mm o => o.legal
  | .ve o => o.legal
  | .st _ => true

/-! ### Reading a word -/

/-- The operand count field. -/
def decCount (w : Nat) : CountSrc :=
  match bitsOf w 20 19 with
  | 0 => .imm (Fin.ofNat 4096 (bitsOf w 18 7))
  | 1 => .scalar (Fin.ofNat 64 (bitsOf w 18 7))
  | _ => .vc (Fin.ofNat 4096 (bitsOf w 18 7))

/-- Operand B. -/
def decB (w : Nat) : OpB :=
  match bitsOf w 28 27 with
  | 0 => .span (Fin.ofNat 16 (bitsOf w 32 29))
  | 1 => .scalar (Fin.ofNat 64 (bitsOf w 26 21))
  | _ => .seg (Fin.ofNat 16 (bitsOf w 32 29)) (Fin.ofNat 13 (bitsOf w 26 21))

def decTy (w : Nat) : Ty := [Ty.fp32, .int32, .bf16, .u8].getD (bitsOf w 6 5) .fp32
def decRnd (x : Nat) : Rnd := [Rnd.rne, .dsr, .rtz, .rna].getD x .rne
def decF8 (x : Nat) : F8Fmt := [F8Fmt.e4m3, .e5m2, .mx8e4m3, .mx8e5m2, .mx6e2m3, .mx6e3m2].getD x .e4m3
def decPass (x : Nat) : PassId := if x < 4 then .part else .mod (Fin.ofNat 4 x)

/-- Fields of a compute instruction. -/
def decArgs (w : Nat) : MmArgs where
  sa := Fin.ofNat 64 (bitsOf w 40 35)
  ss := Fin.ofNat 64 (bitsOf w 34 29)
  acc := Fin.ofNat 8 (bitsOf w 28 26)
  col := Fin.ofNat 64 (bitsOf w 25 20)
  nt := Fin.ofNat 64 (bitsOf w 19 14)
  ls := bitOf w 13
  clr := bitOf w 12
  half := if bitOf w 11 then some (bitOf w 10) else none
  tr := bitOf w 9

/-- The instruction whose opcode and fields stand in a word, where the opcode is assigned; bits that must be zero are
not looked at here. -/
def decRaw (w : Nat) : Option AnyOp :=
  let a := Fin.ofNat 64 (bitsOf w 40 35)
  let b := Fin.ofNat 64 (bitsOf w 34 29)
  let c := Fin.ofNat 64 (bitsOf w 28 23)
  let i := BitVec.ofNat 29 w
  let i32 := BitVec.ofNat 32 w
  let sel := BitVec.ofNat 8 (bitsOf w 34 27)
  let pid := bitsOf w 40 38
  let vd : Tile16 := Fin.ofNat 16 (bitsOf w 40 37)
  let va : Tile16 := Fin.ofNat 16 (bitsOf w 36 33)
  let vb : Tile16 := Fin.ofNat 16 (bitsOf w 32 29)
  let sb : Reg := Fin.ofNat 64 (bitsOf w 26 21)
  let bm := bitsOf w 28 27
  let fn := bitsOf w 2 0
  let ty := decTy w
  let rnd := decRnd (bitsOf w 4 3)
  let n := decCount w
  match w / 2 ^ 56 % 256 with
  | 0x00 => some (.cc .nop)
  | 0x01 => some (.cc (.add a b c)) | 0x02 => some (.cc (.sub a b c)) | 0x03 => some (.cc (.mul a b c))
  | 0x04 => some (.cc (.and a b c)) | 0x05 => some (.cc (.or a b c)) | 0x06 => some (.cc (.xor a b c))
  | 0x07 => some (.cc (.shl a b c)) | 0x08 => some (.cc (.shr a b c)) | 0x09 => some (.cc (.sar a b c))
  | 0x0A => some (.cc (.min a b c)) | 0x0B => some (.cc (.max a b c))
  | 0x0C => some (.cc (.slt a b c)) | 0x0D => some (.cc (.sltu a b c))
  | 0x11 => some (.cc (.addi a b i)) | 0x14 => some (.cc (.andi a b i)) | 0x15 => some (.cc (.ori a b i))
  | 0x16 => some (.cc (.xori a b i)) | 0x17 => some (.cc (.shli a b i)) | 0x18 => some (.cc (.shri a b i))
  | 0x19 => some (.cc (.sari a b i)) | 0x1A => some (.cc (.li a i32)) | 0x1B => some (.cc (.lih a i32))
  | 0x20 => some (.cc (.beq a b i)) | 0x21 => some (.cc (.bne a b i)) | 0x22 => some (.cc (.blt a b i))
  | 0x23 => some (.cc (.bge a b i)) | 0x24 => some (.cc (.bltu a b i)) | 0x25 => some (.cc (.bgeu a b i))
  | 0x26 => some (.cc (.jmp i)) | 0x28 => some (.cc (.ld a b i)) | 0x29 => some (.cc (.st a b i))
  | 0x30 => some (.cc (.rds a sel)) | 0x31 => some (.cc (.rdsc a sel)) | 0x3F => some (.cc .halt)
  | 0x38 => some (.cc (.parrive (decPass pid)))
  | 0x39 => some (.cc (.penter (if pid < 4 then .part else .mod (Fin.ofNat 4 pid) (bitOf w 37) (bitOf w 36))))
  | 0x3A => some (.cc (.pwait (decPass pid)))
  | 0x3B => some (.cc (.plevel (Fin.ofNat 32 (bitsOf w 40 36)) (bitOf w 35) (bitOf w 34) (BitVec.ofNat 12 w)))
  | 0x40 => some (.mm (.lw vd (bitOf w 36)))
  | 0x41 => some (.mm (.comp .b16 (decArgs w)))
  | 0x42 => some (.mm (.comp (.f8 (decF8 (bitsOf w 8 6)) (decF8 (bitsOf w 5 3))) (decArgs w)))
  | 0x43 => some (.mm (.comp .f4 (decArgs w))) | 0x44 => some (.mm (.comp .f4e (decArgs w)))
  | 0x45 => some (.mm (.comp .n3 (decArgs w))) | 0x46 => some (.mm (.comp (.n2 (bitOf w 6)) (decArgs w)))
  | 0x48 => some (.mm (.rd (Fin.ofNat 8 pid) (Fin.ofNat 64 (bitsOf w 37 32)) (Fin.ofNat 16 (bitsOf w 31 28))
      ([RdFmt.copy32, .bf16, .e4m3, .e5m2].getD (bitsOf w 27 26) .copy32) (decRnd (bitsOf w 25 24)) (Fin.ofNat 64 (bitsOf w 23 18))))
  | 0x49 => some (.mm (.la (Fin.ofNat 8 pid) (Fin.ofNat 64 (bitsOf w 37 32)) (Fin.ofNat 16 (bitsOf w 31 28))))
  | 0x80 => some (.ve (.alu ([AluFn.add, .sub, .mul, .min, .max, .and, .or, .xor].getD fn .add) ty rnd vd va (decB w) n))
  | 0x81 => some (.ve (.fma ([FmaFn.fma, .fms, .nfma].getD fn .fma) ty rnd vd va (decB w) n))
  | 0x82 => some (.ve (.un ([UnFn.neg, .abs, .recip, .rsqrt, .sqrt, .exp2, .log2].getD fn .neg) ty rnd vd va n))
  | 0x83 => some (.ve (.cmp ([Cond.eq, .ne, .lt, .le, .gt, .ge].getD fn .eq) ty vd va (decB w) n))
  | 0x84 => some (.ve (.sel ty vd va vb (Fin.ofNat 16 sb.val) n))
  | 0x85 => some (.ve (.cvt ty ([CvtDst.fp32, .int32, .bf16, .e4m3, .e5m2, .mx8e4m3, .mx8e5m2, .mx6e2m3, .mx6e3m2, .mx4,
      .n2].getD vb.val .fp32) rnd vd va sb n))
  | 0x86 => some (.ve (.red ([RedFn.sum, .max, .min, .sumsq].getD fn .sum) ty vd va
      (if vb.val = 15 then none else some (Fin.ofNat 13 vb.val)) n))
  | 0x87 => some (.ve (.tred ([TredFn.sum, .max, .min].getD (fn % 4) .sum) (bitOf w 2)
      (if bm = 1 then .scale else if ty = .int32 then .int32 else .u8) vd va))
  | 0x88 => some (.ve (.cmpr ty vd va vb n))
  | 0x89 => some (.ve (.expd ty vd va vb n))
  | 0x8A => match fn with
    | 0 => some (.ve (.copy ty vd va n))
    | 1 => some (.ve (.bcast ty rnd vd (decB w) n))
    | 2 => some (.ve (.iota ty vd n))
    | 3 => some (.ve (.gets vd va (decide (bm = 2))))
    | 4 => some (.ve (.puts vd va (decide (bm = 2))))
    | _ => none
  | 0x8B => some (.ve (.ld ty vd sb n))
  | 0x8C => some (.ve (.st ty va sb n))
  | 0xC0 => if pid < 6 then some (.st (.arm (Fin.ofNat 6 pid) (bitOf w 37) (Fin.ofNat 64 (bitsOf w 36 31)))) else none
  | 0xC1 => if pid < 6 then some (.st (.tail (Fin.ofNat 6 pid) (Fin.ofNat 16 (bitsOf w 37 34)))) else none
  | 0xC2 => if pid < 6 then some (.st (.head (Fin.ofNat 6 pid) (Fin.ofNat 16 (bitsOf w 37 34)))) else none
  | 0xC3 => if pid < 4 then some (.st (.cancel (Fin.ofNat 4 pid))) else none
  | _ => none

/-- The header of a word. -/
def decHdr (w : Nat) : Hdr where
  w := if bitOf w 52 then some (Fin.ofNat 32 (bitsOf w 51 47)) else none
  s := if bitOf w 41 then some (Fin.ofNat 32 (bitsOf w 46 42)) else none

/-- The instruction of a word, refused when any bit differs from the encoding of what it reads (a reserved field, a
reserved encoding, ENG, WW, WS or V against R139) or when the fields are not legal together. -/
def decOp (w : Word64) : Option (Hdr × AnyOp) :=
  match decRaw w.toNat with
  | none => none
  | some o => if encOp (decHdr w.toNat) o = w ∧ o.legal = true then some (decHdr w.toNat, o) else none

/-- The engine code of an instruction (R138). -/
def AnyOp.eng : AnyOp → BitVec 2
  | .cc _ => 0
  | .mm _ => 1
  | .ve _ => 2
  | .st _ => 3

/-- Branch offset of an instruction, if it is one (R145). -/
def AnyOp.branch : AnyOp → Option (BitVec 29)
  | .cc (.beq _ _ o) | .cc (.bne _ _ o) | .cc (.blt _ _ o) | .cc (.bge _ _ o) | .cc (.bltu _ _ o) | .cc (.bgeu _ _ o)
  | .cc (.jmp o) => some o
  | _ => none

/-- Whether the instruction may be the last of a code blob (R145). -/
def AnyOp.ends : AnyOp → Bool
  | .cc .halt | .cc (.jmp _) => true
  | _ => false

/-- Whether an instruction has V = 1 (R158). -/
def AnyOp.varies : AnyOp → Bool
  | .cc o => (encCc o).2.1
  | _ => false

end Sys2Proof
end

