-- ==== Sys2Proof/Decode.lean ====
section
/-! DEFINITION. The commands that a word of the opcode table spells. No row of the table gives bits, so no word spells a
command; the words of the engines' instructions are read by `decOp` of Sys2Proof/Machine/Operands.lean, for the image
loader (R165). -/
namespace Sys2Proof

/-- The command that a word spells by the table's bits: none, for no row gives bits. -/
def decodeTableWord (_nbits _w : Nat) : Option Instr := none

end Sys2Proof
end

