-- ==== Sys2Proof/Config.lean ====
section
/-! DEFINITION. What the spec leaves to the world outside the model, as constants with no body: nothing can be proved
about their values, so every statement holds whatever they are. -/
namespace Sys2Proof

/-- A fresh value for each draw number: the values the spec leaves open at the moment they are read (the nanoseconds
since power-good of R141 and R462). The draw number is the model's own counter `State.free`. -/
opaque Config.freeWord64 : Nat → Word64

/-- H of R365 for a slice tag whose slice is not a whole ring of the installation: the hops over its Detours, whose transit
modules no register or message of this module names. -/
opaque Config.sliceHops : Nat → Nat

/-- The vendor's certificate of the generation-0 public key (R491), as it was written at manufacture. -/
opaque Config.vendorCert : List Byte

/-- Bytes of the on-die entropy source (R486, R490), by the number of the draw. -/
opaque Config.entropy : Nat → List Byte

/-- The CODE of the link event that R280 has a port log for a parcel whose HCRC fails: R464 names none. -/
opaque Config.linkCode : BitVec 16

end Sys2Proof
end

