-- ==== Sys2Proof/Machine/Digest.lean ====
section
/-! DEFINITION. CRC-32C (R177) and SHAKE256 (FIPS 202, used by R163, R285, R308, R309, R439, R449, R482). -/
namespace Sys2Proof.Machine

/-- One bit of the reflected CRC-32C with polynomial 0x1EDC_6F41 (R177). -/
def crcBit (c : Word32) : Word32 := if c.getLsbD 0 then (c >>> 1) ^^^ 0x82F63B78#32 else c >>> 1

/-- One byte of CRC-32C. -/
def crcByte (c : Word32) (b : Byte) : Word32 :=
  crcBit (crcBit (crcBit (crcBit (crcBit (crcBit (crcBit (crcBit (c ^^^ b.zeroExtend 32))))))))

/-- CRC-32C of a byte string: initial value and final exclusive OR of all ones (R177). -/
def crc32c (l : List Byte) : Word32 := (l.foldl crcByte 0xFFFFFFFF#32) ^^^ 0xFFFFFFFF#32

/-! ### SHAKE256

The permutation works on five planes of five lanes (FIPS 202, 3.1): plane y holds the lanes (0, y) to (4, y). The round constants
and the rotations are computed by the standard's own rules and not tabled. -/

/-- A plane of the permutation's state: five lanes. -/
abbrev Plane := List Word64

/-- Lane by lane exclusive OR of two planes. -/
def Plane.mix (p q : Plane) : Plane := List.zipWith (fun u v => u ^^^ v) p q

/-- A plane seen from lane n on: entry x is lane x + n mod 5. -/
def Plane.turn (p : Plane) (n : Nat) : Plane := p.drop n ++ p.take n

/-- The feedback register of FIPS 202, algorithm 5: one step, with polynomial x^8 + x^6 + x^5 + x^4 + 1. -/
def lfsrNext (r : Nat) : Nat := if r < 128 then 2 * r else (2 * r) ^^^ 0x171

/-- One round constant from the register: bit 2^j - 1 is the output at step j, for j from 0 to 6 (algorithm 6). -/
def roundConst : Nat → Nat → Nat → Nat × Nat
  | 0, r, acc => (r, acc)
  | n + 1, r, acc => roundConst n (lfsrNext r) (if r % 2 = 1 then acc + 2 ^ (2 ^ (6 - n) - 1) else acc)

/-- The constants of `n` rounds. -/
def roundConsts : Nat → Nat → List Word64
  | 0, _ => []
  | n + 1, r => let c := roundConst 7 r 0; BitVec.ofNat 64 c.2 :: roundConsts n c.1

/-- The walk of algorithm 2 from lane (1, 0): at step t lane x + 5y is turned by (t + 1)(t + 2) / 2. -/
def rhoWalk : Nat → Nat → Nat → Nat → List (Nat × Nat)
  | 0, _, _, _ => []
  | n + 1, t, x, y => (x + 5 * y, (t + 1) * (t + 2) / 2 % 64) :: rhoWalk n (t + 1) y ((2 * x + 3 * y) % 5)

/-- The rotation of lane x of plane y; lane (0, 0) stays. -/
def rhoOf (x y : Nat) : Nat := ((rhoWalk 24 0 1 0).find? fun e => e.1 = x + 5 * y).elim 0 (·.2)

/-- The rotations in the order in which the lanes arrive (steps rho and pi together): for lane X of plane Y the source's plane X, its
lane X + 3Y, and its rotation. -/
def rhoPi : List (List (Nat × Nat × Nat)) :=
  (List.range 5).map fun yy => (List.range 5).map fun xx => (xx, (xx + 3 * yy) % 5, rhoOf ((xx + 3 * yy) % 5) xx)

/-- Step theta: every lane takes the parities of the two neighbouring columns. -/
def stepTheta (s : List Plane) : List Plane :=
  let par := s.foldl Plane.mix (List.replicate 5 0)
  let eff := (par.turn 4).mix ((par.turn 1).map fun v => v.rotateLeft 1)
  s.map eff.mix

/-- Steps rho and pi. -/
def stepRhoPi (s : List Plane) : List Plane :=
  rhoPi.map fun row => row.map fun (y, x, n) => ((s.getD y []).getD x 0).rotateLeft n

/-- Step chi on one plane. -/
def stepChi (p : Plane) : Plane := p.mix (List.zipWith (fun u v => ~~~u &&& v) (p.turn 1) (p.turn 2))

/-- Step iota: the round constant enters lane (0, 0). -/
def stepIota (c : Word64) : List Plane → List Plane
  | (v :: p) :: s => ((v ^^^ c) :: p) :: s
  | s => s

/-- Keccak-f[1600]: twenty-four rounds. -/
def keccakF (s : List Plane) : List Plane :=
  (roundConsts 24 1).foldl (fun s c => stepIota c ((stepRhoPi (stepTheta s)).map stepChi)) s

/-- The bytes of a message as lanes. -/
def lanesOf : Nat → List Byte → List Word64
  | 0, _ => []
  | n + 1, l => BitVec.ofNat 64 (leNat (l.take 8)) :: lanesOf n (l.drop 8)

/-- Lanes as planes. -/
def planesOf : Nat → List Word64 → List Plane
  | 0, _ => []
  | n + 1, l => l.take 5 :: planesOf n (l.drop 5)

/-- Absorb `n` blocks of the rate of 136 bytes; the lanes beyond the rate stay. -/
def absorb : Nat → List Byte → List Plane → List Plane
  | 0, _, s => s
  | n + 1, l, s => absorb n (l.drop 136) (keccakF (List.zipWith Plane.mix s (planesOf 5 (lanesOf 17 l ++ List.replicate 8 0))))

/-- The padding of SHAKE: bits 1111 and pad10*1 to the rate of 136 bytes. -/
def shakePad (l : List Byte) : List Byte :=
  let r := 136 - l.length % 136
  if r = 1 then l ++ [0x9F] else l ++ [0x1F] ++ zeros (r - 2) ++ [0x80]

/-- Squeeze `n` blocks. -/
def squeeze : Nat → List Plane → List Byte
  | 0, _ => []
  | n + 1, s => (s.flatten.take 17).flatMap (fun v => leBytes 8 v.toNat) ++ squeeze n (keccakF s)

/-- SHAKE256 with an output of `n` bytes. -/
def shake256 (l : List Byte) (n : Nat) : List Byte :=
  let p := shakePad l
  (squeeze ((n + 135) / 136) (absorb (p.length / 136) p (List.replicate 5 (List.replicate 5 0)))).take n

/-- The 512-bit digest used for images, plans, manifests, shards and firmware. -/
def digest512 (l : List Byte) : List Byte := shake256 l 64

end Sys2Proof.Machine
end

