-- ==== Sys2Proof/Machine/Arith.lean ====
section
/-! DEFINITION. The number formats and their exact arithmetic (02_number_formats.md, R107 to R122). A value is held
exactly as a sign, a natural mantissa and a binary exponent, and rounded once where the spec rounds. -/
namespace Sys2Proof.Machine

/-- An exact value: NaN, an infinity, or (−1)^neg × m × 2^e. A zero keeps its sign (R49). -/
inductive Num where
  | nan
  | inf (neg : Bool)
  | fin (neg : Bool) (m : Nat) (e : Int)
  deriving DecidableEq, Repr

/-- Number of bits of x. -/
def bitLen (x : Nat) : Nat := if x = 0 then 0 else Nat.log2 x + 1

/-- The element encodings of R29. -/
inductive Fmt where
  | f32 | bf16 | e4m3 | e5m2 | e3m2 | e2m3 | e2m1
  deriving DecidableEq, Repr

/-- Exponent bits, mantissa bits and bias (R29). -/
def Fmt.par : Fmt → Nat × Nat × Nat
  | .f32 => (8, 23, 127)
  | .bf16 => (8, 7, 127)
  | .e4m3 => (4, 3, 7)
  | .e5m2 => (5, 2, 15)
  | .e3m2 => (3, 2, 3)
  | .e2m3 => (2, 3, 1)
  | .e2m1 => (2, 1, 1)

/-- Width of an encoding in bits. -/
def Fmt.width (f : Fmt) : Nat := f.par.1 + f.par.2.1 + 1

/-- The value of a code (R29 to R32). -/
def Fmt.dec (f : Fmt) (code : Nat) : Num :=
  let (eb, mb, bias) := f.par
  let s := bitOf code (eb + mb)
  let ex := (code / 2 ^ mb) % 2 ^ eb
  let m := code % 2 ^ mb
  let fin := if ex = 0 then Num.fin s m (1 - (bias : Int) - mb) else Num.fin s (2 ^ mb + m) ((ex : Int) - bias - mb)
  match f with
  | .f32 | .bf16 | .e5m2 => if ex + 1 = 2 ^ eb then (if m = 0 then .inf s else .nan) else fin
  | .e4m3 => if ex = 15 ∧ m = 7 then .nan else fin
  | _ => fin

/-- The binary32 value of a word. -/
def f32 (w : Word32) : Num := Fmt.f32.dec w.toNat

/-- The canonical NaN of binary32 (R31). -/
def nan32 : Word32 := 0x7FC00000

/-- Rounding of m × 2^e to a multiple of 2^q by a mode (R54, R55): the number of units. `r24` is the random value of R56. -/
def roundUnits (rnd : Rnd) (r24 : Nat) (m : Nat) (e q : Int) : Nat :=
  if q ≤ e then m * 2 ^ (e - q).toNat
  else
    let d := (q - e).toNat
    let lo := m / 2 ^ d
    let rem := m % 2 ^ d
    if rem = 0 then lo
    else match rnd with
      | .rne => if 2 ^ d < 2 * rem ∨ (2 * rem = 2 ^ d ∧ lo % 2 = 1) then lo + 1 else lo
      | .rna => if 2 ^ d ≤ 2 * rem then lo + 1 else lo
      | .rtz => lo
      | .dsr => if 2 ^ 24 ≤ rem * 2 ^ 24 / 2 ^ d + r24 then lo + 1 else lo

/-- The magnitude code of m × 2^e in a format, before any limit: exponent and mantissa fields as one number (R55). -/
def Fmt.magBits (f : Fmt) (rnd : Rnd) (r24 m : Nat) (e : Int) : Nat :=
  let (_, mb, bias) := f.par
  let emin : Int := 1 - (bias : Int) - mb
  if m = 0 then 0
  else
    let q := max emin (e + bitLen m - 1 - mb)
    (q - emin).toNat * 2 ^ mb + roundUnits rnd r24 m e q

/-- The code of a value in binary32 or bfloat16 (R43, R47, R52): rounding beyond the range gives infinity, NaN is
canonical. -/
def Fmt.encWide (f : Fmt) (rnd : Rnd) (r24 : Nat) (x : Num) : Nat :=
  let (eb, mb, _) := f.par
  let top := (2 ^ eb - 1) * 2 ^ mb
  match x with
  | .nan => top + 2 ^ (mb - 1)
  | .inf s => b2n s * 2 ^ (eb + mb) + top
  | .fin s m e => b2n s * 2 ^ (eb + mb) + Nat.min (f.magBits rnd r24 m e) top

/-- Round a value to binary32, to nearest even (R107). -/
def to32 (x : Num) : Word32 := BitVec.ofNat 32 (Fmt.f32.encWide .rne 0 x)

/-- Convert a value to bfloat16 by a rounding mode (R52). -/
def toBf (rnd : Rnd) (r24 : Nat) (x : Num) : Nat := Fmt.bf16.encWide rnd r24 x

/-- The largest magnitude code of a narrow format (R29, R50). -/
def Fmt.maxCode : Fmt → Nat
  | .e4m3 => 0x7E
  | .e5m2 => 0x7B
  | .e3m2 => 0x1F
  | .e2m3 => 0x1F
  | .e2m1 => 0x7
  | .f32 => 0x7F7FFFFF
  | .bf16 => 0x7F7F

/-- Whether m × 2^e > m' × 2^e'. -/
def magGt (m : Nat) (e : Int) (m' : Nat) (e' : Int) : Bool :=
  let b := min e e'
  decide (m' * 2 ^ (e' - b).toNat < m * 2 ^ (e - b).toNat)

/-- A conversion into a narrow format (R50, R51): code, saturations, invalid codes. -/
def Fmt.encNarrow (f : Fmt) (rnd : Rnd) (r24 : Nat) (x : Num) : Nat × Nat × Nat :=
  let (eb, mb, _) := f.par
  let sgn (s : Bool) := b2n s * 2 ^ (eb + mb)
  match x with
  | .nan => (0x7F, 0, 0)
  | .inf s => (sgn s + f.maxCode, 1, 0)
  | .fin s m e =>
    match f.dec f.maxCode with
    | .fin _ mm me => if magGt m e mm me then (sgn s + f.maxCode, 1, 0) else (sgn s + f.magBits rnd r24 m e, 0, 0)
    | _ => (0, 0, 0)

/-- A conversion into N2 (R34, R50, R51): two's complement code, saturations, invalid codes. -/
def encN2 (rnd : Rnd) (r24 : Nat) (x : Num) : Nat × Nat × Nat :=
  match x with
  | .nan => (0, 0, 1)
  | .inf s => (if s then 2 else 1, 1, 0)
  | .fin s m e =>
    let top := if s then 2 else 1
    if magGt m e top 0 then (if s then 2 else 1, 1, 0)
    else
      let u := roundUnits rnd r24 m e 0
      ((if s then (4 - u) % 4 else u), 0, 0)

/-- A conversion into INT32 (R120): pattern, saturations, invalid codes. -/
def encI32 (rnd : Rnd) (r24 : Nat) (x : Num) : Word32 × Nat × Nat :=
  match x with
  | .nan => (0, 0, 1)
  | .inf s => (if s then 0x80000000 else 0x7FFFFFFF, 1, 0)
  | .fin s m e =>
    let u := roundUnits rnd r24 m e 0
    if s then (if 2 ^ 31 < u then (0x80000000, 1, 0) else (BitVec.ofInt 32 (-(u : Int)), 0, 0))
    else (if 2 ^ 31 ≤ u then (0x7FFFFFFF, 1, 0) else (BitVec.ofNat 32 u, 0, 0))

/-- The signed mantissa of a finite value over exponent b ≤ e. -/
def numAt (b : Int) (neg : Bool) (m : Nat) (e : Int) : Int :=
  let x : Int := (m * 2 ^ (e - b).toNat : Nat)
  if neg then -x else x

/-- The exact sum of two values (R48, R49). -/
def Num.add : Num → Num → Num
  | .nan, _ => .nan
  | _, .nan => .nan
  | .inf a, .inf b => if a = b then .inf a else .nan
  | .inf a, _ => .inf a
  | _, .inf b => .inf b
  | .fin a m e, .fin b n f =>
    let c := min e f
    let x := numAt c a m e + numAt c b n f
    if x = 0 then .fin (a && b && decide (m = 0) && decide (n = 0)) 0 0
    else .fin (decide (x < 0)) x.natAbs c

/-- The exact product of two values. -/
def Num.mul : Num → Num → Num
  | .nan, _ => .nan
  | _, .nan => .nan
  | .inf a, .inf b => .inf (a != b)
  | .inf a, .fin b n _ => if n = 0 then .nan else .inf (a != b)
  | .fin a m _, .inf b => if m = 0 then .nan else .inf (a != b)
  | .fin a m e, .fin b n f => .fin (a != b) (m * n) (e + f)

/-- The negative of a value. -/
def Num.neg : Num → Num
  | .nan => .nan
  | .inf a => .inf !a
  | .fin a m e => .fin (!a) m e

/-- A value times 2^k. -/
def Num.scale (k : Int) : Num → Num
  | .fin a m e => .fin a m (e + k)
  | x => x

/-- binary32 addition, subtraction and multiplication under round-to-nearest-even (R107). -/
def fadd (a b : Word32) : Word32 := to32 ((f32 a).add (f32 b))
def fsub (a b : Word32) : Word32 := to32 ((f32 a).add (f32 b).neg)
def fmul (a b : Word32) : Word32 := to32 ((f32 a).mul (f32 b))

/-- Whether x < y for values that are not NaN, with −0 equal to +0 (R115). -/
def Num.lt : Num → Num → Bool
  | .inf a, .inf b => a && !b
  | .inf a, .fin _ _ _ => a
  | .fin _ _ _, .inf b => !b
  | .fin a m e, .fin b n f => let c := min e f; decide (numAt c a m e < numAt c b n f)
  | _, _ => false

/-- Whether two values that are not NaN are equal, with −0 equal to +0. -/
def Num.eqv (x y : Num) : Bool := !(x.lt y) && !(y.lt x)

/-- The sign of a value. -/
def Num.isNeg : Num → Bool
  | .nan => false
  | .inf a => a
  | .fin a _ _ => a

/-- R112: MIN (`mx` false) or MAX of two binary32 values: NaN when either is NaN; −0 is less than +0. -/
def fminmax (mx : Bool) (a b : Word32) : Word32 :=
  match f32 a, f32 b with
  | .nan, _ => nan32
  | _, .nan => nan32
  | x, y =>
    let aLess := x.lt y || (x.eqv y && x.isNeg && !y.isNeg)
    if aLess != mx then a else b

/-- Integer square root by bits: the largest r below 2^n with r² ≤ x. -/
def isqrtAux : Nat → Nat → Nat → Nat
  | 0, r, _ => r
  | n + 1, r, x => let c := r + 2 ^ n; isqrtAux n (if c * c ≤ x then c else r) x

/-- Integer square root. -/
def isqrt (x : Nat) : Nat := isqrtAux (bitLen x / 2 + 1) 0 x

/-- Reciprocal rounded once (R114). -/
def frecip (x : Num) : Num :=
  match x with
  | .nan => .nan
  | .inf s => .fin s 0 0
  | .fin s m e =>
    if m = 0 then .inf s
    else
      let k := bitLen m + 40
      let q := 2 ^ k / m
      .fin s (2 * q + (if 2 ^ k % m = 0 then 0 else 1)) (-e - k - 1)

/-- Square root, exact or with a sticky bit below 40 further bits (R114). -/
def fsqrt (x : Num) : Num :=
  match x with
  | .nan => .nan
  | .inf s => if s then .nan else .inf false
  | .fin s m e =>
    if m = 0 then .fin s 0 0
    else if s then .nan
    else
      let par := (e % 2).toNat
      let mm := m * 2 ^ (par + 80)
      let r := isqrt mm
      .fin false (2 * r + (if r * r = mm then 0 else 1)) ((e - par - 80) / 2 - 1)

/-- Reciprocal square root (R114). -/
def frsqrt (x : Num) : Num :=
  match x with
  | .nan => .nan
  | .inf s => if s then .nan else .fin false 0 0
  | .fin s m e =>
    if m = 0 then .inf s
    else if s then .nan
    else
      let par := (e % 2).toNat
      let mm := m * 2 ^ par
      let n := 2 ^ (2 * (bitLen mm + 40))
      let r := isqrt (n / mm)
      .fin false (2 * r + (if r * r * mm = n then 0 else 1)) (-((e - par) / 2) - (bitLen mm + 40) - 1)

/-- ln 2 in units of 2^−220, by the series of 1 / (k 2^k). -/
def ln2Fix : Nat := ((List.range 219).map fun i => 2 ^ 220 / ((i + 1) * 2 ^ (i + 1))).foldl (· + ·) 0

/-- Terms y^k / k! in units of 2^−220, from a current term. -/
def expTerms : Nat → Nat → Nat → Nat → Nat
  | 0, _, _, _ => 0
  | n + 1, k, t, y => t + expTerms n (k + 1) (t * y / 2 ^ 220 / (k + 1)) y

/-- 2^x (R114), correctly rounded by `to32`: exact for an integer x; otherwise irrational, held to 220 bits with a
sticky bit. An |x| below 2^−30 gives a value that rounds to 1. -/
def fexp2 (x : Num) : Num :=
  match x with
  | .nan => .nan
  | .inf s => if s then .fin false 0 0 else .inf false
  | .fin s m e =>
    if m = 0 then .fin false 1 0
    else if e + bitLen m < -30 then .fin false 1 0
    else if 9 < e + bitLen m then (if s then .fin false 1 (-1000) else .inf false)
    else
      -- x in units of 2^−64; every binary32 of this size is a multiple
      let v : Int := if s then -((m * 2 ^ (e + 64).toNat : Nat) : Int) else ((m * 2 ^ (e + 64).toNat : Nat) : Int)
      let n := v / 2 ^ 64
      let f := (v % 2 ^ 64).toNat
      if f = 0 then .fin false 1 n
      else
        let y := f * ln2Fix / 2 ^ 64
        .fin false (2 * expTerms 70 0 (2 ^ 220) y + 1) (n - 221)

/-- Bits of log2 of y (in units of 2^−300, 1 ≤ y < 2) by repeated squaring. -/
def logBits : Nat → Nat → Nat → Nat
  | 0, _, acc => acc
  | n + 1, y, acc =>
    let z := y * y / 2 ^ 300
    if 2 ^ 301 ≤ z then logBits n (z / 2) (2 * acc + 1) else logBits n z (2 * acc)

/-- log₂ x (R114), correctly rounded by `to32`: exact for a power of two; otherwise irrational, held to 100 fraction
bits with a sticky bit. -/
def flog2 (x : Num) : Num :=
  match x with
  | .nan => .nan
  | .inf s => if s then .nan else .inf false
  | .fin s m e =>
    if m = 0 then .inf true
    else if s then .nan
    else
      let b := bitLen m - 1
      let ex : Int := e + b
      if m = 2 ^ b then .fin (decide (ex < 0)) ex.natAbs 0
      else
        let v : Int := 2 * (ex * 2 ^ 100 + (logBits 100 (m * 2 ^ (300 - b)) 0 : Nat)) + 1
        .fin (decide (v < 0)) v.natAbs (-101)

/-- Exponent ⌊log₂⌋ of a non-zero magnitude. -/
def floorLog2 (m : Nat) (e : Int) : Int := e + bitLen m - 1

/-- The scale byte of a group (R53): `emax` is 8, 15, 4, 2 or 2. NaN gives 0xFF. -/
def mxScale (emax : Nat) (g : List Num) : Nat :=
  if g.any (fun x => x = .nan) then 0xFF
  else
    let logs := g.filterMap fun x => match x with
      | .inf _ => some (127 : Int)
      | .fin _ m e => if m = 0 then none else some (floorLog2 m e)
      | .nan => none
    match logs with
    | [] => 0
    | l :: r => (max 0 (min 254 (r.foldl max l - emax + 127))).toNat

/-- The exponent e of R53 for an MX element format. -/
def Fmt.emax : Fmt → Nat
  | .e4m3 => 8
  | .e5m2 => 15
  | .e3m2 => 4
  | .e2m3 => 2
  | .e2m1 => 2
  | _ => 0

/-- An element of an MX group under scale byte x (R50, R53): code, saturations. -/
def mxElem (f : Fmt) (rnd : Rnd) (r24 x : Nat) (v : Num) : Nat × Nat × Nat :=
  if x = 0xFF then (0, 0, 0) else f.encNarrow rnd r24 (v.scale (127 - (x : Int)))

/-- The value of an E8M0 scale byte as an exponent (R30): `none` is NaN. -/
def scaleExp (v : Byte) : Option Int := if v = 0xFF then none else some ((v.toNat : Int) - 127)

/-- The random value r24 of R56: layer step, tile number, element index. -/
def dsr24 (lstep : Nat) (tile : Word32) (e : Nat) : Nat :=
  let x := BitVec.ofNat 64 lstep * 0x9E3779B97F4A7C15#64
  let x := x ^^^ ((tile.zeroExtend 64 <<< 14) ||| BitVec.ofNat 64 e)
  let x := x ^^^ (x >>> 30)
  let x := x * 0xBF58476D1CE4E5B9#64
  let x := x ^^^ (x >>> 27)
  let x := x * 0x94D049BB133111EB#64
  let x := x ^^^ (x >>> 31)
  (x >>> 40).toNat

/-- The value of an element of the vector engine as binary32 bits (R98): BF16 widened exactly. -/
def bfTo32 (x : Nat) : Word32 := BitVec.ofNat 32 (x % 65536 * 65536)

/-- INT32 clamp (R108): value and saturations. -/
def clampI32 (x : Int) : Word32 × Nat :=
  if (2 ^ 31 - 1 : Int) < x then (0x7FFFFFFF, 1) else if x < -(2 ^ 31 : Int) then (0x80000000, 1) else (BitVec.ofInt 32 x, 0)

/-- U8 clamp (R108): value and saturations. -/
def clampU8 (x : Int) : Nat × Nat := if (255 : Int) < x then (255, 1) else if x < 0 then (0, 1) else (x.toNat, 0)

end Sys2Proof.Machine
end

