-- ==== Sys2Proof/Machine/Flags.lean ====
section
/-! DEFINITION. The status computations that several families share: clip counters (R59 to R61), the write-1-to-clear and
write-1-to-set rules (R10 to R12), and the 32-bit sums that wrap or stop. -/
namespace Sys2Proof.Machine

/-- CORE_CLIPn after `sat` saturations and `inv` invalid codes (R59, R61): SAT stops at 0xFF_FFFF and SOVF is set when the
limit cuts off any part, INVAL stops at 0x7F. -/
def clipAdd (x : Word32) (sat inv : Nat) : Word32 :=
  let s := x.toNat % 2 ^ 24 + sat
  let i := Nat.min (x.toNat / 2 ^ 24 % 128 + inv) 127
  let o := bitOf x.toNat 31 || decide (2 ^ 24 ≤ s)
  BitVec.ofNat 32 (b2n o * 2 ^ 31 + i * 2 ^ 24 + Nat.min s (2 ^ 24 - 1))

/-- Add to the clip counter of a tile register (R59). -/
def Core.addClip (k : Core) (t sat inv : Nat) : Core :=
  if sat = 0 ∧ inv = 0 then k else { k with clips := sset 0 k.clips t (clipAdd (k.clip t) sat inv) }

/-- Add the invalid codes of a list of fill verdicts (R187). -/
def Core.addLate (k : Core) (l : List (Nat × Nat × Nat)) : Core := l.foldl (fun k x => k.addClip x.2.1 0 x.2.2) k

/-- At the start of beat b the additions of fill verdicts of earlier beats stand in the counters (R61). -/
def Core.settleClips (k : Core) (b : Nat) : Core :=
  match k.pendClip with
  | [] => k
  | l => { (k.addLate (l.filter fun x => decide (x.1 < b))) with pendClip := l.filter fun x => decide (b ≤ x.1) }

/-- A write of CORE_CLIPn by the debug window (R59): SOVF is W1C, the rest RW. -/
def clipWrite (x v : Word32) : Word32 :=
  BitVec.ofNat 32 (b2n (bitOf x.toNat 31 && !bitOf v.toNat 31) * 2 ^ 31 + v.toNat % 2 ^ 31)

/-- Write 1 to clear (R11): the bits of `mask` that the write has set are cleared. -/
def w1c (x mask v : Word32) : Word32 := x &&& ~~~(v &&& mask)

/-- A counter of 32 bits that wraps. -/
def wrap32 (x : Word32) (n : Nat) : Word32 := x + BitVec.ofNat 32 n

end Sys2Proof.Machine
end

