-- ==== Sys2Proof/Machine/MatrixOps.lean ====
section
/-! DEFINITION. What the lane row, the readout unit and the expander compute (R42 to R49, R65 to R89, R172 to R196): the
sums of a compute instruction, the columns read out or loaded, and the expansion and checks of a block. -/
namespace Sys2Proof

/-- Elements per beat K of a shape (R71). -/
def MmShape.k : MmShape → Nat
  | .b16 => 8 | .f8 _ _ => 16 | .f4 => 32 | .f4e => 32 | .n3 => 32 | .n2 _ => 64

/-- The element encoding of an MM.F8 format (R81). -/
def F8Fmt.fmt : F8Fmt → Machine.Fmt
  | .e4m3 => .e4m3 | .e5m2 => .e5m2 | .mx8e4m3 => .e4m3 | .mx8e5m2 => .e5m2 | .mx6e2m3 => .e2m3 | .mx6e3m2 => .e3m2

/-- Whether an MM.F8 format carries block scales (R28). -/
def F8Fmt.scaled : F8Fmt → Bool
  | .e4m3 | .e5m2 => false
  | _ => true

/-- Element width of the operand format (R27). -/
def MmShape.opWidth : MmShape → Nat
  | .b16 => 16 | .f8 _ o => o.fmt.width | .f4 => 4 | .f4e => 4 | .n3 => 4 | .n2 _ => 2

/-- Tokens of a compute instruction (R80). -/
def MmArgs.n (a : MmArgs) : Nat := a.nt.val + 1

/-- Active lanes (R85). -/
def MmArgs.lanes (a : MmArgs) : List Nat :=
  match a.half with
  | none => List.range 64
  | some false => List.range 32
  | some true => (List.range 32).map (· + 32)

/-- Operand beats of a compute instruction, the padding of a short one included (R69). -/
def MmArgs.operBeats (a : MmArgs) : Nat := 4 * Nat.max a.n 4

/-- Beats before the first operand beat (R70). -/
def MmArgs.xt (a : MmArgs) : Nat := if a.tr then (a.n + 3) / 4 else 0

/-- The next operand beat from beat o on that adds: padding adds nothing (R69). -/
def MmArgs.nextOper (a : MmArgs) (o : Nat) : Nat :=
  let mx := Nat.max a.n 4
  if o % mx < a.n then o else (o / mx + 1) * mx

/-- Columns that MM.RD writes (R87). -/
def RdFmt.cols : RdFmt → Nat
  | .copy32 => 16 | .bf16 => 32 | .e4m3 => 64 | .e5m2 => 64

/-- Bytes of one element of a readout format. -/
def RdFmt.bytes : RdFmt → Nat
  | .copy32 => 4 | .bf16 => 2 | .e4m3 => 1 | .e5m2 => 1

end Sys2Proof

namespace Sys2Proof.Machine

/-- Element j of width w of a row read as one little-endian bit string (R37). -/
def elemAt (row w j : Nat) : Nat := row / 2 ^ (w * j) % 2 ^ w

/-- The beats of a compute instruction (R70). -/
def mmBeats (sh : MmShape) (a : MmArgs) (e2 : Bool) : Nat :=
  let n := a.n
  let xt := if a.tr then (n + 3) / 4 else 0
  let xe := match sh with
    | .f4e => if e2 then (n + 1) / 2 else (n + 5) / 6
    | _ => 0
  4 * Nat.max n 4 + xt + xe

/-! ### Weights of a lane -/

/-- The escape entries of group g in an escape row: per entry, its position and E4M3 value when valid (R39). -/
def escEntry (esc : Nat) (g e : Nat) : Option (Nat × Nat) :=
  let w := elemAt esc 16 (2 * g + e)
  if bitOf w 15 then some (bitsOf w 12 8, w % 256) else none

/-- The escape that applies at a position of a group: entry 0 before entry 1 (R40, R41). -/
def escAt (esc g pos : Nat) : Option Nat :=
  match escEntry esc g 0, escEntry esc g 1 with
  | some (p, v), o => if p = pos then some v else (match o with
    | some (p', v') => if p' = pos then some v' else none
    | none => none)
  | none, some (p', v') => if p' = pos then some v' else none
  | none, none => none

/-- One invalid count per beat for a group whose two entries name one position (R41). -/
def escClash (esc g : Nat) : Nat :=
  match escEntry esc g 0, escEntry esc g 1 with
  | some (p, _), some (p', _) => b2n (decide (p = p'))
  | _, _ => 0

/-- The weight at element e of quarter q as an exact value before the group scale (R29, R33, R40). -/
def weightNum (sh : MmShape) (row esc q e : Nat) : Num :=
  let j := q * sh.k + e
  match sh with
  | .b16 => Fmt.bf16.dec (elemAt row 16 j)
  | .f8 w _ => w.fmt.dec (elemAt row w.fmt.width j)
  | .f4 => Fmt.e2m1.dec (elemAt row 4 j)
  | .f4e => match escAt esc q e with
    | some v => Fmt.e4m3.dec v
    | none => Fmt.e2m1.dec (elemAt row 4 j)
  | .n3 => Fmt.e4m3.dec (elemAt row 8 (48 + elemAt row 3 j))
  | .n2 _ => .fin false 0 0

/-- The operand element code as an exact value. -/
def operandNum (sh : MmShape) (x : Nat) : Num :=
  match sh with
  | .b16 => Fmt.bf16.dec x
  | .f8 _ o => o.fmt.dec x
  | _ => Fmt.e2m1.dec x

/-- N2 and ternary codes as integers (R34). -/
def n2Int (x : Nat) : Int := if x = 1 then 1 else if x = 2 then -2 else if x = 3 then -1 else 0

/-- The exponent of the scales of quarter q, or none for a NaN scale (R28, R44, R83). -/
def scaleSum (sh : MmShape) (wstrip ostrip q : Nat) : Option Int :=
  let g := match sh with
    | .f8 _ _ => q / 2
    | _ => q
  let (wsc, osc) := match sh with
    | .f8 w o => (w.scaled, o.scaled)
    | .b16 | .n2 _ => (false, false)
    | _ => (true, true)
  let wb : Byte := if wsc then BitVec.ofNat 8 (elemAt wstrip 8 g) else 0x7F
  let ob : Byte := if osc then BitVec.ofNat 8 (elemAt ostrip 8 g) else 0x7F
  match scaleExp wb, scaleExp ob with
  | some a, some b => some (a + b)
  | _, _ => none

/-- The tree of MM.B16 over eight rounded products (R43). -/
def b16Sum (p : List Word32) : Word32 :=
  let g (i : Nat) := p.getD i 0
  fadd (fadd (fadd (g 0) (g 1)) (fadd (g 2) (g 3))) (fadd (fadd (g 4) (g 5)) (fadd (g 6) (g 7)))

/-- One operand beat of one lane (R42 to R49): the new accumulator, saturations and invalid codes. `ops` are the operand
codes of the quarter. -/
def beatStep (sh : MmShape) (acc : Word32) (row esc wstrip ostrip q : Nat) (ops : List Nat) : Word32 × Nat × Nat :=
  let idx := List.range sh.k
  match sh with
  | .b16 =>
    let p := idx.map fun e => to32 ((weightNum sh row esc q e).mul (operandNum sh (ops.getD e 0)))
    (fadd acc (b16Sum p), 0, 0)
  | .n2 t =>
    let w (e : Nat) := elemAt row 2 (q * 64 + e)
    let inv := if t then (idx.filter fun e => w e = 2).length else 0
    let s := (idx.map fun e => (if t && decide (w e = 2) then 0 else n2Int (w e)) * n2Int (ops.getD e 0)).foldl (· + ·) 0
    let (v, sat) := clampI32 (signed 32 acc.toNat + s)
    (v, sat, inv)
  | _ =>
    let s := idx.foldl (fun x e => x.add ((weightNum sh row esc q e).mul (operandNum sh (ops.getD e 0)))) (Num.fin false 0 0)
    let v := match scaleSum sh wstrip ostrip q with
      | some k => to32 ((f32 acc).add (s.scale k))
      | none => nan32
    let inv := match sh with
      | .f4e => escClash esc q
      | _ => 0
    (v, 0, inv)

/-! ### The operand beats of a compute instruction -/

/-- The operand address (R82). -/
def operAddr (sa : Word64) : Nat := bitsOf sa.toNat 21 6 * 64

/-- The element-major operand block under TR, as it stands (R86); nothing without TR. -/
def Core.operBlock (k : Core) (sh : MmShape) (a : MmArgs) (sa : Word64) : List Byte :=
  if a.tr then k.engBytes (operAddr sa) (4 * sh.k * 8 * sh.opWidth) else []

/-- Operand codes of quarter q of token j (R69, R82, R86). -/
def Core.quarterOps (k : Core) (sh : MmShape) (a : MmArgs) (sa : Word64) (blk : List Byte) (q j : Nat) : List Nat :=
  let w := sh.opWidth
  let idx := (List.range sh.k).map (· + q * sh.k)
  if a.tr then idx.map fun e => elemAt (leNat ((blk.drop (e * 8 * w)).take (8 * w))) w j
  else
    let row := leNat (k.engBytes (operAddr sa + 64 * j) 64)
    idx.map fun e => elemAt row w e

/-- Token j's scale record (R82). -/
def Core.scaleRec (k : Core) (ss : Word64) (j : Nat) : Nat := leNat (k.engBytes (bitsOf ss.toNat 21 2 * 4 + 4 * j) 4)

/-- `n` bytes of a latch set as one number. -/
def Latch.word (l : Latch) (at_ n : Nat) : Nat :=
  let part := l.bytes.filter fun e => decide (at_ ≤ e.1) && decide (e.1 < at_ + n)
  leNat (rdBytes part at_ n)

/-- Operand beat o of a compute instruction (R69, R83 to R85): every active lane adds the beat sum of its quarter with the
token's quarter into the bank; the counts go to the set's SRC (R74). DESIGN CHOICE (log entry 125): an addition reads what the beat before has
left in the element, also when two computes add to one element fewer than four beats apart. -/
def Core.operandBeat (k : Core) (sh : MmShape) (a : MmArgs) (sa ss : Word64) (blk : List Byte) (o : Nat) : Core :=
  let mx := Nat.max a.n 4
  let q := o / mx
  let j := o % mx
  let l := k.latch a.ls
  let ops := k.quarterOps sh a sa blk q j
  let os := k.scaleRec ss j
  let (banks, sat, inv) := a.lanes.foldl (fun (b, s, n) i =>
    let key := bankKey a.acc.val i ((a.col.val + j) % 64)
    let acc := if a.clr && decide (q = 0) then 0 else sget 0 b key
    let (v, s', n') := beatStep sh acc (l.word (64 * i) 64) (l.word (4352 + 16 * i) 16) (l.word (4096 + 4 * i) 4) os q ops
    (sset 0 b key v, s + s', n + n')) (k.banks, 0, 0)
  { k with banks := banks }.addClip l.src.val sat inv

/-! ### Readout -/

/-- One element of MM.RD (R88): code, saturations. -/
def rdElem (df : RdFmt) (rnd : Rnd) (r24 : Nat) (v : Word32) : Nat × Nat :=
  match df with
  | .copy32 => (v.toNat, 0)
  | .bf16 => (toBf rnd r24 (f32 v), 0)
  | .e4m3 => let (c, s, _) := Fmt.e4m3.encNarrow rnd r24 (f32 v); (c, s)
  | .e5m2 => let (c, s, _) := Fmt.e5m2.encNarrow rnd r24 (f32 v); (c, s)

/-- Beat t of MM.RD (R88): columns e = 2t and 2t + 1 of every row as the bank holds them, as one piece for each row, with the
saturations. -/
def Core.readoutBeat (k : Core) (acc col : Nat) (td : Tile16) (df : RdFmt) (rnd : Rnd) (st : Word64) (lstep t : Nat) :
    List TileWr × Nat :=
  let n := df.cols
  let rows := (List.range 64).map fun i => [2 * t, 2 * t + 1].map fun e =>
    rdElem df rnd (dsr24 lstep (st.truncate 32) (i * n + e)) (sget 0 k.banks (bankKey acc i ((col + e) % 64)))
  ((List.range 64).map fun i => ⟨td, 64 * i + 2 * t * df.bytes, (rows.getD i []).flatMap fun x => leBytes df.bytes x.1⟩,
   (rows.flatten.map (·.2)).sum)

/-- Beat t of MM.LA (R89): words e = 2t and 2t + 1 of every row of the tile register go to the bank. -/
def Core.loadBeat (k : Core) (acc col : Nat) (ts : Tile16) (t : Nat) : Core :=
  let b := (k.engTile ts.val).bytes
  let els := (List.range 64).flatMap fun i => [2 * t, 2 * t + 1].map fun e =>
    (bankKey acc i ((col + e) % 64), (BitVec.ofNat 32 (leNat (rdBytes b (64 * i + 4 * e) 4)) : Word32))
  { k with banks := els.foldl (fun m e => sset 0 m e.1 e.2) k.banks }

/-! ### Blocks -/

/-- Header fields (R175) of a header slot. -/
def hdrTile (h : BitVec 128) : Nat := bitsOf h.toNat 63 32
def hdrSlen (h : BitVec 128) : Nat := bitsOf h.toNat 76 64
def hdrKind (h : BitVec 128) : Nat := bitsOf h.toNat 83 80
def hdrS (h : BitVec 128) : Bool := bitOf h.toNat 84
def hdrE (h : BitVec 128) : Bool := bitOf h.toNat 85
def hdrTable (h : BitVec 128) : Nat := bitsOf h.toNat 91 88
def hdrTchk (h : BitVec 128) : Nat := bitsOf h.toNat 103 96

/-- Bytes of the strips a block carries. -/
def hdrStrips (h : BitVec 128) : Nat := 256 * b2n (hdrS h) + 1024 * b2n (hdrE h)

/-- The header slot of R192. -/
def openHdr : BitVec 128 := 0x0F00000000000000000000#128

/-- Whether a fill of the register is an Open fill (R194). -/
def Tile.isOpen (t : Tile) : Bool := decide (t.hdr = openHdr) && decide (t.texp = 0xFFFFFFFF)

/-- END[u] of a Lossless payload (R182). -/
def endOf (b : Memory) (u : Nat) : Nat := leNat (rdBytes b (2 * u) 2)

/-- Check 1 of R196: the header's fields. -/
def hdrOk (t : Tile) : Bool :=
  let h := t.hdr
  let n := h.toNat
  let len := hdrSlen h
  let rsv := decide (bitsOf n 79 77 = 0) && decide (bitsOf n 87 86 = 0) && decide (bitsOf n 95 92 = 0) && decide (bitsOf n 127 104 = 0)
  let tab := decide (hdrTable h = 0) && decide (hdrTchk h = 0)
  rsv && (match hdrKind h with
    | 0 => decide (len = 4096 + hdrStrips h) && tab
    | 1 => decide (len = endOf t.bytes 15 + hdrStrips h) && decide (len ≤ 5376) && decide (1 ≤ len)
    | 2 => hdrS h && !hdrE h && decide (len = 3840) && tab
    | 3 => hdrS h && !hdrE h && decide (len = 3584) && tab
    | _ => false)

/-- Check 2: the CRC over the header, its CRC field taken as zero, and every payload byte up to SLEN (R177, R196). DEDUCED (log entry 124): a payload byte that
R38 calls ignored is under the CRC like any other. -/
def crcOk (t : Tile) : Bool :=
  let hb := leBytes 16 (t.hdr.toNat / 2 ^ 32 * 2 ^ 32)
  decide ((crc32c (hb ++ rdBytes t.bytes 0 (hdrSlen t.hdr))).toNat = t.hdr.toNat % 2 ^ 32)

/-- TCHK of a table (R184). -/
def tableCheck (t : Word64) : Nat := ((List.range 8).map fun k => (k + 1) * bitsOf t.toNat (8 * k + 7) (8 * k)).sum % 256

/-- The length of symbol s in a table. -/
def symLen (t : Word64) (s : Nat) : Nat := bitsOf t.toNat (4 * s + 3) (4 * s)

/-- Whether a table is valid (R184). -/
def tableOk (t : Word64) : Bool :=
  let present := (List.range 16).filter fun s => symLen t s ≠ 0
  decide (present = []) || (decide (present.length = 1) && present.all fun s => symLen t s = 1)
    || decide ((present.map fun s => 2 ^ (15 - symLen t s)).sum = 2 ^ 15)

/-- The canonical codes: (length, code, symbol), by the assignment of R184. -/
def canonCodes (t : Word64) : List (Nat × Nat × Nat) :=
  ((List.range 15).foldl (fun (acc, code) l =>
    let len := l + 1
    let (a, c) := (List.range 16).foldl (fun (a, c) s =>
      if symLen t s = len then (a ++ [(len, c % 2 ^ len, s)], c + 1) else (a, c)) (acc, code)
    (a, c * 2)) (([] : List (Nat × Nat × Nat)), 0)).1

/-- Bits of a byte string, bit 0 of the first byte first (R183). -/
def bitsOfBytes (l : List Byte) : List Bool := l.flatMap fun b => (List.range 8).map fun i => b.getLsbD i

/-- Decode `n` symbols: each code is read most significant bit first. `none` when a code is unassigned or bits run out.
Structural on the bits: `len` and `code` are what has been read of the present code. -/
def decodeSyms (codes : List (Nat × Nat × Nat)) : List Bool → Nat → Nat → Nat → List Nat → Option (List Nat × List Bool)
  | bs, 0, _, _, acc => some (acc.reverse, bs)
  | [], _ + 1, _, _, _ => none
  | b :: bs, n + 1, len, code, acc =>
    let len := len + 1
    let code := 2 * code + b2n b
    match codes.find? fun c => c.1 = len ∧ c.2.1 = code with
    | some c => decodeSyms codes bs n 0 0 (c.2.2 :: acc)
    | none => if 15 ≤ len then none else decodeSyms codes bs (n + 1) len code acc

/-- The 256 element bytes of substream u (R181 to R185), or none when it is not well formed. -/
def substream (b : Memory) (tab : Word64) (u : Nat) : Option (List Byte) :=
  let lo := if u = 0 then 32 else endOf b (u - 1)
  let hi := endOf b u
  if hi < lo ∨ 256 < hi - lo then none
  else match decodeSyms (canonCodes tab) (bitsOfBytes (rdBytes b lo (hi - lo))) 512 0 0 [] with
    | some (syms, rest) =>
      if decide (rest.length < 8) && rest.all (fun x => !x) then
        some ((List.range 256).map fun j => BitVec.ofNat 8 (syms.getD (2 * j) 0 + 16 * syms.getD (2 * j + 1) 0))
      else none
    | none => none

/-- The element bytes of a Lossless block, or none (R185). -/
def lossless (t : Tile) (tab : Word64) : Option (List Byte) :=
  if tab = 0 then none
  else (List.range 16).foldl (fun o u => match o, substream t.bytes tab u with
    | some l, some d => some (l ++ d)
    | _, _ => none) (some [])

/-- Row r of a Ternary packed payload with its invalid bytes (R187). -/
def ternaryRow (b : Memory) (r : Nat) : List Byte × Nat :=
  let code (t : Nat) := if t = 2 then 3 else t
  let vs := (List.range 52).map fun m =>
    let v := (rdByte b (52 * r + m)).toNat
    (m, v, decide ((if m = 51 then 3 else 243) ≤ v))
  let els := vs.flatMap fun (m, v, bad) =>
    (List.range (if m = 51 then 1 else 5)).map fun i => if bad then 0 else code (v / 3 ^ i % 3)
  ((List.range 64).map fun j => BitVec.ofNat 8
      (els.getD (4 * j) 0 + 4 * els.getD (4 * j + 1) 0 + 16 * els.getD (4 * j + 2) 0 + 64 * els.getD (4 * j + 3) 0),
    (vs.filter fun x => x.2.2).length)

/-- What a fill writes into the latch set: rows, scale strip, escape strip (R179, R186, R187, R194), with invalid codes. -/
def expand (t : Tile) (tab : Word64) : List Byte × List Byte × List Byte × Nat :=
  let b := t.bytes
  let strips (off : Nat) :=
    (if hdrS t.hdr then rdBytes b off 256 else zeros 256,
     if hdrE t.hdr then rdBytes b (off + 256 * b2n (hdrS t.hdr)) 1024 else zeros 1024)
  if t.isOpen then (rdBytes b 0 4096, rdBytes b 4096 256, rdBytes b 4352 1024, 0)
  else match hdrKind t.hdr with
    | 1 =>
      let (s, e) := strips (endOf b 15)
      ((lossless t tab).getD (zeros 4096), s, e, 0)
    | 2 => ((List.range 64).flatMap fun r => rdBytes b (56 * r) 56 ++ zeros 8, rdBytes b 3584 256, zeros 1024, 0)
    | 3 =>
      let rows := (List.range 64).map fun r => ternaryRow b r
      (rows.flatMap (·.1), rdBytes b 3328 256, zeros 1024, (rows.map (·.2)).sum)
    | _ =>
      let (s, e) := strips 4096
      (rdBytes b 0 4096, s, e, 0)

/-- E2 of a filled set (R73): some group of some row has both escape entries valid. -/
def escTwo (esc : List Byte) : Bool :=
  (List.range 256).any fun g => (byteAt esc (4 * g + 1)).getLsbD 7 && (byteAt esc (4 * g + 3)).getLsbD 7

/-- The verdict of a fill (R196): 0 when every check passes, else CAUSE of the first that fails. -/
def fillCause (t : Tile) (tables : Sparse Word64) : Nat :=
  if t.isOpen then 0
  else if !hdrOk t then 4
  else if !crcOk t then 1
  else if t.texp ≠ 0xFFFFFFFF ∧ hdrTile t.hdr ≠ t.texp.toNat then 2
  else if hdrKind t.hdr = 1 then
    let tab := sget 0 tables (hdrTable t.hdr)
    if hdrTchk t.hdr ≠ tableCheck tab then 3
    else if (lossless t tab).isNone then 5
    else 0
  else 0

end Sys2Proof.Machine
end

