-- ==== Sys2Proof/Machine/StreamOps.lean ====
section
/-! DEFINITION. What the stream engine computes (R204 to R231, R242, R385): descriptors and their checks, the transfers of a
slot, slot ownership, reading a source region, writing a filled slot, handing over and cancelling. -/
namespace Sys2Proof.Machine

/-! ### Descriptors -/

/-- Size of a region of the module address space (R384). -/
def regionSize (r : Nat) : Nat :=
  match r with
  | 0 => 0x400000 | 1 => 0x2000000 | 2 => 1152000000000 | 3 => 0x4000000 | 4 => 0x800000 | 5 => 0x800000 | _ => 0

/-- The descriptor that 128 bytes spell, without its checks (R207, R208). -/
def parseDesc (b : List Byte) (lstep : Nat) (pc : BitVec 15) (first : Nat) : Desc :=
  let c := leAt b 0x08 8
  let g := leAt b 0x18 8
  { start := leAt b 0 6, xk := bitsOf c 2 0, rk := bitOf c 3, nslot := bitsOf c 7 4, lead := bitsOf c 10 8, tck := bitOf c 11
    unit := bitsOf c 23 16, tps := bitsOf c 29 24, slsz := bitsOf c 39 32, rbaseT := bitsOf c 43 40, rbase := leAt b 0x10 2
    gate := if bitOf g 48 then some (bitsOf g 31 0, bitsOf g 47 32) else none
    counts := (List.range 5).map fun k => leAt b (0x20 + 4 * k) 4
    strides := (List.range 5).map fun k => signed 40 (leAt b (0x40 + 8 * k) 5)
    botbase := leAt b 0x34 3, tbase := BitVec.ofNat 32 (leAt b 0x38 4)
    tmul := (List.range 5).map fun k => BitVec.ofNat 32 (leAt b (0x68 + 4 * k) 4)
    layerStep := lstep, armPc := pc, first := first }

/-- The source or destination region of a descriptor. -/
def Desc.region (d : Desc) : Nat := d.start / 2 ^ 44

/-- Whether the kind is a block kind. -/
def Desc.isBlock (d : Desc) : Bool := decide (d.xk ≠ 0)

/-- Transfers of a descriptor (R209). -/
def Desc.transfers (d : Desc) : Nat := (d.counts.map (· + 1)).foldl (· * ·) 1

/-- Slots of a descriptor: TPS + 1 transfers to a slot. -/
def Desc.slots (d : Desc) : Nat := (d.transfers + d.tps) / (d.tps + 1)

/-- The digits i0 to i4 of a transfer index (R209). -/
def digits : List Nat → Nat → List Nat
  | [], _ => []
  | c :: r, i => i % (c + 1) :: digits r (i / (c + 1))

/-- P[i] (R209): an address, or a BOT entry under BLKB. -/
def Desc.pos (d : Desc) (i : Nat) : Nat :=
  let base : Nat := if d.xk = 2 then d.botbase else d.start
  ((base : Int) + ((digits d.counts i).zip d.strides).foldl (fun (a : Int) x => a + (x.1 : Int) * x.2) 0).toNat

/-- TEXP[i] (R209, R211). -/
def Desc.texp (d : Desc) (i : Nat) : Word32 :=
  if d.tck then ((digits d.counts i).zip d.tmul).foldl (fun a x => a + BitVec.ofNat 32 x.1 * x.2) d.tbase else 0xFFFFFFFF

/-- The bounding box of the positions (R212, check 0x6). -/
def Desc.box (d : Desc) : Int × Int :=
  let base : Nat := if d.xk = 2 then d.botbase else d.start
  (d.counts.zip d.strides).foldl (fun (lo, hi) x => (lo + min 0 ((x.1 : Int) * x.2), hi + max 0 ((x.1 : Int) * x.2)))
    ((base : Int), (base : Int))

/-- Length of a transfer for the bounds. -/
def Desc.boundLen (d : Desc) : Nat := if d.xk = 3 then 64 else (d.unit + 1) * 64

/-- Whether a region may be used with a kind in a direction (R206). -/
def regionOk (inbound : Bool) (xk : Nat) (r : Int) : Bool :=
  if inbound then
    match xk with
    | 0 => decide (0 ≤ r) && decide (r ≤ 3)
    | 3 => decide (0 ≤ r) && decide (r ≤ 2)
    | _ => decide (r = 2)
  else decide (xk = 0) && (decide (r = 2) || decide (r = 4) || decide (r = 5))

/-- Check 0x1 of R212: reserved encodings and fields that must be zero. -/
def descZeros (b : List Byte) (inbound : Bool) (d : Desc) : Bool :=
  let c := leAt b 0x08 8
  let z (off n : Nat) : Bool := decide (leAt b off n = 0)
  decide (d.xk ≤ 3) && z 6 2 && decide (bitsOf c 63 44 = 0) && decide (bitsOf c 31 30 = 0) && decide (bitsOf c 15 12 = 0)
    && (d.rk || decide (d.rbaseT = 0)) && (!d.rk || decide (d.slsz = 0)) && (!d.isBlock || decide (d.tps = 0))
    && (decide (d.xk ≠ 2) || decide (d.unit = 0)) && ((inbound && decide (d.region ≠ 0)) || decide (d.lead = 0))
    && z 0x12 6 && (!d.rk || z 0x10 2) && decide (leAt b 0x18 8 / 2 ^ 49 = 0) && z 0x37 1
    && (decide (d.xk = 2) || z 0x34 3) && z 0x3C 4 && (List.range 5).all (fun k => z (0x45 + 8 * k) 3) && z 0x7C 4
    && (d.isBlock || !d.tck) && (d.gate.isNone || (inbound && decide (d.region = 1)))

/-- Check 0x4 of R212: the slot holds its transfers. -/
def descFits (d : Desc) : Bool :=
  let u := d.unit + 1
  let n := (d.tps + 1) * u
  let s := d.slsz + 1
  if d.rk then (if d.isBlock then (decide (d.xk = 2) || decide (u ≤ 85)) else decide (n ≤ 84))
  else match d.xk with
    | 2 => decide (85 ≤ s)
    | 3 => decide (u ≤ s)
    | _ => decide (n ≤ s)

/-- The reason of the first failing check of R212, or 0. -/
def descCheck (k : Core) (b : List Byte) (inbound : Bool) (d : Desc) : Nat :=
  let (lo, hi) := d.box
  let r0 : Int := lo / 2 ^ 44
  let r1 : Int := hi / 2 ^ 44
  let regions := (List.range (r1 - r0 + 1).toNat).map fun (i : Nat) => r0 + (i : Int)
  let slotBytes := (d.slsz + 1) * 64
  let ring0 := d.rbase * 64
  let ring1 := ring0 + (d.nslot + 1) * slotBytes
  if !descZeros b inbound d then 1
  else if !(if d.xk = 2 then regionOk inbound 2 d.region
      else decide (r1 - r0 ≤ 15) && regions.all (fun r => regionOk inbound d.xk r)) then 2
  else if !(decide (2 ≤ d.nslot) && decide (d.lead ≤ d.nslot) && (!d.isBlock || decide (d.tps = 0))) then 3
  else if !descFits d then 4
  else if !(decide (d.start % 64 = 0) && (decide (d.xk = 2) || d.strides.all fun x => decide (x % 64 = 0))) then 5
  else if !(if d.xk = 2 then decide (0 ≤ lo) && decide (hi + 1 ≤ 16777215)
      else decide (0 ≤ lo) && decide (r0 = r1) && decide ((hi % 2 ^ 44 + d.boundLen : Int) ≤ regionSize r0.toNat)) then 6
  else if !d.rk && (decide (sramSize < ring1)
      || (decide (k.codeLen ≠ 0) && decide (ring0 < codeBase + k.codeBytes) && decide (codeBase < ring1))) then 7
  else 0

/-- Ring geometry of a descriptor (R214). -/
def Desc.geo (d : Desc) : Geo := { rk := d.rk, rbase := d.rbase, rbaseT := d.rbaseT, nslot := d.nslot, slsz := d.slsz }

/-! ### Slots of a channel -/

/-- Whether a channel is inbound (R204). -/
def inboundCh (ch : Nat) : Bool := decide (ch < 4)

/-- Credits of an inbound channel (R204). -/
def creditsOf (ch : Nat) : Nat := if ch < 2 then 2 else 1

/-- One past the last slot of the armed descriptors (R225). -/
def Chan.limit (c : Chan) : Nat :=
  match c.active, c.shadow with
  | some a, some b => a.first + a.slots + b.slots
  | some a, none => a.first + a.slots
  | none, _ => c.t

/-- The descriptor that owns slot count n, with its first slot (R221). -/
def Chan.owner (c : Chan) (n : Nat) : Option Desc :=
  match c.active with
  | none => none
  | some a =>
    if n < a.first then none
    else if n < a.first + a.slots then some a
    else match c.shadow with
      | none => none
      | some b => if n < a.first + a.slots + b.slots then some { b with first := a.first + a.slots } else none

/-- The ring slot of a slot count (R217). -/
def Chan.ringSlot (c : Chan) (n : Nat) : Nat := n % (c.geo.nslot + 1)

/-- Transfers in slot n of a descriptor. -/
def Desc.slotXfers (d : Desc) (n : Nat) : List Nat :=
  let i0 := (n - d.first) * (d.tps + 1)
  (List.range (Nat.min (d.tps + 1) (d.transfers - i0))).map (· + i0)

/-- Mark or clear a range of slot counts in the mask of a channel. -/
def Chan.mark (c : Chan) (on : Bool) (n len : Nat) : Chan :=
  (List.range len).foldl (fun c i =>
    let b : BitVec 16 := BitVec.ofNat 16 (2 ^ c.ringSlot (n + i))
    { c with mask := if on then c.mask ||| b else c.mask &&& ~~~b }) c

/-- Every slot of the ring. -/
def Chan.fullMask (c : Chan) : BitVec 16 := BitVec.ofNat 16 (2 ^ (c.geo.nslot + 1) - 1)

/-- The channel after T has advanced by n: published or handed-over transfers are counted, and a finished active
descriptor gives way to the shadow (R215, R242). -/
def Chan.advanceT (c : Chan) (n : Nat) : Chan :=
  let x := ((List.range n).map fun i => match c.owner (c.t + i) with
    | some d => (d.slotXfers (c.t + i)).length
    | none => 0).sum
  let t := c.t + n
  let c := { c with t := t, xfer := c.xfer + BitVec.ofNat 32 x }
  match c.active with
  | some a =>
    if a.first + a.slots ≤ t then
      let c1 := { c with active := c.shadow.map fun (b : Desc) => ({ b with first := a.first + a.slots } : Desc), shadow := none }
      -- a shadow of which every slot is passed by the same instruction completes too
      (match c1.active with
      | some b => if b.first + b.slots ≤ t then { c1 with active := none } else c1
      | none => c1)
    else c
  | none => c

/-! ### The LPDDR controllers' turns -/

/-- The controller that serves a region 0x2 offset, and the offset in its package (R387). -/
def lpdPlace (a : Nat) : Nat × Nat := (a / 4096 % 12, a / 4096 / 12 * 4096 + a % 4096)

/-- The region 0x2 offset of a place in a package (R387). -/
def lpdOffset (n at_ : Nat) : Nat := (at_ / 4096 * 12 + n) * 4096 + at_ % 4096

/-- The classes of LPDDR traffic (R240). -/
inductive LpdClass where
  | read | write | remote
  deriving DecidableEq, Repr

/-- How many of the first x 256-byte ranges of region 0x2 controller n serves: sixteen of each 192 (R387). -/
def rangesBelow (n x : Nat) : Nat := x / 192 * 16 + Nat.min (x % 192 - 16 * n) 16

/-- The turns of controller n that a transfer of `len` bytes from offset a takes: one for each 256-byte range that it touches (R388). -/
def turnsOf (n a len : Nat) : Nat := if len = 0 then 0 else rangesBelow n ((a + len - 1) / 256 + 1) - rangesBelow n (a / 256)

/-- Count turns in a controller's registers (R400): the counters wrap. -/
def LpdCtl.use (c : LpdCtl) (cls : LpdClass) (k : Nat) : LpdCtl :=
  match cls with
  | .read => { c with trd := c.trd + BitVec.ofNat 32 k }
  | .write => { c with twr := c.twr + BitVec.ofNat 32 k }
  | .remote => { c with trm := c.trm + BitVec.ofNat 32 k }

/-- A transfer of a class over region 0x2 (R240, R388). -/
def State.useTurns (s : State) (cls : LpdClass) (a len : Nat) : State :=
  { s with lpd := { s.lpd with ctl := (List.range 12).foldl (fun m n =>
      let k := turnsOf n a len
      if k = 0 then m else sset {} m n ((sget {} m n).use cls k)) s.lpd.ctl } }

/-! ### Sources -/

/-- Region 0x2 below the HKP firmware's 4 GiB (R386). -/
def lpdLimit : Nat := 1152000000000 - 4 * 2 ^ 30

/-- The ranges of region 0x2 that streams may read: during a run the image and work range and the bound editions' areas (R385),
else all that is not the HKP firmware's (R386). -/
def State.readRanges (s : State) : List (Nat × Nat) :=
  let k := s.ctx s.run.ctx
  let own := [(k.imgBase, k.imgsize), (k.workBase, k.work), (k.areas.getD s.run.slot 0, k.easize)]
  if !s.runHolds then [(0, lpdLimit)]
  else match s.run.pctx with
  | some p => let q := s.ctx p; own ++ [(q.areas.getD s.run.pslot 0, q.easize)]
  | none => own

/-- The ranges of region 0x2 that streams may write: the image and the work range of the run's context (R307, R385). -/
def State.writeRanges (s : State) : List (Nat × Nat) :=
  let k := s.ctx s.run.ctx
  [(k.imgBase, k.imgsize), (k.workBase, k.work)]

/-- Whether the granule at an offset lies within ranges. -/
def inRanges (rs : List (Nat × Nat)) (a n : Nat) : Bool := rs.any fun r => decide (r.1 ≤ a) && decide (a + n ≤ r.1 + r.2)

/-- Count confined granules (R385, R399). -/
def State.noteConf (s : State) (offs : List Nat) : State :=
  match offs with
  | [] => s
  | a :: _ =>
    let first := match s.lpd.confa with
      | some x => x
      | none => a
    { s with lpd := { s.lpd with confv := sat32 s.lpd.confv offs.length, confa := some first } }

/-- The bytes of the BOT at a byte offset (R188). -/
def botByte (bot : Sparse Word32) (a : Nat) : Byte := BitVec.ofNat 8 ((sget 0 bot (a / 4)).toNat / 2 ^ (8 * (a % 4)))

/-- One granule of a source region as a core reads it: beyond the region it is zero (R210), in region 0x2 outside the
run's ranges too (R385). -/
def State.readGranule (s : State) (c r off : Nat) : List Byte :=
  if regionSize r ≤ off then zeros 64
  else match r with
    | 0 => (s.core c).engBytes off 64
    | 1 => rdBytes (s.part (c / 128)).landing off 64
    | 2 => if inRanges s.readRanges off 64 then rdBytes s.lpddr off 64 else zeros 64
    | 3 => (List.range 64).map fun i => botByte s.bot (off + i)
    | _ => zeros 64

/-- `n` granules of a source. -/
def State.readGranules (s : State) (c r off n : Nat) : List Byte := (List.range n).flatMap fun i => s.readGranule c r (off + 64 * i)

/-- Granule offsets of region 0x2 that the confinement zeroes. -/
def State.confined (s : State) (r off n : Nat) : List Nat :=
  if r = 2 then ((List.range n).map fun i => off + 64 * i).filter fun a => decide (a < regionSize 2) && !inRanges s.readRanges a 64
  else []

/-- Where a transfer's first read finds its granules: region, offset, granule count and, under BLKH, the first granule, which is read
with it (R210). Under BLKB the two BOT entries are read now. DESIGN CHOICE (log entry 128): of a RAW or BLKF transfer every granule is read at
its start. -/
def State.xferStart (s : State) (c : Nat) (d : Desc) (i m : Nat) : Xact :=
  let p := d.pos i
  let off := p % 2 ^ 44
  match d.xk with
  | 2 =>
    let a := (sget 0 s.bot p).toNat
    let b := (sget 0 s.bot (p + 1)).toNat
    let n := b - a
    ⟨m, 2, d.start % 2 ^ 44 + a * 64, if n = 0 ∨ 85 < n then 85 else n, []⟩
  | 3 =>
    let g := s.readGranule c (p / 2 ^ 44) off
    let slen := leAt g 8 2 % 2 ^ 13
    let n := (16 + slen + 63) / 64
    ⟨m, p / 2 ^ 44, off, if slen = 0 ∨ 5376 < slen then d.unit + 1 else Nat.min n (d.unit + 1), g⟩
  | _ => ⟨m, p / 2 ^ 44, off, d.unit + 1, s.readGranules c (p / 2 ^ 44) off (d.unit + 1)⟩

/-- The granules that the first read of a transaction has moved. -/
def Xact.have_ (x : Xact) : Nat := x.got.length / 64

/-- The later reads of a transaction: every granule that its first read left (R210). -/
def State.xferRest (s : State) (c : Nat) (x : Xact) : Xact :=
  { x with got := x.got ++ s.readGranules c x.region (x.off + 64 * x.have_) (x.n - x.have_) }

/-- The piece that a finished transaction lands in its slot (R191, R218). -/
def Desc.piece (d : Desc) (slot : Nat) (x : Xact) : FillPiece :=
  if d.isBlock && d.rk then
    let hdr := BitVec.ofNat 128 (leNat (x.got.take 16))
    let len := Nat.min (leAt x.got 8 2 % 2 ^ 13) 5376
    .block hdr (((x.got.drop 16) ++ zeros len).take len) (d.texp ((d.slotXfers slot).getD x.m 0))
  else .raw (x.m * (d.unit + 1) * 64) x.got

/-- Zeros for the transfer positions that a short last slot lacks (R218). -/
def Desc.padPieces (d : Desc) (have_ : Nat) : List FillPiece :=
  let step := (d.unit + 1) * 64
  if d.isBlock then [] else ((List.range (d.tps + 1)).drop have_).map fun m => FillPiece.raw (m * step) (zeros step)

/-! ### Writing slots -/

/-- The stream engine's write for channel ch into an SRAM slot: the code window drops it (R147), and so does a slot of another channel that
is veiled or locked (R220, log entry 100). -/
def Core.slotWrite (k : Core) (ch a : Nat) (d : List Byte) : Core := k.guardedWrite (k.otherSram ch) a d

/-- Write the pieces of a slot of channel ch (R191, R218). -/
def Core.writeSlot (k : Core) (ch : Nat) (g : Geo) (slot : Nat) (ps : List FillPiece) : Core :=
  let t : Tile16 := Fin.ofNat 16 (g.rbaseT + slot)
  let a := g.rbase * 64 + slot * ((g.slsz + 1) * 64)
  ps.foldl (fun k p => match p with
    | .raw off d => if g.rk then k.slotTile ch (.plain ⟨t, off, d⟩) else k.slotWrite ch (a + off) d
    | .block hdr pay texp => k.slotTile ch (.block t hdr texp pay)) k

/-- Bytes of an outbound slot of channel ch as the stream engine reads them (R220): its own lock does not hide them, the veil of another
channel whose ring overlaps does. -/
def Core.slotBytes (k : Core) (ch : Nat) (g : Geo) (slot off n : Nat) : List Byte :=
  if g.rk then
    let t := (g.rbaseT + slot) % 16
    if veils (k.otherTile ch t) then zeros n else rdBytes (k.tile t).bytes off n
  else
    let a := g.rbase * 64 + slot * ((g.slsz + 1) * 64) + off
    (List.range n).map fun i => if veils (k.otherSram ch (a + i)) then 0 else rdByte k.sram (a + i)

/-- Bytes of one slot of a ring: 5,376 of a tile register (R231). -/
def Geo.slotBytes (g : Geo) : Nat := if g.rk then 5376 else (g.slsz + 1) * 64

/-- Zero `n` bytes of a discarded slot from an offset on (R226, R231): a tile register's header slot becomes Open. -/
def Core.zeroSlot (k : Core) (ch : Nat) (g : Geo) (slot off n : Nat) : Core :=
  let t : Tile16 := Fin.ofNat 16 (g.rbaseT + slot)
  if g.rk then k.slotTile ch (.plain ⟨t, off, zeros n⟩)
  else k.slotWrite ch (g.rbase * 64 + slot * ((g.slsz + 1) * 64) + off) (zeros n)

/-! ### The four instructions -/

/-- ST.TAIL and ST.HEAD requirements (R225): the reason, or 0; the lowest that applies. -/
def Chan.slotFault (c : Chan) (ch : Nat) (head : Bool) (n : Nat) : Nat :=
  let idle := c.active.isNone && decide (c.h = c.t)
  if head then
    (if decide (c.t < c.h + n) then (if inboundCh ch then 8 else 11) else if idle then 12 else 0)
  else if decide (c.limit < c.t + n) then 9
  else if !inboundCh ch && decide (c.h + c.geo.nslot + 1 < c.t + n) then 10
  else if idle then 12 else 0

/-- ST.HEAD on an inbound channel (R223). -/
def Chan.headIn (c : Chan) (n : Nat) : Chan := { (c.mark true c.h n) with h := c.h + n }

/-- ST.HEAD on an outbound channel once its slots are sent (R224). -/
def Chan.headOut (c : Chan) (n : Nat) : Chan := { (c.mark false c.h n) with h := c.h + n }

/-- ST.TAIL on an inbound channel: publish (R220, R221). F passes the region-0x0 slots it filled. -/
def Chan.tailIn (c : Chan) (n : Nat) : Chan := { ((c.mark false c.t n).advanceT n) with f := Nat.max c.f (c.t + n) }

/-- ST.TAIL on an outbound channel: hand over (R224). -/
def Chan.tailOut (c : Chan) (n : Nat) : Chan :=
  let outs := (List.range n).map fun i =>
    let x := c.t + i
    match c.owner x with
    | some d =>
      let xs := d.slotXfers x
      OutSlot.mk x ((List.range xs.length).map fun m => (d.pos (xs.getD m 0), m * (d.unit + 1) * 64, d.unit + 1)) none
    | none => OutSlot.mk x [] none
  { ((c.mark true c.t n).advanceT n) with outs := c.outs ++ outs }

/-- ST.CANCEL (R226): the channel, apart from the zeroing, and the ring slots it discards; they stay veiled until zeroed. DESIGN CHOICE (log
entry 127): a channel that no descriptor has been active on since the program start has no ring, so a cancel discards no slot. -/
def Chan.cancel (c : Chan) : Chan × List Nat :=
  let disc := if c.geo.nslot = 0 then 0 else c.h + c.geo.nslot + 1 - c.t
  ({ c with active := none, shadow := none, f := c.t, gen := c.gen + 1, disc := sat16 c.disc disc },
    (List.range disc).map fun i => c.ringSlot (c.t + i))

/-- A ring slot is no longer veiled. -/
def Chan.unveil (c : Chan) (slot : Nat) : Chan := { c with mask := c.mask &&& ~~~(BitVec.ofNat 16 (2 ^ slot)) }

/-- Whether a fill outstanding carries the generation that a cancel would produce (R227). -/
def Chan.staleBlocks (c : Chan) : Bool := c.fills.any fun x => decide (x.gen = c.gen + 1) && !x.old

/-- Whether a fill belongs to the channel as it stands: of its generation, and not from before a reset of the core. -/
def Chan.isLive (c : Chan) (x : SlotFill) : Bool := decide (x.gen = c.gen) && !x.old

/-- Fills in progress of the present generation. -/
def Chan.liveFills (c : Chan) : List SlotFill := c.fills.filter c.isLive

/-- Transactions outstanding (R205): each transfer that has started and not ended holds a credit, those of a cancelled fill and of one from
before a reset too. -/
def Chan.outstanding (c : Chan) : Nat := (c.fills.map fun x => x.out.length).sum

/-- Transactions that INFL shows (R242, R454): a core reset sets it to zero. -/
def Chan.inflight (c : Chan) : Nat := ((c.fills.filter fun x => !x.old).map fun x => x.out.length).sum

/-- The response of a transaction of the first fill that satisfies a test returns: it writes nothing and its credit is free (R227, R455). -/
def Chan.absorb (c : Chan) (p : SlotFill → Bool) : Chan :=
  match c.fills.find? p with
  | none => c
  | some f => { c with
      fills := if f.out.length ≤ 1 then c.fills.erase f else c.fills.map fun (y : SlotFill) => if y = f then { y with out := y.out.drop 1 } else y }

/-- What a crossing does to a channel (R228): H becomes T; the released inbound slots are veiled, outbound ones unlocked. -/
def Chan.cross (c : Chan) (ch : Nat) : Chan := { (c.mark (inboundCh ch) c.h (c.t - c.h)) with h := c.t }

/-! ### The fill beats of an ST.TAIL from region 0x0 (R221, R222) -/

/-- Bytes of region 0x0 as the stream engine reads them: beyond its end they are zero (R210, R220). -/
def Core.sourceBytes (k : Core) (off n : Nat) : List Byte :=
  (List.range n).map fun i => if off + i < sramSize then k.engByte (off + i) else 0

/-- The slots of region 0x0 among the next n of a channel. -/
def Chan.ownSlots (c : Chan) (n : Nat) : List Nat :=
  ((List.range n).map (· + c.t)).filter fun m => match c.owner m with
    | some d => decide (d.region = 0)
    | none => false

/-- The length in bytes of a transfer of region 0x0 (R210, R222): under BLKH the header that is read now sets it. -/
def Core.ownLength (k : Core) (d : Desc) (off : Nat) : Nat :=
  if d.xk = 3 then
    let slen := leAt (k.sourceBytes off 16) 8 2 % 2 ^ 13
    (if slen = 0 ∨ 5376 < slen then d.unit + 1 else Nat.min ((16 + slen + 63) / 64) (d.unit + 1)) * 64
  else (d.unit + 1) * 64

/-- The slot write of one fill beat of a region-0x0 transfer of channel ch (R191, R218, R222): bytes `at_` on of the transfer's source land in
the slot; of a block in a tile register the header goes to the header slot and the payload stops at SLEN, with zeros in the last beat for what
was not fetched. -/
def Core.ownWrite (k : Core) (ch : Nat) (g : Geo) (slot : Nat) (d : Desc) (i base at_ slen : Nat) (last : Bool) (b : List Byte) : Core :=
  let t : Tile16 := Fin.ofNat 16 (g.rbaseT + slot)
  if d.isBlock && d.rk then
    let len := Nat.min slen 5376
    let head := if at_ = 0 then some ((BitVec.ofNat 128 (leNat (b.take 16)) : BitVec 128), d.texp i) else none
    let pay := if at_ = 0 then b.drop 16 else b
    let off := at_ - 16
    k.slotTile ch (.part ⟨t, off, (if last then pay ++ zeros len else pay).take (len - off)⟩ head)
  else if d.rk then k.slotTile ch (.plain ⟨t, base + at_, b⟩)
  else k.slotWrite ch (g.rbase * 64 + slot * ((g.slsz + 1) * 64) + base + at_) b

/-- The slot count that a running ST.TAIL fills now, and its descriptor. -/
def Core.ownSlot (k : Core) (x : StItem) (ch : Nat) : Option (Nat × Desc) :=
  match x.todo with
  | [] => none
  | m :: _ => ((k.chan ch).owner m).map fun d => (m, d)

/-- What a fill beat of the running ST.TAIL `x` of channel ch reads at its start (R222): up to 128 bytes of the present transfer, whose length
the first beat fixes. -/
def Core.ownReadBeat (k : Core) (x : StItem) (ch : Nat) : StItem :=
  match k.ownSlot x ch with
  | none => { x with todo := x.todo.drop 1 }
  | some (m, d) =>
    let off := d.pos ((d.slotXfers m).getD x.xfer 0) % 2 ^ 44
    let len := x.xlen.getD (k.ownLength d off)
    let b := k.sourceBytes (off + x.got) (Nat.min 128 (len - x.got))
    { x with xlen := some len, slen := if x.got = 0 then leAt b 8 2 % 2 ^ 13 else x.slen, buf := some b }

/-- What it writes at the beat's end (R222): the end of a slot moves F past it, and the core parks when the slots that follow are not filled
(R221). DESIGN CHOICE (log entry 129): the positions that a short last slot lacks are zeroed in the slot's last fill beat. -/
def Core.ownFillBeat (k : Core) (x : StItem) (ch n : Nat) : Core × StItem :=
  match k.ownSlot x ch, x.buf with
  | some (m, d), some b =>
    let c := k.chan ch
    let xs := d.slotXfers m
    let len := x.xlen.getD 0
    let last := decide (len ≤ x.got + 128)
    let k1 := k.ownWrite ch c.geo (c.ringSlot m) d (xs.getD x.xfer 0) (x.xfer * (d.unit + 1) * 64) x.got x.slen last b
    let x1 := { x with occ := x.occ + 1, buf := none }
    if !last then (k1, { x1 with got := x.got + 128 })
    else
      let x2 := { x1 with xfer := x.xfer + 1, xlen := none, got := 0 }
      if x2.xfer < xs.length then (k1, x2)
      else
        let k2 := (k1.writeSlot ch c.geo (c.ringSlot m) (d.padPieces xs.length)).modChan ch fun y => { y with f := Nat.max y.f (m + 1) }
        let rest := x.todo.drop 1
        let upto := rest.headD (c.t + n)
        let x3 := { x2 with todo := rest, xfer := 0, want := upto }
        (if (k2.chan ch).f < upto then { k2 with status := .parked .tail } else k2, x3)
  | _, _ => (k, { x with buf := none })

end Sys2Proof.Machine
end

