-- ==== Sys2Proof/Machine/VectorOps.lean ====
section
/-! DEFINITION. What the vector engine computes (R98 to R135): spans, element operations, conversions, compress and expand,
reductions, with the beats of R128 and R129. -/
namespace Sys2Proof

/-- Element width in bytes (R99). -/
def Ty.bytes : Ty → Nat
  | .fp32 => 4 | .int32 => 4 | .bf16 => 2 | .u8 => 1

/-- Elements per row of a conversion's destination (R119). -/
def CvtDst.perRow : CvtDst → Nat
  | .fp32 => 16 | .int32 => 16 | .bf16 => 32 | .mx4 => 128 | .n2 => 256 | _ => 64

/-- Bits per element of a conversion's destination. -/
def CvtDst.bits : CvtDst → Nat
  | .fp32 => 32 | .int32 => 32 | .bf16 => 16 | .mx4 => 4 | .n2 => 2 | .mx6e2m3 => 6 | .mx6e3m2 => 6 | _ => 8

/-- The element format of an MX destination (R53). -/
def CvtDst.mx : CvtDst → Option Machine.Fmt
  | .mx8e4m3 => some .e4m3 | .mx8e5m2 => some .e5m2 | .mx6e2m3 => some .e2m3 | .mx6e3m2 => some .e3m2 | .mx4 => some .e2m1
  | _ => none

/-- The count source of a vector instruction, if it takes a count. -/
def VeOp.count : VeOp → Option CountSrc
  | .alu _ _ _ _ _ _ n | .fma _ _ _ _ _ _ n | .un _ _ _ _ _ n | .cmp _ _ _ _ _ n | .sel _ _ _ _ _ n
  | .copy _ _ _ n | .bcast _ _ _ _ n | .iota _ _ n | .ld _ _ _ n | .st _ _ _ n | .cvt _ _ _ _ _ _ n | .red _ _ _ _ _ n
  | .cmpr _ _ _ _ n | .expd _ _ _ _ n => some n
  | .gets _ _ _ | .puts _ _ _ | .tred _ _ _ _ _ => none

/-- The scalar of operand B. -/
def OpB.reg : OpB → Option Reg
  | .scalar r => some r
  | _ => none

/-- The scalar that a vector instruction names apart from its count (R102). -/
def VeOp.reg : VeOp → Option Reg
  | .alu _ _ _ _ _ b _ | .fma _ _ _ _ _ b _ | .cmp _ _ _ _ b _ | .bcast _ _ _ b _ => b.reg
  | .ld _ _ r _ | .st _ _ r _ => some r
  | .cvt _ _ rnd _ _ r _ => if rnd = .dsr then some r else none
  | _ => none

end Sys2Proof

namespace Sys2Proof.Machine

/-! ### Spans -/

/-- Byte i of the span at tile register t, as the engine reads it (R100, R220). -/
def Core.spanByte (k : Core) (t : Tile16) (i : Nat) : Byte := rdByte (k.engTile ((t.val + i / 4096) % 16)).bytes (i % 4096)

/-- The code of element e of a span (R100). -/
def Core.elem (k : Core) (t : Tile16) (ty : Ty) (e : Nat) : Nat :=
  leNat ((List.range ty.bytes).map fun i => k.spanByte t (e * ty.bytes + i))

/-- The tile registers of a span of n bytes. -/
def spanTiles (t : Tile16) (n : Nat) : List Nat := (List.range ((n + 4095) / 4096)).map fun i => (t.val + i) % 16

/-- A write of bytes at byte i of a span; it does not cross a tile register. -/
def spanWr (t : Tile16) (i : Nat) (d : List Byte) : TileWr := ⟨Fin.ofNat 16 (t.val + i / 4096), i % 4096, d⟩

/-- The element count of an instruction (R101): `cnt` is the count scalar read at issue. -/
def Core.veCount (k : Core) (op : VeOp) (cnt : Word64) : Nat :=
  match op.count with
  | some (.imm n) => n.val + 1
  | some (.scalar _) => Nat.min cnt.toNat 4096
  | some (.vc _) => k.vc.toNat
  | none => 1

/-- Segments of VE.RED (R133). -/
def redSegs (seg : Option (Fin 13)) (n : Nat) : Nat :=
  match seg with
  | some v => (n + 2 ^ v.val - 1) / 2 ^ v.val
  | none => if n = 0 then 0 else 1

/-- Occupied beats and L (R128). -/
def veBeats (op : VeOp) (n : Nat) : Nat × Nat :=
  let g := (n + 63) / 64
  if n = 0 then (1, 1)
  else match op with
    | .un fn _ _ _ _ _ => (g, match fn with
      | .neg | .abs => 4
      | _ => 8)
    | .gets _ _ esc | .puts _ _ esc => (if esc then 4 else 1, 4)
    | .ld ty _ _ _ | .st ty _ _ _ => ((n * ty.bytes + 255) / 256, 4)
    | .cmpr _ _ _ _ _ | .expd _ _ _ _ _ => (2 * g, 2)
    | .red _ _ _ _ seg _ => (g + (redSegs seg n + 63) / 64, 10)
    | .tred _ _ src _ _ => (if src = .scale then 1 else 16, 6)
    | _ => (g, 4)

/-- Tile registers of operand B. -/
def OpB_tiles (b : OpB) (ty : Ty) (n : Nat) : List Nat :=
  match b with
  | .span vb => spanTiles vb (n * ty.bytes)
  | .scalar _ => []
  | .seg vb g => spanTiles vb (((n - 1) / 2 ^ g.val + 1) * ty.bytes)

/-- What an instruction over n elements reads: tile registers (R127), and 16 for VC. -/
def veReads (op : VeOp) (n : Nat) : List Nat :=
  let vc := match op.count with
    | some (.vc _) => [16]
    | _ => []
  if n = 0 then vc
  else vc ++ match op with
    | .alu _ ty _ _ va b _ | .cmp _ ty _ va b _ => spanTiles va (n * ty.bytes) ++ OpB_tiles b ty n
    | .fma _ ty _ vd va b _ => spanTiles vd (n * ty.bytes) ++ spanTiles va (n * ty.bytes) ++ OpB_tiles b ty n
    | .un _ ty _ _ va _ | .copy ty _ va _ | .st ty va _ _ | .cvt ty _ _ _ va _ _ | .red _ ty _ va _ _ =>
      spanTiles va (n * ty.bytes)
    | .sel ty _ va vb m _ => spanTiles va (n * ty.bytes) ++ spanTiles vb (n * ty.bytes) ++ spanTiles m n
    | .bcast ty _ _ b _ => OpB_tiles b ty n
    | .iota _ _ _ | .ld _ _ _ _ => []
    | .gets _ va _ | .puts _ va _ | .tred _ _ _ _ va => [va.val]
    | .cmpr ty _ va vm _ | .expd ty _ va vm _ => spanTiles va (n * ty.bytes) ++ spanTiles vm n

/-- What it writes: tile registers, 16 for VC, 17 for core-local SRAM. -/
def veWrites (op : VeOp) (n : Nat) : List Nat :=
  match op with
  | .cmpr ty vd _ _ _ | .expd ty vd _ _ _ => 16 :: spanTiles vd (n * ty.bytes)
  | .alu _ ty _ vd _ _ _ | .fma _ ty _ vd _ _ _ | .un _ ty _ vd _ _ | .sel ty vd _ _ _ _ | .copy ty vd _ _
  | .bcast ty _ vd _ _ | .iota ty vd _ | .ld ty vd _ _ => spanTiles vd (n * ty.bytes)
  | .cmp _ _ vd _ _ _ => spanTiles vd n
  | .gets vd _ _ | .puts vd _ _ | .tred _ _ _ vd _ => [vd.val]
  | .st _ _ _ _ => if n = 0 then [] else [17]
  | .cvt _ d _ vd _ _ _ => spanTiles vd ((n + d.perRow - 1) / d.perRow * 64)
  | .red _ _ vd _ seg _ => spanTiles vd (redSegs seg n * 4)

/-! ### Elements -/

/-- A code as the 32 bits of its lane (R98). -/
def widen (ty : Ty) (x : Nat) : Word32 := if ty = .bf16 then bfTo32 x else BitVec.ofNat 32 x

/-- The value of a code. -/
def elemNum (ty : Ty) (x : Nat) : Num :=
  match ty with
  | .fp32 => Fmt.f32.dec x
  | .bf16 => Fmt.bf16.dec x
  | .int32 => let v := signed 32 x; .fin (decide (v < 0)) v.natAbs 0
  | .u8 => .fin false x 0

/-- A binary32 result written as FP32 or BF16 (R107). -/
def narrow (ty : Ty) (rnd : Rnd) (v : Word32) : Nat := if ty = .bf16 then toBf rnd 0 (f32 v) else v.toNat

/-- Operand B as an arithmetic operand of 32 bits (R102, R104). -/
def Core.opB (k : Core) (b : OpB) (ty : Ty) (sv : Word64) (e : Nat) : Word32 :=
  match b with
  | .span vb => widen ty (k.elem vb ty e)
  | .scalar _ => if ty = .u8 then BitVec.ofNat 32 (sv.toNat % 256) else sv.truncate 32
  | .seg vb g => widen ty (k.elem vb ty (e / 2 ^ g.val))

/-- Operand B as an encoding, for bitwise operations (R102). -/
def Core.opBCode (k : Core) (b : OpB) (ty : Ty) (sv : Word64) (e : Nat) : Nat :=
  match b with
  | .span vb => k.elem vb ty e
  | .scalar _ => if ty = .bf16 then bitsOf sv.toNat 31 16 else if ty = .u8 then sv.toNat % 256 else sv.toNat % 2 ^ 32
  | .seg vb g => k.elem vb ty (e / 2 ^ g.val)

/-- The canonical encoding of a NaN code (R107). -/
def canon (ty : Ty) (x : Nat) : Nat :=
  match ty with
  | .fp32 => if Fmt.f32.dec x = .nan then 0x7FC00000 else x
  | .bf16 => if Fmt.bf16.dec x = .nan then 0x7FC0 else x
  | _ => x

/-- An integer result clamped to its type (R108): code, saturations. -/
def clampTo (ty : Ty) (x : Int) : Nat × Nat :=
  if ty = .u8 then clampU8 x else let (v, s) := clampI32 x; (v.toNat, s)

/-- The integer value of a lane. -/
def laneInt (ty : Ty) (x : Word32) : Int := if ty = .u8 then (x.toNat : Int) else signed 32 x.toNat

/-- Whether a type is a floating-point type. -/
def Ty_isFp (ty : Ty) : Bool := decide (ty = .fp32) || decide (ty = .bf16)

/-- VE.ALU on one element (R111, R112): a and b widened, ac and bc their encodings. Code, saturations. -/
def aluElem (fn : AluFn) (ty : Ty) (rnd : Rnd) (a b : Word32) (ac bc : Nat) : Nat × Nat :=
  let x := laneInt ty a
  let y := laneInt ty b
  match fn with
  | .and => (canon ty (ac &&& bc), 0)
  | .or => (canon ty (ac ||| bc), 0)
  | .xor => (canon ty (ac ^^^ bc), 0)
  | .add => if Ty_isFp ty then (narrow ty rnd (fadd a b), 0) else clampTo ty (x + y)
  | .sub => if Ty_isFp ty then (narrow ty rnd (fsub a b), 0) else clampTo ty (x - y)
  | .mul => if Ty_isFp ty then (narrow ty rnd (fmul a b), 0) else clampTo ty (x * y)
  | .min => if Ty_isFp ty then (narrow ty rnd (fminmax false a b), 0) else clampTo ty (min x y)
  | .max => if Ty_isFp ty then (narrow ty rnd (fminmax true a b), 0) else clampTo ty (max x y)

/-- VE.FMA on one element (R113). -/
def fmaElem (fn : FmaFn) (ty : Ty) (rnd : Rnd) (a b d : Word32) : Nat × Nat :=
  if Ty_isFp ty then
    let p := (f32 a).mul (f32 b)
    let r := match fn with
      | .fma => p.add (f32 d)
      | .fms => p.add (f32 d).neg
      | .nfma => (f32 d).add p.neg
    (narrow ty rnd (to32 r), 0)
  else
    let p := laneInt ty a * laneInt ty b
    match fn with
    | .fma => clampTo ty (p + laneInt ty d)
    | .fms => clampTo ty (p - laneInt ty d)
    | .nfma => clampTo ty (laneInt ty d - p)

/-- VE.UN on one element (R114). -/
def unElem (fn : UnFn) (ty : Ty) (rnd : Rnd) (a : Word32) : Nat × Nat :=
  if Ty_isFp ty then
    let x := f32 a
    let r := match fn with
      | .neg => x.neg
      | .abs => (match x with
        | .fin _ m e => .fin false m e
        | .inf _ => .inf false
        | .nan => .nan)
      | .recip => frecip x
      | .rsqrt => frsqrt x
      | .sqrt => fsqrt x
      | .exp2 => fexp2 x
      | .log2 => flog2 x
    (narrow ty rnd (to32 r), 0)
  else
    match fn with
    | .abs => clampTo ty (laneInt ty a).natAbs
    | _ => clampTo ty (-(laneInt ty a))

/-- VE.CMP on one element (R115). -/
def cmpElem (c : Cond) (ty : Ty) (a b : Word32) : Bool :=
  if Ty_isFp ty then
    match f32 a, f32 b with
    | .nan, _ => decide (c = .ne)
    | _, .nan => decide (c = .ne)
    | x, y => match c with
      | .eq => x.eqv y | .ne => !(x.eqv y) | .lt => x.lt y | .le => !(y.lt x) | .gt => y.lt x | .ge => !(x.lt y)
  else
    let x := laneInt ty a
    let y := laneInt ty b
    match c with
    | .eq => decide (x = y) | .ne => decide (x ≠ y) | .lt => decide (x < y) | .le => decide (x ≤ y)
    | .gt => decide (y < x) | .ge => decide (y ≤ x)

/-! ### Groups of 64 elements -/

/-- Element indices of group g of n elements. -/
def groupIdx (n g : Nat) : List Nat := (List.range (Nat.min 64 (n - 64 * g))).map fun i => 64 * g + i

/-- Zero writes of the ignored strip bytes of the rows that bytes [i, i + len) of a BF16 span touch (R110). -/
def bfStrips (t : Tile16) (i len : Nat) : List TileWr :=
  let tile : Tile16 := Fin.ofNat 16 (t.val + i / 4096)
  let r0 := i % 4096 / 64
  let r1 := (i % 4096 + len + 63) / 64
  if len = 0 then []
  else [⟨tile, 4096 + 4 * r0, zeros (4 * (r1 - r0))⟩, ⟨tile, 4352 + 16 * r0, zeros (16 * (r1 - r0))⟩]

/-- The write of consecutive elements of a type from element e0 (R100, R110). -/
def groupWr (t : Tile16) (ty : Ty) (e0 : Nat) (codes : List Nat) : List TileWr :=
  let i := e0 * ty.bytes
  let d := codes.flatMap fun c => leBytes ty.bytes c
  spanWr t i d :: (if ty = .bf16 then bfStrips t i d.length else [])

/-- The tile register whose clip counter a span's byte i charges. -/
def clipOf (t : Tile16) (i : Nat) : Nat := (t.val + i / 4096) % 16

/-- Group g of an element-wise instruction: `f` gives code and saturations of element e. -/
def veElems (n : Nat) (vd : Tile16) (ty : Ty) (g : Nat) (f : Nat → Nat × Nat) : VeOut :=
  let rs := (groupIdx n g).map f
  ⟨groupWr vd ty (64 * g) (rs.map (·.1)), none, (clipOf vd (64 * g * ty.bytes), (rs.map (·.2)).sum, 0)⟩

/-! ### Conversions -/

/-- Pack codes of w bits into bytes, from the least significant bit (R37). -/
def packBits (w : Nat) (codes : List Nat) : List Byte :=
  leBytes ((codes.length * w + 7) / 8) (codes.foldr (fun c x => c % 2 ^ w + 2 ^ w * x) 0)

/-- One element of a conversion that is not an MX format (R120): code, saturations, invalid codes. -/
def cvtElem (ty : Ty) (d : CvtDst) (rnd : Rnd) (r24 x : Nat) : Nat × Nat × Nat :=
  let v := elemNum ty x
  match d with
  | .fp32 => (Fmt.f32.encWide rnd r24 v, 0, 0)
  | .int32 => let (c, s, i) := encI32 rnd r24 v; (c.toNat, s, i)
  | .bf16 => (toBf rnd r24 v, 0, 0)
  | .e4m3 => Fmt.e4m3.encNarrow rnd r24 v
  | .e5m2 => Fmt.e5m2.encNarrow rnd r24 v
  | .n2 => encN2 rnd r24 v
  | _ => (0, 0, 0)

/-- Group g of VE.CVT (R119 to R122). -/
def cvtGroup (ty : Ty) (d : CvtDst) (rnd : Rnd) (vd va : Tile16) (tile : Word32) (n lstep : Nat) (v : Core) (g : Nat) : VeOut :=
  let p := d.perRow
  let per := 64 * p
  let idx := groupIdx n g
  let r24 (e : Nat) := if rnd = .dsr then dsr24 lstep tile (e % per) else 0
  let src := idx.map fun e => (e, v.elem va ty e)
  -- scales of the group's MX groups, two of 32 elements
  let nums := src.map fun x => elemNum ty x.2
  let scales := match d.mx with
    | some f => [mxScale f.emax (nums.take 32), mxScale f.emax (nums.drop 32)]
    | none => []
  let rs := src.map fun (e, x) => match d.mx with
    | some f => mxElem f rnd (r24 e) (scales.getD (e % 64 / 32) 0) (elemNum ty x)
    | none => cvtElem ty d rnd (r24 e) x
  let e0 := 64 * g
  let last := decide (n ≤ e0 + 64)
  -- the last group writes the rest of its row as code zero
  let e1 := if d = .fp32 ∨ d = .int32 then e0 + idx.length else if last then (n + p - 1) / p * p else e0 + 64
  let codes := rs.map (·.1) ++ List.replicate (e1 - e0 - idx.length) 0
  let t : Tile16 := Fin.ofNat 16 (vd.val + e0 / per)
  let row (e : Nat) := e % per / p
  let off := row e0 * 64 + e0 % p * d.bits / 8
  let r0 := row e0
  let r1 := r0 + ((e1 - e0) + p - 1) / p
  let rows := (List.range (r1 - r0)).map (· + r0)
  let main : List TileWr := match d with
    | .mx6e2m3 | .mx6e3m2 => [⟨t, off, packBits 6 codes ++ zeros 16⟩]
    | _ => [⟨t, off, packBits d.bits codes⟩]
  let scaleAt (i : Nat) : Byte := BitVec.ofNat 8 (scales.getD i 0)
  let strips : List TileWr := match d with
    | .fp32 | .int32 => []
    | .bf16 | .e4m3 | .e5m2 => rows.flatMap fun r => [⟨t, 4096 + 4 * r, zeros 4⟩, ⟨t, 4352 + 16 * r, zeros 16⟩]
    | .n2 => rows.map fun r => ⟨t, 4352 + 16 * r, zeros 16⟩
    | .mx4 =>
      let h := e0 % 128 / 64
      [⟨t, 4096 + 4 * r0 + 2 * h, [scaleAt 0, scaleAt 1] ++ (if last && decide (h = 0) then zeros 2 else [])⟩,
       ⟨t, 4352 + 16 * r0, zeros 16⟩]
    | _ => [⟨t, 4096 + 4 * r0, [scaleAt 0, scaleAt 1, 0, 0]⟩, ⟨t, 4352 + 16 * r0, zeros 16⟩]
  ⟨main ++ strips, none, (t.val, (rs.map (·.2.1)).sum, (rs.map (·.2.2)).sum)⟩

/-! ### Reductions -/

/-- Pair up a level of the lane-end tree (R134). -/
def treeLevel (f : Word32 → Word32 → Word32) : List (Option Word32) → List (Option Word32)
  | a :: b :: r => (match a, b with
    | some x, some y => some (f x y)
    | some x, none => some x
    | none, y => y) :: treeLevel f r
  | l => l

/-- The result of one segment (R134). -/
def redSegment (fn : RedFn) (xs : List Word32) : Word32 :=
  let f := match fn with
    | .sum | .sumsq => fadd
    | .max => fminmax true
    | .min => fminmax false
  let ys := if fn = .sumsq then xs.map fun x => fmul x x else xs
  let lanes := (List.range 64).map fun i =>
    (List.range ((ys.length + 63 - i) / 64)).foldl (fun acc j =>
      let y := ys.getD (64 * j + i) 0
      match acc with
      | none => some y
      | some x => some (f x y)) (none : Option Word32)
  match (List.range 6).foldl (fun l _ => treeLevel f l) lanes with
  | some r :: _ => BitVec.ofNat 32 (canon .fp32 r.toNat)
  | _ => 0

/-- Elements of a VE.TRED source: rows of numbers (R135), from the bytes gathered. -/
def tredRows (src : TredSrc) (b : List Byte) : List (List Int) :=
  (List.range 64).map fun r => match src with
    | .int32 => (List.range 16).map fun e => signed 32 (leAt b (64 * r + 4 * e) 4)
    | .u8 => (List.range 64).map fun e => ((byteAt b (64 * r + e)).toNat : Int)
    | .scale => (List.range 4).map fun e => ((byteAt b (4 * r + e)).toNat : Int)

/-- Reduce one line of numbers (R135): code bytes, saturations. -/
def tredLine (fn : TredFn) (src : TredSrc) (l : List Int) : List Byte × Nat :=
  match fn with
  | .sum => let (v, s) := clampI32 (l.foldl (· + ·) 0); (leBytes 4 v.toNat, s)
  | .max | .min =>
    let v := match l with
      | x :: r => r.foldl (fun a b => if fn = .max then max a b else min a b) x
      | [] => 0
    (leBytes (if src = .int32 then 4 else 1) (patt 32 v), 0)

/-! ### The beats of an instruction -/

/-- Beats in which an instruction reads (R129). -/
def veReadBeats (op : VeOp) (n : Nat) : Nat :=
  if n = 0 then 0
  else match op with
    | .gets _ _ esc | .puts _ _ esc => if esc then 4 else 1
    | .ld ty _ _ _ | .st ty _ _ _ => (n * ty.bytes + 255) / 256
    | .tred _ _ src _ _ => if src = .scale then 1 else 16
    | _ => (n + 63) / 64

/-- Group g of an instruction whose groups are independent (R111 to R122, R129): what is read now and written later. The
instructions that gather first write nothing here. -/
def veGroup (k : Core) (op : VeOp) (n : Nat) (sv : Word64) (lstep g : Nat) : Option VeOut :=
  match op with
  | .alu fn ty rnd vd va b _ => some (veElems n vd ty g fun e =>
      aluElem fn ty rnd (widen ty (k.elem va ty e)) (k.opB b ty sv e) (k.elem va ty e) (k.opBCode b ty sv e))
  | .fma fn ty rnd vd va b _ => some (veElems n vd ty g fun e =>
      fmaElem fn ty rnd (widen ty (k.elem va ty e)) (k.opB b ty sv e) (widen ty (k.elem vd ty e)))
  | .un fn ty rnd vd va _ => some (veElems n vd ty g fun e => unElem fn ty rnd (widen ty (k.elem va ty e)))
  | .cmp c ty vd va b _ => some (veElems n vd .u8 g fun e =>
      (b2n (cmpElem c ty (widen ty (k.elem va ty e)) (k.opB b ty sv e)), 0))
  | .sel ty vd va vb m _ => some (veElems n vd ty g fun e =>
      (if k.spanByte m e ≠ 0 then k.elem va ty e else k.elem vb ty e, 0))
  | .copy ty vd va _ => some (veElems n vd ty g fun e => (k.elem va ty e, 0))
  | .bcast ty rnd vd b _ => some (veElems n vd ty g fun e => match b with
      | .scalar _ => (if ty = .bf16 then narrow .bf16 rnd (sv.truncate 32) else (k.opB b ty sv e).toNat, 0)
      | _ => (k.opBCode b ty sv e, 0))
  | .iota ty vd _ => some (veElems n vd ty g fun e => (if ty = .fp32 then (to32 (.fin false e 0)).toNat else e, 0))
  | .gets vd va esc =>
    some ⟨[⟨vd, 256 * g, rdBytes (k.engTile va.val).bytes ((if esc then 4352 else 4096) + 256 * g) 256⟩], none, (0, 0, 0)⟩
  | .puts vd va esc =>
    some ⟨[⟨vd, (if esc then 4352 else 4096) + 256 * g, rdBytes (k.engTile va.val).bytes (256 * g) 256⟩], none, (0, 0, 0)⟩
  | .ld ty vd _ _ =>
    some ⟨[spanWr vd (256 * g) (k.engBytes (bitsOf sv.toNat 21 6 * 64 + 256 * g) (Nat.min 256 (n * ty.bytes - 256 * g)))],
      none, (0, 0, 0)⟩
  | .st ty va _ _ =>
    let d := (List.range (Nat.min 256 (n * ty.bytes - 256 * g))).map fun i => k.spanByte va (256 * g + i)
    some ⟨[], some (bitsOf sv.toNat 21 6 * 64 + 256 * g, d), (0, 0, 0)⟩
  | .cvt ty d rnd vd va _ _ => some (cvtGroup ty d rnd vd va (sv.truncate 32) n lstep k g)
  | .red _ _ _ _ _ _ | .tred _ _ _ _ _ | .cmpr _ _ _ _ _ | .expd _ _ _ _ _ => none

/-- What group g of an instruction that gathers first reads: codes, or the bytes of VE.TRED, and mask bytes (R129). -/
def veGather (k : Core) (op : VeOp) (n g : Nat) : List Nat × List Nat :=
  match op with
  | .red _ ty _ va _ _ => ((groupIdx n g).map fun e => k.elem va ty e, [])
  | .cmpr ty _ va vm _ | .expd ty _ va vm _ =>
    ((groupIdx n g).map fun e => k.elem va ty e, (groupIdx n g).map fun e => (k.spanByte vm e).toNat)
  | .tred _ _ src _ va =>
    ((rdBytes (k.engTile va.val).bytes (if src = .scale then 4096 else 256 * g) 256).map (·.toNat), [])
  | _ => ([], [])

/-- The write of one output group that charges no count. -/
def plainOut (w : List TileWr) : VeOut := ⟨w, none, (0, 0, 0)⟩

/-- What an instruction that gathers first writes once it has read all (R123, R124, R129, R133 to R135): output groups with
their place in the order of beats, and VC. -/
def veFinish (op : VeOp) (n : Nat) (a m : List Nat) : List (Nat × VeOut) × Option Nat :=
  match op with
  | .red fn ty vd _ seg _ =>
    let s := redSegs seg n
    let sz := match seg with
      | some v => 2 ^ v.val
      | none => n
    let rs := (List.range s).map fun i => redSegment fn (((a.drop (i * sz)).take sz).map (widen ty))
    ((List.range ((s + 63) / 64)).map fun j =>
      (j + 1, plainOut [spanWr vd (256 * j) (((rs.drop (64 * j)).take 64).flatMap fun r => leBytes 4 r.toNat)]), none)
  | .tred fn col src vd _ =>
    let rows := tredRows src (a.map (BitVec.ofNat 8))
    let w := match src with
      | .int32 => 16 | .u8 => 64 | .scale => 4
    let lines := if col then (List.range w).map fun c => rows.map fun r => r.getD c 0 else rows
    let rs := lines.map (tredLine fn src)
    ([(0, ⟨[⟨vd, 0, rs.flatMap (·.1)⟩], none, (vd.val, (rs.map (·.2)).sum, 0)⟩)], none)
  | .cmpr ty vd _ _ _ =>
    let codes := ((a.zip m).filter fun x => decide (x.2 ≠ 0)).map (·.1)
    ((List.range ((codes.length + 63) / 64)).map fun j =>
      (j + 1, plainOut (groupWr vd ty (64 * j) ((codes.drop (64 * j)).take 64))), some codes.length)
  | .expd ty vd _ _ _ =>
    let marks := m.map fun x => decide (x ≠ 0)
    let ranks := (marks.foldl (fun (acc, c) x => (acc ++ [c], c + b2n x)) (([] : List Nat), 0)).1
    let wr (j : Nat) : List TileWr :=
      ((groupIdx n j).filter fun e => marks.getD e false).flatMap fun e => groupWr vd ty e [a.getD (ranks.getD e 0) 0]
    ((((List.range ((n + 63) / 64)).map fun j => (j + 1, wr j)).filter fun x => decide (x.2 ≠ [])).map fun x => (x.1, plainOut x.2),
      some (marks.filter id).length)
  | _ => ([], none)

/-- The registers that a write touches: tile registers, 17 for SRAM. -/
def VeOut.regs (o : VeOut) : List Nat := (o.wr.map fun x => x.t.val) ++ (if o.sram.isSome then [17] else [])

/-- Read beat `x.made` of a vector instruction, which falls in beat b: what it reads, and what becomes due (R129). -/
def VeItem.readBeat (x : VeItem) (k : Core) (b : Nat) : VeItem :=
  let op := x.ent.op
  let (_, l) := veBeats op x.n
  match veGroup k op x.n x.ent.sv x.lstep x.made with
  | some o =>
    { x with
      made := x.made + 1
      outs := x.outs ++ [(b + l - 1, o)]
      regs := x.regs ++ o.regs.filter fun r => !x.regs.contains r }
  | none =>
    let (a, m) := veGather k op x.n x.made
    let y := { x with made := x.made + 1, bufA := x.bufA ++ a, bufB := x.bufB ++ m }
    if y.made < veReadBeats op x.n then y
    else
      let (os, vc) := veFinish op x.n y.bufA y.bufB
      { y with
        outs := os.map fun o => (b + o.1 + l - 1, o.2)
        vc := vc
        regs := (os.flatMap fun o => o.2.regs) ++ (if vc.isSome then [16] else [])
        bufA := []
        bufB := [] }

/-- The tile registers in which a fill would hold a write now. -/
def Core.heldRegs (k : Core) (o : VeOut) : List Tile16 := (o.wr.map (·.t)).filter k.filling

/-- One due write of the vector engine takes effect (R109, R131, R132, R220): a beat whose register is guarded counts one
dropped write; one in a register that a fill reads is held (R94). -/
def Core.applyOut (k : Core) (o : VeOut) : Core :=
  let k := match o.wr with
    | [] => k
    | x :: _ => match k.guardTile x.t.val with
      | some n => k.dropWdr n
      | none => o.wr.foldl (fun k y => k.putTile (.plain y)) k
  let k := match o.sram with
    | some (a, d) => k.engWrite a d
    | none => k
  k.addClip o.clip.1 o.clip.2.1 o.clip.2.2

end Sys2Proof.Machine
end

