-- ==== Sys2Proof/Machine/Beats.lean ====
section
/-! DEFINITION. The work of instructions that run, beat by beat (R69, R88, R89, R129, R131, R222, R226). A beat b has two halves: what
is read in it falls at time 2b, what is written at its end at time 2b + 1. -/
namespace Sys2Proof.Machine

/-- One piece of work of a running instruction. -/
inductive Work where
  | operand | load | readout | veRead | veWrite | ownRead | ownFill | zap | cross
  deriving DecidableEq, Repr

/-- Replace the first item that satisfies a test. -/
def replaceFirst {α : Type} (p : α → Bool) (f : α → α) : List α → List α
  | [] => []
  | x :: r => if p x then f x :: r else x :: replaceFirst p f r

/-- Whether a compute instruction has an operand beat to make. -/
def CmpItem.working (x : CmpItem) : Bool :=
  match x.start, x.ent.op with
  | some _, .comp _ a => decide (a.nextOper x.oper < a.operBeats)
  | _, _ => false

/-- The time of the next operand beat (R69, R70). -/
def Core.operandAt (k : Core) : Option Nat :=
  match k.cmps.find? CmpItem.working with
  | some x => match x.start, x.ent.op with
    | some b, .comp _ a => some (2 * (b + a.xt + a.nextOper x.oper))
    | _, _ => none
  | none => none

/-- Make the next operand beat. -/
def Core.doOperand (k : Core) : Core :=
  match k.cmps.find? CmpItem.working with
  | some x => match x.ent.op with
    | .comp sh a =>
      let o := a.nextOper x.oper
      let k := k.operandBeat sh a x.ent.va x.ent.vb x.blk o
      { k with cmps := replaceFirst CmpItem.working (fun (y : CmpItem) => { y with oper := o + 1 }) k.cmps }
    | _ => k
  | none => k

/-- The running readout instruction with a beat to make (R88, R89). -/
def Core.reading (k : Core) : Option RdItem :=
  k.rds.find? fun x => x.start.isSome && decide (x.made < x.len)

/-- The time of its next beat: MM.RD writes at the end of a beat, MM.LA reads in it. -/
def Core.readoutAt (k : Core) : Option (Nat × Work) :=
  match k.reading with
  | some x => match x.start, x.ent.op with
    | some b, .rd _ _ _ _ _ _ => some (2 * (b + x.made) + 1, .readout)
    | some b, .la _ _ _ => some (2 * (b + x.made), .load)
    | _, _ => none
  | none => none

/-- Count a readout beat as made. -/
def Core.noteRead (k : Core) : Core :=
  { k with rds := replaceFirst (fun (x : RdItem) => x.start.isSome && decide (x.made < x.len)) (fun (x : RdItem) => { x with made := x.made + 1 }) k.rds }

/-- Make it: a beat of MM.RD whose register is guarded is dropped and counted once (R220). -/
def Core.doReadout (k : Core) : Core :=
  match k.reading with
  | some x => match x.ent.op with
    | .rd acc col td df rnd _ =>
      let (w, sat) := k.readoutBeat acc.val col.val td df rnd x.ent.va x.lstep x.made
      let k := match k.guardTile td.val with
        | some n => k.dropWdr n
        | none => w.foldl (fun k y => k.putTile (.plain y)) k
      (k.addClip td.val sat 0).noteRead
    | .la acc col ts => (k.loadBeat acc.val col.val ts x.made).noteRead
    | _ => k
  | none => k

/-- Whether a vector instruction has a beat in which it reads still to make. -/
def VeItem.reads (x : VeItem) : Bool := x.start.isSome && decide (x.made < veReadBeats x.ent.op x.n)

/-- The time of the next read beat of the vector engine. -/
def Core.veReadAt (k : Core) : Option Nat :=
  match k.ves.find? VeItem.reads with
  | some x => x.start.map fun b => 2 * (b + x.made)
  | none => none

/-- Make it. -/
def Core.doVeRead (k : Core) : Core :=
  { k with ves := replaceFirst VeItem.reads (fun (x : VeItem) => x.readBeat k ((x.start.getD 0) + x.made)) k.ves }

/-- The first due write of the vector engine, the older instruction first: its time. -/
def Core.veWriteAt (k : Core) : Option Nat :=
  k.ves.foldl (fun o x => match x.outs with
    | (b, _) :: _ => (match o with
      | some t => some (Nat.min t (2 * b + 1))
      | none => some (2 * b + 1))
    | [] => o) none

/-- Make it: the registers in which a fill holds it are noted (R130). -/
def Core.doVeWrite (k : Core) : Core :=
  match k.veWriteAt with
  | none => k
  | some t =>
    let due (x : VeItem) : Bool := match x.outs with
      | (b, _) :: _ => decide (2 * b + 1 = t)
      | [] => false
    match (k.ves.find? due).bind fun x => x.outs.head? with
    | none => k
    | some (_, o) =>
      let h := (k.heldRegs o).filter fun t => (k.guardTile t.val).isNone
      let ves := replaceFirst due (fun (x : VeItem) => { x with outs := x.outs.drop 1, heldIn := x.heldIn ++ h }) k.ves
      ({ k with ves := ves }).applyOut o

/-- The time at which a running ST.TAIL next reads for its fill (R222). -/
def Core.ownReadAt (k : Core) : Option Nat :=
  match k.sts with
  | x :: _ => if x.todo.isEmpty || x.buf.isSome then none else x.start.map fun b => 2 * (b + x.occ)
  | [] => none

/-- Make it. -/
def Core.doOwnRead (k : Core) : Core :=
  match k.sts with
  | x :: r => match x.ent.op with
    | .tail ch _ => { k with sts := k.ownReadBeat x ch.val :: r }
    | _ => k
  | [] => k

/-- The time at which it writes what it has read: the end of that beat (R131, R222, R382). -/
def Core.ownFillAt (k : Core) : Option Nat :=
  match k.sts with
  | x :: _ => if x.buf.isNone then none else x.start.map fun b => 2 * (b + x.occ) + 1
  | [] => none

/-- Make it. -/
def Core.doOwnFill (k : Core) : Core :=
  match k.sts with
  | x :: r => match x.ent.op with
    | .tail ch n =>
      let (k1, y) := k.ownFillBeat x ch.val (n.val + 1)
      { k1 with sts := y :: r, stNext := Nat.max k1.stNext (y.start.getD 0 + y.occ) }
    | _ => k
  | [] => k

/-- The time at which the running ST.CANCEL zeroes its next piece (R226, R231). -/
def Core.zapAt (k : Core) : Option Nat :=
  match k.sts with
  | x :: _ => x.zap.head?.map fun z => 2 * z.1 + 1
  | [] => none

/-- The piece is zero; the slot is no longer veiled once its last piece is. -/
def Core.doZap (k : Core) : Core :=
  match k.sts with
  | x :: r => match x.ent.op, x.zap with
    | .cancel ch, (_, slot, off, n, last) :: zs =>
      let k1 := k.zeroSlot ch.val (k.chan ch.val).geo slot off n
      let k2 := if last then k1.modChan ch.val fun c => c.unveil slot else k1
      { k2 with sts := { x with zap := zs } :: r }
    | _, _ => k
  | [] => k

/-- The channel actions of a crossing (R228). -/
def Core.crossChans (k : Core) : Core := (List.range 6).foldl (fun k ch => k.modChan ch fun x => x.cross ch) k

/-- The channel actions of the crossing beat, once they have been made. -/
def Core.doCross (k : Core) : Core := { k.crossChans with crossAt := none }

/-- The time of the channel actions of a crossing: the end of its beat (R262). -/
def Core.crossTime (k : Core) : Option Nat := k.crossAt.map fun b => 2 * b + 1

/-- A channel as a crossing leaves it whose actions are still to be made. -/
def Core.chanNow (k : Core) (n : Nat) : Chan := if k.crossAt.isSome then (k.chan n).cross n else k.chan n

/-- The earlier of two times; the first when they are equal. -/
def earlier (o : Option (Nat × Work)) (t : Option Nat) (w : Work) : Option (Nat × Work) :=
  match o, t with
  | none, some t => some (t, w)
  | some (t', w'), some t => if t < t' then some (t, w) else some (t', w')
  | o, none => o

/-- The next piece of work and its time; writes of one beat fall in the order readout, stream engine, vector engine (R131). A slot that
ST.CANCEL zeroes is veiled to the end of its last beat, so the vector engine's writes into it are dropped in that beat too (R220, R226).
The channel actions of a crossing end its beat (R262). -/
def Core.nextWork (k : Core) : Option (Nat × Work) :=
  earlier (earlier (earlier (earlier (earlier (earlier (earlier k.readoutAt k.operandAt .operand) k.veReadAt .veRead) k.ownReadAt .ownRead)
    k.ownFillAt .ownFill) k.veWriteAt .veWrite) k.zapAt .zap) k.crossTime .cross

/-- Make a piece of work. -/
def Core.doWork (k : Core) : Work → Core
  | .operand => k.doOperand
  | .load | .readout => k.doReadout
  | .veRead => k.doVeRead
  | .veWrite => k.doVeWrite
  | .ownRead => k.doOwnRead
  | .ownFill => k.doOwnFill
  | .zap => k.doZap
  | .cross => k.doCross

/-- Make every piece of work up to a time, in order, while the core runs. -/
def Core.workGo : Nat → Core → Nat → Core
  | 0, k, _ => k
  | fuel + 1, k, t =>
    match k.nextWork with
    | some (u, w) => if u ≤ t ∧ k.runs = true then Core.workGo fuel (k.doWork w) t else k
    | none => k

/-- More pieces of work than one beat can hold. -/
def beatFuel : Nat := 64

/-- The work of the instructions that run, to the end of beat b, with nothing new started (R197). -/
def Core.finishBeat (k : Core) (b : Nat) : Core := Core.workGo beatFuel k (2 * b + 1)

end Sys2Proof.Machine
end

