-- ==== Sys2Proof/Machine/Pump.lean ====
section
/-! DEFINITION. How the four engines of a core advance (R90 to R93, R126 to R130, R231, R247 to R249): dispatch and start of instructions at the
beats the rules fix. The state holds no clock: every command of a core brings the core forward to its own beat, which makes every dispatch and
start that falls before it. -/
namespace Sys2Proof.Machine

/-! ### When the next dispatch or start falls -/

/-- A dispatch from a queue, a start from a slot, or work of an instruction that runs. -/
inductive Act where
  | startComp | startRd | startVe | startSt | dispMm | dispVe | dispSt
  | work (w : Work)
  deriving DecidableEq, Repr

/-- The first beat from b on at which the W wait of a header is over, or none while its Waymark is zero (R248, R249). -/
def Core.waitFrom (k : Core) (h : Hdr) (b : Nat) : Option Nat :=
  match h.w with
  | none => some b
  | some n => (k.wm n.val).openAt b

/-- The first beat from b on at which both the W wait of a header is over and a place is free: the wait is looked at again in the beat
that the place gives, and the place in the beat that the wait gives. -/
def Core.whenOpen (k : Core) (h : Hdr) (free : Nat → Option Nat) (b : Nat) : Option Nat :=
  (((k.waitFrom h b).bind free).bind (k.waitFrom h)).bind free

/-- The first beat from `b` on at which fewer than `cap` items still hold a place; an item holds its place until its end
beat, without limit while it has none. -/
def freeFrom (cap : Nat) (ends : List (Option Nat)) (b : Nat) : Option Nat :=
  let busy (t : Nat) := (ends.filter fun e => match e with
    | none => true
    | some x => decide (t < x)).length
  let cands := b :: (ends.filterMap id).filter fun x => decide (b ≤ x)
  (cands.filter fun t => decide (busy t < cap)).foldl (fun o t => match o with
    | none => some t
    | some x => some (Nat.min x t)) none

/-- The dispatch beat of the head of the matrix queue (R90). -/
def Core.mmDispatch (k : Core) : Option Nat :=
  match k.mq with
  | [] => none
  | e :: _ => k.whenOpen e.h (fun b => match e.op with
      | .lw _ _ => if k.lws.length < 8 then some b else none
      | .comp _ _ => freeFrom 2 (k.cmps.map fun x => x.start.map (· + x.busy)) b
      | .rd _ _ _ _ _ _ | .la _ _ _ => freeFrom 2 (k.rds.map fun x => x.start.map (· + x.len)) b) (Nat.max (e.q + 1) (k.mdisp + 1))

/-- The dispatch beat of the head of the vector queue (R126). -/
def Core.veDispatch (k : Core) : Option Nat :=
  match k.vq with
  | [] => none
  | e :: _ => k.whenOpen e.h (freeFrom 1 (k.ves.map (·.start))) (Nat.max (e.q + 1) (k.vdisp + 1))

/-- The dispatch beat of the head of the stream queue (R231). -/
def Core.stDispatch (k : Core) : Option Nat :=
  match k.sq with
  | [] => none
  | e :: _ => k.whenOpen e.h (freeFrom 1 (k.sts.map (·.start))) (Nat.max (e.q + 1) (k.sdisp + 1))

/-- The first beat of the first compute instruction that has not started (R92). -/
def Core.compStart (k : Core) : Option Nat :=
  match k.cmps.find? fun x => x.start.isNone with
  | none => none
  | some x => match x.ent.op with
    | .comp _ a =>
      let l := k.latch a.ls
      let lwBlocks := k.lws.any fun y => decide (y.ent.seq < x.ent.seq) && (match y.ent.op with
        | .lw _ ls => decide (ls = a.ls)
        | _ => false)
      let rdBlocks := k.rds.any fun y => decide (y.ent.seq < x.ent.seq) && (match y.ent.op with
        | .rd acc _ _ _ _ _ | .la acc _ _ => decide (acc = a.acc)
        | _ => false)
      if !l.ready || lwBlocks || rdBlocks then none
      else some (Nat.max (Nat.max (x.disp + 1) k.cmpNext) (Nat.max l.readyAt (sget 0 k.bankAt a.acc.val)))
    | _ => none

/-- The beat from which a compute instruction in the running slot waits for its set under a fill that began at f (R97). -/
def Core.waitBeat (k : Core) (ls : Bool) (f disp : Nat) : Nat :=
  Nat.max (Nat.max f (k.latch ls).readyAt) (Nat.max disp k.cmpFree)

/-- Beats before b of a wait for a latch set that the verdict of the running fill has yet to count (R97). -/
def Core.mmWaiting (k : Core) (b : Nat) : Nat :=
  match k.cmps.find? fun x => x.start.isNone with
  | some x => match x.ent.op with
    | .comp _ a =>
      let fill := k.lws.find? fun y => y.fill.isSome && (match y.ent.op with
        | .lw _ ls => decide (ls = a.ls)
        | _ => false)
      match fill.bind (·.fill) with
      | some f => b - k.waitBeat a.ls f.start x.disp
      | none => 0
    | _ => 0
  | none => 0

/-- The first beat of the first readout instruction that has not started (R93). -/
def Core.rdStart (k : Core) : Option Nat :=
  match k.rds with
  | x :: _ => match x.start, x.ent.op with
    | none, .rd acc _ _ _ _ _ | none, .la acc _ _ =>
      let blocks := k.cmps.any fun y => decide (y.ent.seq < x.ent.seq) && y.start.isNone && (match y.ent.op with
        | .comp _ a => decide (a.acc = acc)
        | _ => false)
      if blocks then none else some (Nat.max (Nat.max (x.disp + 1) k.rdNext) (sget 0 k.bankAt (8 + acc.val)))
    | _, _ => none
  | [] => none

/-- The registers on which a vector instruction depends (R127). -/
def veDeps (op : VeOp) (n : Nat) : List Nat :=
  veReads op n ++ (veWrites op n).filter (fun r => decide (r ≠ 17)) ++ (match op with
    | .ld _ _ _ _ => [17]
    | _ => [])

/-- The first beat of the vector instruction in the waiting slot (R127). -/
def Core.veStart (k : Core) : Option Nat :=
  match k.ves.find? fun x => x.start.isNone with
  | none => none
  | some x =>
    let deps := veDeps x.ent.op (k.veCount x.ent.op x.ent.cnt)
    let busy := k.ves.any fun y => y.start.isSome && y.regs.any fun r => deps.contains r
    if busy then none
    else some (deps.foldl (fun b r => Nat.max b (sget 0 k.veDone r)) (Nat.max (x.disp + 1) k.veNext))

/-- The first beat of the stream instruction in the waiting slot, once the one before it has completed its last occupied
beat (R231). -/
def Core.stStart (k : Core) : Option Nat :=
  match k.sts with
  | x :: _ => if x.start.isNone then some (Nat.max (x.disp + 1) k.stNext) else none
  | [] => none

/-- Whether the engines may act: the program runs and no stream fault waits to be raised. -/
def Core.engLive (k : Core) : Bool := k.runs && !(k.sts.any fun x => decide (x.bad ≠ 0))

/-- The earliest dispatch, start or work and its time; in one beat starts come first, then the matrix, vector and stream
queues (R249), then what is read, then what is written. -/
def Core.nextAct (k : Core) : Option (Nat × Act) :=
  if !k.engLive then none
  else
    let act := [(k.compStart, Act.startComp), (k.rdStart, .startRd), (k.veStart, .startVe), (k.stStart, .startSt),
      (k.mmDispatch, .dispMm), (k.veDispatch, .dispVe), (k.stDispatch, .dispSt)].foldl (fun o x =>
        match o, x.1 with
        | none, some b => some (2 * b, x.2)
        | some (t, a), some b => if 2 * b < t then some (2 * b, x.2) else some (t, a)
        | o, none => o) (none : Option (Nat × Act))
    match act, k.nextWork with
    | some (t, a), some (u, w) => if u < t then some (u, .work w) else some (t, a)
    | none, some (u, w) => some (u, .work w)
    | o, none => o

/-! ### Making it -/

/-- Take the W wait of a header in a beat (R248). -/
def Core.takeHdr (k : Core) (h : Hdr) (b : Nat) : Core :=
  match h.w with
  | some n => k.take n b
  | none => k

/-- Note a dispatch by an engine (R149): the control core, when it stands in this beat or an earlier one, may find the freed place. -/
def Core.noteDisp (k : Core) (e : BitVec 2) (b : Nat) : Core := if k.beat ≤ b then { k with disps := k.disps ++ [(e, b)] } else k

/-- Dispatch the head of the matrix queue at a beat. -/
def Core.doDispMm (k : Core) (b : Nat) : Core :=
  match k.mq with
  | [] => k
  | e :: r =>
    let k := { ((k.takeHdr e.h b).noteDisp 1 b) with mq := r, mdisp := b }
    match e.op with
    | .lw _ _ => { k with lws := k.lws ++ [⟨e, b, none⟩] }
    | .comp _ _ => { k with cmps := k.cmps ++ [⟨e, b, none, 0, 0, []⟩] }
    | .rd _ _ _ _ _ _ | .la _ _ _ => { k with rds := k.rds ++ [⟨e, b, k.lstepIn b, none, 0, 0⟩] }

/-- Dispatch the head of the vector queue. -/
def Core.doDispVe (k : Core) (b : Nat) : Core :=
  match k.vq with
  | [] => k
  | e :: r => { ((k.takeHdr e.h b).noteDisp 2 b) with
    vq := r, vdisp := b, ves := k.ves ++ [⟨e, b, k.lstepIn b, none, 0, 0, 0, 0, [], [], [], none, [], []⟩] }

/-- Dispatch the head of the stream queue. -/
def Core.doDispSt (k : Core) (b : Nat) : Core :=
  match k.sq with
  | [] => k
  | e :: r => { ((k.takeHdr e.h b).noteDisp 3 b) with
    sq := r, sdisp := b, sts := k.sts ++ [⟨e, b, none, 0, [], 0, [], 0, none, 0, 0, none, 0, []⟩] }

/-- Start the first waiting compute instruction: under TR its operand block is read now (R86); R70's beats are counted (R92, R97). -/
def Core.doStartComp (k : Core) (b : Nat) : Core :=
  match k.cmps.find? fun x => x.start.isNone with
  | none => k
  | some x => match x.ent.op with
    | .comp sh a =>
      let busy := mmBeats sh a (k.latch a.ls).e2
      let blk := k.operBlock sh a x.ent.va
      let l := k.latch a.ls
      let k := k.setLatch a.ls { l with freeAt := Nat.max l.freeAt (b + busy) }
      { k with
        cmps := replaceFirst (fun x => x.start.isNone) (fun x => { x with start := some b, busy := busy, blk := blk }) k.cmps
        cmpNext := b + busy
        cmpFree := b + busy
        bankAt := sset 0 k.bankAt (8 + a.acc.val) (b + busy + 3)
        mmbusy := wrap32 k.mmbusy busy }
    | _ => k

/-- Start the first readout instruction (R88, R89). -/
def Core.doStartRd (k : Core) (b : Nat) : Core :=
  match k.rds with
  | x :: r => match x.ent.op with
    | .rd _ _ _ df _ _ =>
      let len := df.cols / 2
      { k with rds := { x with start := some b, len := len } :: r, rdNext := b + len }
    | .la _ _ _ => { k with rds := { x with start := some b, len := 8 } :: r, rdNext := b + 8 }
    | _ => k
  | [] => k

/-- Start the vector instruction in the waiting slot (R101, R127 to R129, R137): with a count of zero VE.CMPR and VE.EXPD write VC
alone. -/
def Core.doStartVe (k : Core) (b : Nat) : Core :=
  match k.ves.find? fun x => x.start.isNone with
  | none => k
  | some x =>
    let op := x.ent.op
    let n := k.veCount op x.ent.cnt
    let (occ, l) := veBeats op n
    let zero := decide (n = 0) && (match op with
      | .cmpr _ _ _ _ _ | .expd _ _ _ _ _ => true
      | _ => false)
    { k with
      ves := replaceFirst (fun x => x.start.isNone)
        (fun x => { x with start := some b, free := b + occ, done := b + occ - 1 + l, n := n
                           vc := if zero then some 0 else none, regs := if zero then [16] else [] }) k.ves
      veNext := b + occ
      vebusy := wrap32 k.vebusy occ }

/-- The actions of the ST.CANCEL `x` in beat b (R226): the discarded slots are zeroed one after the other, in the beats of R231. -/
def Core.doCancel (k : Core) (x : StItem) (r : List StItem) (ch b : Nat) : Core :=
  let c := k.chan ch
  let (c', disc) := c.cancel
  let sz := c.geo.slotBytes
  let per := (sz + 127) / 128
  let occ := 1 + disc.length * per
  let zap := (List.range disc.length).flatMap fun i => (List.range per).map fun j =>
    (b + per * i + j + 1, disc.getD i 0, 128 * j, Nat.min 128 (sz - 128 * j), decide (j + 1 = per))
  { (k.modChan ch fun _ => c') with
    sts := { x with start := some b, occ := occ, zap := zap } :: r, stNext := Nat.max k.stNext (b + occ) }

/-- Start the stream instruction in the waiting slot: ST.ARM reads its descriptor, ST.TAIL and ST.HEAD are checked and
may park, ST.CANCEL acts (R212, R221 to R227). -/
def Core.doStartSt (k : Core) (b : Nat) : Core :=
  match k.sts with
  | [] => k
  | x :: r =>
    let put (x : StItem) : Core := { k with sts := { x with start := some b } :: r, stNext := b + x.occ }
    match x.ent.op with
    | .arm _ _ _ => put { x with occ := 2, desc := k.engBytes (bitsOf x.ent.sv.toNat 21 7 * 128) 128 }
    | .tail ch n =>
      let n := n.val + 1
      let c := k.chan ch.val
      let bad := c.slotFault ch.val false n
      if bad ≠ 0 then put { x with occ := 1, bad := bad }
      else if inboundCh ch.val then
        let todo := c.ownSlots n
        let upto := todo.headD (c.t + n)
        let k2 := put { x with occ := 1, todo := todo, want := upto }
        if c.f < upto then { k2 with status := .parked .tail } else k2
      else put { x with occ := 1 }
    | .head ch n =>
      let n := n.val + 1
      let c := k.chan ch.val
      let bad := c.slotFault ch.val true n
      if bad ≠ 0 then put { x with occ := 1, bad := bad }
      else
        let k2 := put { x with occ := 1 }
        if !inboundCh ch.val && decide (c.f < c.h + n) then { k2 with status := .parked .head } else k2
    | .cancel ch =>
      if (k.chan ch.val).staleBlocks then { put { x with occ := 1 } with status := .parked .cancel }
      else k.doCancel x r ch.val b

/-- Beat b is no longer untouched by the engines. -/
def Core.reached (k : Core) (b : Nat) : Core := { k with upto := Nat.max k.upto (b + 1) }

/-- Make one dispatch, start or piece of work, at time t. -/
def Core.actAt (k : Core) (t : Nat) : Act → Core
  | .startComp => k.doStartComp (t / 2)
  | .startRd => k.doStartRd (t / 2)
  | .startVe => k.doStartVe (t / 2)
  | .startSt => k.doStartSt (t / 2)
  | .dispMm => k.doDispMm (t / 2)
  | .dispVe => k.doDispVe (t / 2)
  | .dispSt => k.doDispSt (t / 2)
  | .work w => k.doWork w

/-- Make it, and note its beat. -/
def Core.doAct (k : Core) (t : Nat) (a : Act) : Core := (k.actAt t a).reached (t / 2)

/-- Make every dispatch, start and piece of work up to a time, in order. -/
def Core.pumpGo : Nat → Core → Nat → Core
  | 0, k, _ => k
  | fuel + 1, k, bound =>
    match k.nextAct with
    | some (t, a) => if t ≤ bound then Core.pumpGo fuel (k.doAct t a) bound else k
    | none => k

/-- More dispatches, starts and pieces of work than three queues of 32 and their slots can make. -/
def pumpFuel : Nat := 100000

/-- What could not be dispatched or started up to a beat falls later. -/
def Core.passed (k : Core) (b : Nat) : Core :=
  { k.reached b with
    mdisp := if k.mq.isEmpty then k.mdisp else Nat.max k.mdisp b
    vdisp := if k.vq.isEmpty then k.vdisp else Nat.max k.vdisp b
    sdisp := if k.sq.isEmpty then k.sdisp else Nat.max k.sdisp b
    cmpNext := if k.cmps.any (fun x => x.start.isNone) then Nat.max k.cmpNext (b + 1) else k.cmpNext
    rdNext := if k.rds.any (fun x => x.start.isNone) then Nat.max k.rdNext (b + 1) else k.rdNext
    veNext := if k.ves.any (fun x => x.start.isNone) then Nat.max k.veNext (b + 1) else k.veNext
    stNext := if k.sts.any (fun x => x.start.isNone) then Nat.max k.stNext (b + 1) else k.stNext }

/-- Whether the engines have nothing to do. -/
def Core.engIdle (k : Core) : Bool :=
  k.mq.isEmpty && k.vq.isEmpty && k.sq.isEmpty && k.cmps.isEmpty && k.rds.isEmpty && k.ves.isEmpty && k.sts.isEmpty
    && k.crossAt.isNone

/-- The engines brought forward to time t: to the reads of beat t / 2, and to the end of that beat when t is odd. -/
def Core.pumpTo (k : Core) (t : Nat) : Core :=
  if k.engIdle then k
  else
    let k := Core.pumpGo pumpFuel k t
    if k.engLive then k.passed (t / 2) else k

/-! ### The beat in which a core stands -/

/-- The latest beat of anything that a core has done: the control core's, a completion, the first beat that the engines have not begun. -/
def Core.now (k : Core) : Nat := Nat.max (Nat.max k.beat k.lastDone) k.upto

/-- Apply the scalar results that are due (R148). -/
def Core.settleRes (k : Core) (b : Nat) : Core :=
  match k.pendRes with
  | [] => k
  | l => { (l.foldl (fun k r => if r.1 ≤ b then k.setSc r.2.1 r.2.2 else k) k) with pendRes := l.filter fun r => decide (b < r.1) }

/-- Make the signals of a list. -/
def Core.signalAll (k : Core) (l : List PendSig) : Core := l.foldl (fun k x => k.signal x.wm x.eng x.pc x.due) k

/-- Make the control core's signals that fall before beat b. -/
def Core.settleSigs (k : Core) (b : Nat) : Core :=
  match k.pendSig with
  | [] => k
  | l => { k with pendSig := l.filter fun x => decide (b ≤ x.due) }.signalAll (l.filter fun x => decide (x.due < b))

/-- A core as it stands at the start of the beat that it has reached: all that lies in earlier beats is done, and the results that become
available in this one are (R148, R152). -/
def Core.atNow (k : Core) : Core :=
  let b := k.now
  (((k.settleRes b).settleClips b).settleSigs b).pumpTo (2 * b - 1)

end Sys2Proof.Machine
end

