-- ==== Sys2Proof/Machine/Events.lean ====
section
/-! DEFINITION. The operations every fault goes through: notices and completions in the mailboxes (R410, R411, R420),
release of edition slots (R323), offering an event record (R465, R466, R470), stopping the job (R369), halting the
module (R471) and raising an event (R461 to R469). -/
namespace Sys2Proof.Machine

/-! ### Mailbox output -/

/-- Whether MSI-X vector v may not be sent now: its own mask bit, the function mask, or MSI-X Enable clear (R402, R407). The mask bit of a
vector is 1 after reset (PRESUMED, the base specification's rule); it is stored inverted so that an unlisted byte reads masked. -/
def State.msixMasked (s : State) (v : Nat) : Bool :=
  !(rdByte s.host.msix (16 * v + 12)).getLsbD 0 || s.host.cfg.msixMask || !s.host.cfg.msixEnable

/-- Signal an MSI-X vector: sent, or pending while masked (R407, R410). -/
def State.signalVec (s : State) (v : Nat) : State :=
  if s.msixMasked v then { s with host := { s.host with pba := s.host.pba ||| BitVec.ofNat 2048 (2 ^ v) } } else s.emit (.msix v)

/-- The 64 bytes of a notice (R420). -/
def noticeBytes (kind ctx ms : Nat) (data : List Byte) : List Byte :=
  (leBytes 2 kind ++ leBytes 1 ctx ++ [0] ++ leBytes 4 ms ++ data ++ zeros 56).take 64

/-- Write one notice into mailbox m, or count it lost (R420). -/
def State.noticeTo (s : State) (b : List Byte) (m : Nat) : State :=
  let x := s.mbox m
  if (x.ntail - x.nhead).toNat = 128 then s.modMbox m fun x => { x with nlost := sat16 x.nlost 1 }
  else (s.modMbox m fun x =>
    { x with page := wrBytes x.page (0xD000 + 64 * (x.ntail.toNat % 128)) b, ntail := x.ntail + 1 }).signalVec (128 * m + 127)

/-- Write a notice: one that names a context to every armed mailbox whose mask holds it, every other to mailbox 0 (R420). -/
def State.notify (s : State) (kind : Nat) (ctx : Option Nat) (data : List Byte) : State :=
  match ctx with
  | some x =>
    let b := noticeBytes kind x s.ring.ms data
    (List.range 16).foldl (fun s m => if (s.mbox m).armed && (s.mbox m).mask.getLsbD x then s.noticeTo b m else s) s
  | none => s.noticeTo (noticeBytes kind 0xFF s.ring.ms data) 0

/-- The 64 bytes of a completion (R411). -/
def completionBytes (tag : Word32) (opc : BitVec 16) (status reason : Nat) (data : List Byte) : List Byte :=
  (leBytes 4 tag.toNat ++ leBytes 2 opc.toNat ++ leBytes 1 status ++ leBytes 1 reason ++ data ++ zeros 56).take 64

/-- RUNID of a RUN_BATCH entry. -/
def Job.runId (j : Job) : Word32 := BitVec.ofNat 32 (leAt j.args 0 4)

/-- The result data of a command that completes without any of its own: RUN_BATCH gives the RUNID of its entry (R424). -/
def Job.blank (j : Job) : List Byte := if j.opc = 0x0030 then leBytes 4 j.runId.toNat else []

/-- Write the completion of a command at RTAIL and signal its vector when it asks for one (R410, R411, R419). -/
def State.putCompletion (s : State) (j : Job) (status reason : Nat) (data : List Byte) : State :=
  let m := j.mbx.val
  let s := s.modMbox m fun x =>
    { x with
      page := wrBytes x.page (0x9000 + 64 * (x.rtail.toNat % 256)) (completionBytes j.tag j.opc status reason (if data.isEmpty then j.blank else data))
      rtail := x.rtail + 1 }
  if j.flags.getLsbD 0 && decide (j.vec.toNat ≤ 126) then s.signalVec (128 * m + j.vec.toNat) else s

/-- Whether a command is the DISARM_MAILBOX of mailbox m. -/
def Job.disarms (j : Job) (m : MbxId) : Bool :=
  match j.phase with
  | .disarming n => decide (n = m)
  | _ => false

/-- A DISARM_MAILBOX completes after the last started command of its mailbox; the mailbox is reset (R425). -/
def State.disarmDone (s : State) (m : MbxId) : State :=
  if s.jobs.any fun j => decide (j.mbx = m) then s
  else match s.jobs.find? fun j => j.disarms m with
  | some k => (({ s with jobs := s.jobs.erase k }).modMbox m.val fun _ => {}).putCompletion k 0 0 []
  | none => s

/-- Complete a command in progress: its completion is written and it no longer counts in INPROG. -/
def State.complete (s : State) (j : Job) (status reason : Nat) (data : List Byte) : State :=
  (({ s with jobs := s.jobs.erase j }).putCompletion j status reason data).disarmDone j.mbx

/-- Complete every command in progress that satisfies a test. -/
def State.completeAll (s : State) (p : Job → Bool) (status reason : Nat) (data : List Byte) : State :=
  (s.jobs.filter p).foldl (fun s j => s.complete j status reason data) s

/-! ### Release of slots and pins -/

/-- SlotState codes (R306). -/
def SlotState.code : SlotState → Nat
  | .empty => 0 | .loading => 1 | .failed => 2 | .verified => 3 | .pending => 4 | .live => 5 | .retiring => 6

/-! The scrubber's rotation (R327, R330) -/

/-- States in which a slot is scrubbed. -/
def SlotState.scrubbed : SlotState → Bool
  | .verified | .pending | .live | .retiring => true
  | _ => false

/-- What a rotation digests: contexts, slots, then the manifest and the shards of each in order. -/
def State.rotation (s : State) : List (Nat × Nat × Nat × Word32) :=
  (List.range 64).flatMap fun x => (List.range 4).flatMap fun e =>
    let k := (s.ctx x).slot e
    if k.st.scrubbed then
      match k.man with
      | some m => (x, e, 0xFFFF, k.edition) :: (List.range m.shards.length).map fun i => (x, e, i, k.edition)
      | none => []
    else []

/-- Whether an item of a rotation is still to be digested: a slot released since is dropped, a shard already marked is skipped. -/
def State.scrubs (s : State) (it : Nat × Nat × Nat × Word32) : Bool :=
  let (x, e, i, ed) := it
  let k := (s.ctx x).slot e
  k.st.scrubbed && decide (k.edition = ed) && !k.bad.contains i

/-- The scrubber turns to the next item, or the rotation ends (R327, R330). -/
def State.scrubNext (s : State) : State :=
  match s.scrub.todo.dropWhile fun it => !s.scrubs it with
  | (x, e, i, ed) :: l => { s with scrub := { s.scrub with todo := (x, e, i, ed) :: l, ctx := x, slot := e, shard := i } }
  | [] => { s with scrub := { s.scrub with todo := [], run := false, cnt := s.scrub.cnt + 1 } }

/-- A rotation starts: DIG_SCRUBCFG takes effect (R330). -/
def State.startRotation (s : State) : State :=
  ({ s with scrub := { s.scrub with run := true, due := false, active := s.scrub.cfg, todo := s.rotation } }).scrubNext

/-- What is due after the end of a rotation: the one that has become due while it ran (R327). -/
def State.scrubDue (s : State) : State := if !s.scrub.run && s.scrub.due then s.startRotation else s

/-- The rotation drops a slot that is released (R327): the scrubber turns to what follows, and a rotation of which nothing is left ends. -/
def State.scrubDrop (s : State) (x e : Nat) : State :=
  let s1 := { s with scrub := { s.scrub with todo := s.scrub.todo.filter fun it => decide (it.1 ≠ x) || decide (it.2.1 ≠ e) } }
  if s.scrub.run then s1.scrubNext.scrubDue else s1

/-- Release a slot (R323): with KEEP it returns to VERIFIED and keeps its BOT runs, else it becomes EMPTY. The rotation of the scrubber drops
it (R327). -/
def State.releaseSlot (s : State) (x e : Nat) : State :=
  let k := (s.ctx x).slot e
  let st := if k.keep then SlotState.verified else .empty
  let s := (s.modSlot x e fun k =>
    if k.keep then { k with st := .verified, keep := false }
    else {}).scrubDrop x e
  s.notify 0x0005 (some x) ([BitVec.ofNat 8 e, BitVec.ofNat 8 st.code, 0, 0] ++ leBytes 4 k.edition.toNat)

/-- Release a slot that is RETIRING and holds no pin (R323). -/
def State.retireSlot (s : State) (x e : Nat) : State :=
  let k := (s.ctx x).slot e
  if k.st = .retiring ∧ k.pin = 0 then s.releaseSlot x e else s

/-- Give back one pin (R320). -/
def State.unpin (s : State) (x e : Nat) : State :=
  (s.modSlot x e fun k => { k with pin := k.pin - 1 }).retireSlot x e

/-- Give back the pins of the bound batch (R320). -/
def State.unpinRun (s : State) : State :=
  if s.runBound then
    let s1 := s.unpin s.run.ctx s.run.slot
    match s1.run.pctx with
    | some p => s1.unpin p s1.run.pslot
    | none => s1
  else s

/-! ### Event records -/

/-- What a raising rule gives an event: its code, unit and arguments (R464); all ones where a field does not apply. -/
structure Ev where
  code : BitVec 16
  unit : Word32 := 0
  ctx : Byte := 0xFF
  layer : BitVec 16 := 0xFFFF
  pc : BitVec 16 := 0xFFFF
  step : Option Nat := none
  a0 : Word32 := 0xFFFFFFFF
  a1 : Word32 := 0xFFFFFFFF
  a2 : Word32 := 0xFFFFFFFF
  a3 : Word32 := 0xFFFFFFFF
  /-- RUNID, EVENT origin and arrival of a received STOP word (R464) -/
  remote : Option (Word32 × Byte × Byte) := none
  deriving DecidableEq, Repr

/-- Classes of R461 as numbers. -/
def clsInfo : BitVec 3 := 0
def clsHost : BitVec 3 := 1
def clsCond : BitVec 3 := 2
def clsJob : BitVec 3 := 3
def clsModule : BitVec 3 := 4

/-- The class of an event code (R464). -/
def eventClass (code : BitVec 16) : BitVec 3 :=
  let n := code.toNat
  if n / 256 = 1 ∨ n / 256 = 2 then clsJob
  else if n = 0x0603 ∨ n = 0x0604 ∨ n = 0x0801 ∨ n = 0x0803 ∨ n = 0x0804 then clsModule
  else if n / 256 = 7 then clsHost
  else if n = 0x0301 ∨ n = 0x0307 ∨ n = 0x0309 ∨ n = 0x0402 ∨ n = 0x0502 ∨ n = 0x0503 ∨ n = 0x0805 then clsInfo
  else clsCond

/-- Whether a code is one that R464 lists. -/
def eventKnown (code : BitVec 16) : Bool :=
  let n := code.toNat
  (decide (0x0101 ≤ n) && decide (n ≤ 0x0109)) || (decide (0x0201 ≤ n) && decide (n ≤ 0x0207))
    || (decide (0x0301 ≤ n) && decide (n ≤ 0x0309)) || (decide (0x0401 ≤ n) && decide (n ≤ 0x0402))
    || (decide (0x0501 ≤ n) && decide (n ≤ 0x0503)) || (decide (0x0601 ≤ n) && decide (n ≤ 0x0604))
    || (decide (0x0701 ≤ n) && decide (n ≤ 0x0704)) || (decide (0x0801 ≤ n) && decide (n ≤ 0x0805))

/-- The bit of GLB_ERRSUM of a class (R479): the class number. -/
def State.setClassBit (s : State) (c : BitVec 3) : State :=
  { s with err := { s.err with errsum := s.err.errsum ||| BitVec.ofNat 32 (2 ^ c.toNat) } }

/-- Whether now is the step in which a run has ended or stopped on the module, with no other bound since (R462). -/
def State.endStep (s : State) : Bool := !s.runBound && decide (s.run.endMs = some s.ring.ms)

/-- RUNID of a raise now (R462): from the binding up to and including the step in which the run ends or stops. -/
def State.liveRunid (s : State) : Word32 := if s.runBound then s.run.runid else if s.endStep then s.run.endRun else 0

/-- Position of this module in the slice of the running tag. -/
def State.myPos (s : State) : Nat := match s.runImage with
  | some l => l.pos
  | none => 0
def State.myIdx (s : State) : Nat := match s.runImage with
  | some l => l.idx
  | none => 0

/-- OPOS, OIDX and STEP of a raise now (R462): all ones with no run in progress. -/
def State.evPlace (s : State) : Byte × Byte × Word64 :=
  if s.runBound then (BitVec.ofNat 8 s.myPos, BitVec.ofNat 8 s.myIdx, BitVec.ofNat 64 (s.ring.ms - s.run.b))
  else if s.endStep then (BitVec.ofNat 8 s.run.endPos, BitVec.ofNat 8 s.run.endIdx, BitVec.ofNat 64 (s.ring.ms - s.run.endB))
  else (0xFF, 0xFF, 0xFFFFFFFFFFFFFFFF)

/-- Whether a JOB-class record has carried a RUNID already, that of the batch or that of the run before it (R467). -/
def State.jobSeen (s : State) (rid : Word32) : Bool :=
  (decide (s.run.phase ≠ .idle) && decide (s.run.runid = rid) && s.run.jobRec) || (decide (s.run.endRun = rid) && s.run.endJob)

/-- The record of an event (R462), before its SEQ is known. SEC under R467. TIME is a free value. -/
def State.mkRecord (s : State) (e : Ev) : EvRec :=
  let cls := eventClass e.code
  let rid := match e.remote with
    | some (r, _, _) => r
    | none => s.liveRunid
  let place := s.evPlace
  { seq := 0, code := e.code, cls := cls
    sec := decide (cls = clsJob) && decide (rid ≠ 0) && s.jobSeen rid
    remote := e.remote.isSome, esc := false, count := 1
    time := Config.freeWord64 s.free, ms := BitVec.ofNat 64 s.ring.ms, runid := rid, ctx := e.ctx
    opos := match e.remote with
      | some (_, p, _) => p
      | none => place.1
    oidx := match e.remote with
      | some (_, _, i) => i
      | none => place.2.1
    unit := e.unit, layer := e.layer, pc := e.pc
    step := match e.step with
      | some n => BitVec.ofNat 64 n
      | none => place.2.2
    arg0 := e.a0, arg1 := e.a1, arg2 := e.a2, arg3 := e.a3 }

/-- A JOB-class record of a run has been raised (R467). -/
def State.noteJob (s : State) (r : EvRec) : State :=
  if r.cls = clsJob ∧ r.runid ≠ 0 then
    if s.run.phase ≠ .idle ∧ s.run.runid = r.runid then { s with run := { s.run with jobRec := true } }
    else if s.run.endRun = r.runid then { s with run := { s.run with endJob := true } }
    else s
  else s

/-- Whether two records coalesce (R466): same CODE, and same RUNID, or same UNIT when RUNID is 0. -/
def EvRec.sameKey (a b : EvRec) : Bool :=
  decide (a.code = b.code) && (if b.runid ≠ 0 then decide (a.runid = b.runid) else decide (a.runid = 0) && decide (a.unit = b.unit))

/-- Whether a record would make a new record (R466). -/
def State.isNewRec (s : State) (r : EvRec) : Bool :=
  !(s.err.queue.any fun q => q.sameKey r) && !(decide (r.runid ≠ 0) && s.err.entered.contains (r.runid, r.code))

/-- Add one to COUNT of the first record of the queue with the same key. -/
def bumpCount (r : EvRec) : List EvRec → List EvRec
  | [] => []
  | q :: l => if q.sameKey r then { q with count := Nat.min (q.count + 1) 255 } :: l else q :: bumpCount r l

/-- Put a record at the end of the queue with the next SEQ, or lose it when 32 records stand there (R468, R470). -/
def State.enqueue (s : State) (r : EvRec) : State :=
  if 32 ≤ s.err.queue.length then
    { s with err := { s.err with
        errsum := s.err.errsum ||| 0x40000000
        lostCode := if s.err.errsum.getLsbD 30 then s.err.lostCode else r.code
        lostCount := sat16 s.err.lostCount 1
        lostOwed := true } }
  else
    { s with
      free := s.free + 1
      err := { s.err with
        queue := s.err.queue ++ [{ r with seq := s.err.seq }]
        seq := s.err.seq + 1
        peak := Nat.max s.err.peak (s.err.queue.length + 1)
        entered := if r.runid ≠ 0 then (r.runid, r.code) :: s.err.entered else s.err.entered } }

/-- Offer a record (R465, R466, R470): coalesced, suppressed for a code already entered in the run, queued or lost. The events of one step that are
commands of the queue are offered in its order (DESIGN CHOICE, log entry 151). -/
def State.offer (s : State) (r : EvRec) : State :=
  if s.err.queue.any (fun q => q.sameKey r) then { s with err := { s.err with queue := bumpCount r s.err.queue } }
  else if s.isNewRec r then s.enqueue r else s

/-- Log an event whose class has no immediate action. -/
def State.logEvent (s : State) (e : Ev) : State :=
  (s.setClassBit (eventClass e.code)).offer (s.mkRecord e)

/-! ### Control words -/

/-- Ports of the slice of a tag (R357). -/
def State.tagPorts (s : State) (tag : Nat) : List Nat :=
  (List.range 4).filter fun q => bitOf (s.route tag).w0.toNat (58 + q)

/-- The tag of the running batch: the binding of its context (R364). -/
def State.runTag (s : State) : Nat := match (s.ctx s.run.ctx).tag with
  | some t => t.toNat
  | none => 0

/-- The bytes of a control word (R338). -/
def ctrlWord (type seq tag ms eseq edt : Nat) (body : List Byte) : List Byte :=
  let rest := leBytes 1 type ++ leBytes 1 seq ++ leBytes 2 tag ++ leBytes 8 ms ++ leBytes 1 eseq ++ zeros 3 ++ leBytes 4 edt
    ++ (body ++ zeros 40).take 40
  leBytes 4 (crc32c rest).toNat ++ rest

/-- The Milestone at which the present frame of a port began (R336): a Crossway frame begins at a multiple of 4. -/
def frameStart (q ms : Nat) : Nat := if q < 2 then ms else ms / 4 * 4

/-- Send a control word on a port (R336, R361): it waits for the next control position that is free. -/
def State.sendWord (s : State) (q type tag : Nat) (body : List Byte) : State :=
  s.modPort q fun p => { p with queue := p.queue ++ [⟨s.ring.ms, type, tag, body⟩] }

/-- Send a control word on every READY port of a tag's slice (R341). -/
def State.sendSlice (s : State) (type tag : Nat) (body : List Byte) : State :=
  (s.tagPorts tag).foldl (fun s q => if (s.port q).st = .ready then s.sendWord q type tag body else s) s

/-- The body of a STOP word (R339). -/
def stopBody (runid : Word32) (code : BitVec 16) (pos idx : Nat) (step : Nat) : List Byte :=
  leBytes 4 runid.toNat ++ leBytes 2 code.toNat ++ leBytes 1 pos ++ leBytes 1 idx ++ leBytes 8 step

/-! ### Stopping a job and halting the module -/

/-- A core halts (R197): it issues, dispatches and starts nothing more, and its state is kept. -/
def Core.halt (k : Core) : Core := if k.status = .none then k else { k with status := .halted }

/-- A core that is stopped from outside (R197, R369): what it has reached is done, and it halts. -/
def Core.stopNow (k : Core) : Core :=
  match k.status with
  | .none | .halted => k
  | _ => k.atNow.halt

/-- Halt every core that has a program. -/
def State.haltCores (s : State) : State := { s with cores := s.cores.map fun e => (e.1, e.2.stopNow) }

/-- Halt one core. -/
def State.haltCore (s : State) (c : Nat) : State := s.modCore c Core.halt

/-- UNIT of a port (R463). -/
def portUnit (q : Nat) : Word32 := BitVec.ofNat 32 (0x30000000 + q)

/-- Whether the running job's tag uses a port (PSTAT.INUSE). -/
def State.inUse (s : State) (q : Nat) : Bool := s.runBound && (s.tagPorts s.runTag).contains q

/-- Shift a port's times when the Milestone jumps by n steps (R347). -/
def Port.shift (p : Port) (n : Nat) : Port :=
  { p with
    theta := p.theta + 65536 * (n : Int), samples := p.samples.map fun x => (x.1 + n, x.2.1 + 65536 * (n : Int), x.2.2)
    frames := p.frames.map fun x => (x.1 + n, x.2), heard := p.heard.map fun x => (x.1 + 65536 * n, x.2)
    queue := p.queue.map fun (o : CtrlOut) => { o with at_ := o.at_ + n } }

/-- Jump the Milestone forward by n steps for a port (R347): MST_ALIGN.JUMP is set and the jump is logged. -/
def State.jumpBy (s : State) (q n : Nat) : State :=
  let s1 := { s with
    ring := { s.ring with ms := s.ring.ms + n }
    links := { s.links with jump := true }
    ports := s.ports.map fun (e : Nat × Port) => (e.1, e.2.shift n) }
  s1.logEvent { code := 0x0307, unit := portUnit q, a0 := BitVec.ofNat 32 n, a1 := BitVec.ofNat 32 (n / 2 ^ 32) }

/-- The plan against which a port is checked (R349). -/
def State.planFor (s : State) (q : Nat) : Option CPlan :=
  match s.links.planOld with
  | some p => if s.inUse q then some p else s.links.plan
  | none => s.links.plan

/-- Whether a peer's POS and IDX agree with R332. -/
def neighbourOk (pl : CPlan) (q : Nat) (i : Ident) : Bool :=
  match q with
  | 0 => decide (i.pos.toNat = (pl.pos + 1) % pl.ringlen) && decide (i.idx.toNat = pl.idx)
  | 1 => decide (i.pos.toNat = (pl.pos + pl.ringlen - 1) % pl.ringlen) && decide (i.idx.toNat = pl.idx)
  | 2 => decide (i.pos.toNat = pl.pos)
      && (if pl.idx + 1 < pl.rings then decide (i.idx.toNat = pl.idx + 1) else pl.xwrap && decide (i.idx.toNat = 0))
  | _ => decide (i.pos.toNat = pl.pos)
      && (if 0 < pl.idx then decide (i.idx.toNat = pl.idx - 1) else pl.xwrap && decide (i.idx.toNat = pl.rings - 1))

/-- The finding of R352 for a port: 1 Match, 2 Cable changed, 3 Swapped, 5 Extra, 6 Plan differs, 7 No peer plan (4 is Missing). -/
def finding (pl : CPlan) (q : Nat) (x : PlanPort) (i : Ident) (serial : List Byte) : Nat :=
  if !i.plan then 7
  else if !x.use then 5
  else if i.modser ≠ x.peerSer ∨ i.port ≠ x.peerPort then 3
  else if i.planid ≠ pl.planid ∨ neighbourOk pl q i = false then 6
  else if allZero x.cableSn = false ∧ x.cableSn ≠ serial then 2
  else 1

/-- CAUSE of a finding (R352). -/
def findingCause (f : Nat) : BitVec 4 :=
  match f with
  | 3 => 2 | 4 => 1 | 5 => 3 | 6 => 4 | 7 => 8 | _ => 0

/-- The two words of a 64-bit argument, low word first. -/
def lo32 (x : Word64) : Word32 := x.truncate 32
def hi32 (x : Word64) : Word32 := (x >>> 32).truncate 32

/-- What the event of a finding names (R352, R464); none for a finding without an event. -/
def foundOf (f : Nat) (pl : CPlan) (x : PlanPort) (i : Ident) (serial : List Byte) : Option Found :=
  let lay : BitVec 16 := BitVec.ofNat 16 (x.peerPort.toNat + 4 * i.port.toNat)
  let all : Word32 := 0xFFFFFFFF
  match f with
  | 2 => some ⟨0x0301, 0xFFFF, BitVec.ofNat 32 (leAt x.cableSn 0 4), BitVec.ofNat 32 (leAt x.cableSn 4 4), BitVec.ofNat 32 (leAt serial 0 4),
      BitVec.ofNat 32 (leAt serial 4 4), x.cableSn ++ serial⟩
  | 3 => some ⟨0x0302, lay, lo32 x.peerSer, hi32 x.peerSer, lo32 i.modser, hi32 i.modser, []⟩
  | 5 => some ⟨0x0304, BitVec.ofNat 16 (4 * i.port.toNat), all, all, lo32 i.modser, hi32 i.modser, []⟩
  | 6 => some ⟨0x0305, 0xFFFF, pl.planid, i.planid, BitVec.ofNat 32 (pl.pos + 64 * pl.idx), BitVec.ofNat 32 (i.pos.toNat + 64 * i.idx.toNat), []⟩
  | _ => none

/-- A port's finding is logged once per change (R352): when it, or what it names, is not what was logged last. -/
def State.noteFound (s : State) (q : Nat) (n : Option Found) : State :=
  if n = (s.port q).found then s
  else
    let s1 := s.modPort q fun p => { p with found := n }
    match n with
    | some x => s1.logEvent { code := x.code, unit := portUnit q, layer := x.layer, a0 := x.a0, a1 := x.a1, a2 := x.a2, a3 := x.a3 }
    | none => s1

/-- Hold a port with a cause (R352). -/
def State.hold (s : State) (q : Nat) (c : BitVec 4) : State := s.modPort q fun p => { p with st := .held, cause := c }

/-- Whether an offset exceeds one step. -/
def overStep (t : Int) : Bool := decide (65536 < t) || decide (t < -65536)

/-- READY, or held with cause 0x9 on a halted module (R341, R471). -/
def State.portReady (s : State) (q : Nat) : State :=
  if s.boot.halt then s.hold q 9 else s.modPort q fun p => { p with st := .ready, cause := 0 }

/-- The checks of delay and offset of a port whose discovery passes (R341, R345, R347). -/
def State.offsetCheck (s : State) (q : Nat) : State :=
  let p := s.port q
  if p.samples.isEmpty then s.modPort q fun p => { p with st := if overStep p.theta then .skewed else .align, cause := 0 }
  else if 16384 < p.delay then s.hold q 7
  else if overStep p.theta then
    if p.theta < 0 ∧ s.runBound = false then (s.jumpBy q ((-p.theta) / 65536).toNat).portReady q
    else s.modPort q fun p => { p with st := .skewed, cause := 0 }
  else s.portReady q

/-- Check a trained port (R345, R347, R349, R352, R354). -/
def State.checkPort (s : State) (q : Nat) : State :=
  let p := s.port q
  if !p.trained || (decide (p.st = .held) && decide (p.cause = 9)) then s
  else match s.planFor q with
  | none => s.hold q 8
  | some pl =>
    if pl.cmode then s.offsetCheck q
    else match p.ident, pl.ports[q]? with
    | some i, some x =>
      let f := finding pl q x i p.serial
      let s1 := s.noteFound q (foundOf f pl x i p.serial)
      if findingCause f = 0 then s1.offsetCheck q else s1.hold q (findingCause f)
    | _, _ =>
      if !p.samples.isEmpty && decide (16384 < p.delay) then s.hold q 7
      else s.modPort q fun p => { p with st := if overStep p.theta then .skewed else .align, cause := 0 }

/-- An image that waits for the end of the batch takes the context's place (R166). -/
def State.swapImage (s : State) (x : Nat) : State :=
  s.modCtx x fun k => match k.next with
    | some l => { k with loaded := some l, next := none }
    | none => k

/-- The batch is no longer in agreement or in progress; the step, RUNID and place of a run that was bound are kept for the raises of this
step (R462, R467). -/
def State.closeRun (s : State) : Run :=
  if s.runBound then
    { s.run with
      phase := .idle, words := [], endMs := some s.ring.ms, endRun := s.run.runid, endB := s.run.b, endPos := s.myPos, endIdx := s.myIdx
      endJob := s.run.jobRec }
  else { s.run with phase := .idle, words := [] }

/-- What follows the end of a job on the module: B reads zero (R299), the LPDDR shares return to the default (R391), a
new cabling plan holds for every port (R349), a waiting jump is made (R347). -/
def State.jobEnded (s : State) : State :=
  let used := (List.range 4).filter fun q => s.inUse q && s.links.planOld.isSome
  let s := { s with
    run := s.closeRun
    ring := { s.ring with base := 0, forwards := [] }
    links := { s.links with planOld := none }
    lpd := { s.lpd with run := false, rd := 8, wr := 5, rm := 3 } }
  (List.range 4).foldl (fun s q => if (s.port q).st = .skewed ∨ q ∈ used then s.checkPort q else s) s

/-- Stop the batch on this member (R369): cores halt, injection and sending end, pins are released, STOP goes out on every port of the slice and
is repeated once per step for 64 steps. The first cause stands (R370, R467). -/
def State.stopAll (s : State) (code : BitVec 16) (pos idx step : Nat) : State :=
  let tag := s.runTag
  let body := stopBody s.run.runid code pos idx step
  let s := (s.haltCores.unpinRun)
  let s := { s with run := { s.run with
    stopped := true, stopLeft := 64, stopWord := body, stopTag := tag
    stopPorts := BitVec.ofNat 4 ((s.tagPorts tag).map fun q => 2 ^ q).sum
    cause := some (s.run.cause.getD code) } }
  (s.sendSlice 3 tag body).jobEnded

/-- Stop the running job (R369); with no run in progress nothing is stopped (R461). -/
def State.stopJob (s : State) (code : BitVec 16) (pos idx step : Nat) : State :=
  if s.runBound then s.stopAll code pos idx step else s

/-- A batch in agreement that no run holds yet ends on a halted module (R471): its RUN_BATCH completes with BAD_STATE and REASON 0x46. -/
def State.haltAgreement (s : State) : State :=
  if s.run.phase = .ready ∨ s.run.phase = .fixed then
    (({ s with run := s.closeRun }).completeAll (fun j : Job => decide (j.phase = JobPhase.runActive)) 0x07 0x46 []).swapImage s.run.ctx.val
  else s

/-- Whether a command is one that a module halt ends (R471). -/
def Job.halts (j : Job) : Bool := match j.phase with
  | .dmaWaiting | .dmaRunning | .imgDigest | .planDigest | .peerLoad _ _ | .manDigest | .shardDigest _ _ _ _ _ => true
  | _ => false

/-- Whether a command waits for what a halted module no longer does (R471): a RUN_BATCH for its turn, a presence-class command for its press or
for the steps of REGEN_IDENTITY. -/
def Job.waits (j : Job) : Bool := match j.phase with
  | .runWaiting | .presence _ | .regen _ _ => true
  | _ => false

/-- A module halt (R471): the job stops, cores halt, transfers end with ABORTED, ports are held with cause 0x9, and
HALT, GLB_HALT and GLB_HALTSEQ are set. A halt already in force changes none of them (R472). -/
def State.moduleHalt (s : State) (code : BitVec 16) (seq : Word32) : State :=
  if s.boot.halt then s
  else
    let s := s.stopJob code s.myPos s.myIdx s.schedStep
    let s := s.haltAgreement.haltCores
    let s := s.completeAll Job.halts 0x11 0 []
    let s := s.completeAll Job.waits 0x07 0x46 []
    let s := (List.range 4).foldl (fun s q =>
      if (s.port q).st = .ready then s.modPort q fun p => { p with st := .held, cause := 9 } else s) s
    { s with
      scrub := { s.scrub with run := false, due := false, todo := [] }
      redigests := []
      links := { s.links with streams := [], sends := [] }
      boot := { s.boot with halt := true }
      err := { s.err with haltCode := code, haltSeq := seq } }

/-- Whether a new record is escalated (R469). -/
def State.escalates (s : State) (r : EvRec) : Bool :=
  match s.err.busy, s.err.queue with
  | true, h :: _ =>
    decide (r.cls = h.cls) && (decide (r.cls = clsJob) || decide (r.cls = clsModule)) && decide (r.code ≠ 0x0801)
      && !(decide (r.cls = clsJob) && decide (r.runid = h.runid))
  | _, _ => false

/-- SEQ under which a just offered record stands, or all ones when it was lost (R471). -/
def State.lastSeq (s0 s1 : State) : Word32 :=
  if s0.err.seq < s1.err.seq then BitVec.ofNat 32 s0.err.seq else 0xFFFFFFFF

/-- MST_ALIGN.SKEW is set with each Milestone Skew that this module raises (R374). -/
def State.noteSkew (s : State) (e : Ev) : State :=
  if e.code = 0x0204 ∧ e.remote = none then { s with links := { s.links with skew := true } } else s

/-- When the record that is the cause of a stop is lost, the cause is Lost Errors (R470). -/
def State.noteLost (s : State) (lost : Bool) : State :=
  if lost && s.run.cause.isSome then { s with run := { s.run with cause := some 0x0802 } } else s

/-- Whether an event of this module invalidates the token (R451). -/
def dropsToken (e : Ev) : Bool :=
  e.remote.isNone && (decide (e.code = 0x0401) || decide (e.code = 0x0205) || decide (e.code = 0x0602) || decide (e.code = 0x0603)
    || decide (e.code = 0x0804))

/-- Raise an event (R465): the class bit, the record, the immediate action of the class, and Second Error (R469). -/
def State.raise (s : State) (e : Ev) : State :=
  let s := s.noteSkew e
  let r0 := s.mkRecord e
  let esc := s.isNewRec r0 && s.escalates r0
  let r := { r0 with esc := esc }
  let s1 := ((s.setClassBit r.cls).offer r).noteJob r
  let s1 := if dropsToken e then { s1 with err := { s1.err with tokDue := true } } else s1
  let seq := State.lastSeq s s1
  let lost := s.isNewRec r0 && decide (32 ≤ s.err.queue.length) && s.run.cause.isNone
  let s2 :=
    if r.cls = clsJob then
      (match e.remote with
      | some (_, p, i) => s1.stopJob e.code p.toNat i.toNat ((e.step).getD 0)
      | none => s1.stopJob e.code s1.myPos s1.myIdx s1.schedStep).noteLost lost
    else if r.cls = clsModule then s1.moduleHalt e.code seq
    else s1
  if esc then
    let head := match s.err.queue with
      | h :: _ => BitVec.ofNat 32 h.seq
      | [] => 0xFFFFFFFF
    let sec : Ev := { code := 0x0801, a0 := head, a1 := seq }
    let s3 := { s2 with err := { s2.err with errsum := s2.err.errsum ||| 0x80000000 } }
    let s4 := (s3.setClassBit clsModule).offer (s3.mkRecord sec)
    if r.cls = clsJob then s4.moduleHalt 0x0801 (State.lastSeq s3 s4) else s4
  else s2

/-- The event of a STOP word that a port has received (R464): its record is REMOTE. -/
def stopEvent (q : Nat) (code : BitVec 16) (runid : Word32) (ctx pos idx : Byte) (step : Nat) : Ev :=
  { code := code, unit := portUnit q, ctx := ctx, step := some step, remote := some (runid, pos, idx) }

/-- A STOP word for this module's batch (R369, R370, R464): an EVENT that R464 lists makes a REMOTE record, whatever its class; the class of
another module's MODULE event halts that module and not this one (DEDUCED, log entry 136). The batch stops. -/
def State.remoteStop (s : State) (q : Nat) (code : BitVec 16) (runid : Word32) (pos idx : Byte) (step : Nat) : State :=
  let e := stopEvent q code runid (BitVec.ofNat 8 s.run.ctx.val) pos idx step
  let s1 := if eventClass code = clsJob ∧ eventKnown code = true then s.raise e
    else if eventKnown code = true then s.logEvent e
    else s
  if s1.run.phase ≠ .idle ∧ s1.run.runid = runid then s1.stopAll code pos.toNat idx.toNat step else s1

/-- What lies in a beat is done, nothing of a later beat is, and the core stands in the next (R197). -/
def Core.stopIn (k : Core) (beat : Nat) : Core :=
  let k1 := k.finishBeat beat
  { k1 with beat := Nat.max k1.beat (beat + 1) }

/-- A fault of a core in a beat, that halts it and stops the job (R197, R271): what lies in that beat is done, the core halts,
then the event is raised. -/
def State.coreFault (s : State) (c beat : Nat) (code : BitVec 16) (pc : BitVec 16) (a0 a1 a2 a3 : Word32) : State :=
  let k := s.core c
  let none := decide (k.status = .none)
  ((s.modCore c fun k => k.stopIn beat).haltCore c).raise
    { code := code, unit := s.coreUnit c, ctx := if none then 0xFF else BitVec.ofNat 8 k.ctx, layer := if none then 0xFFFF else BitVec.ofNat 16 k.layer, pc := pc
      a0 := a0, a1 := a1, a2 := a2, a3 := a3 }

end Sys2Proof.Machine
end

