-- ==== Sys2Proof/Machine/Engines.lean ====
section
/-! DEFINITION. Issue by the control core and the signals of a core (R148 to R150, R247 to R250): every command of a core brings the core forward
to its own beat by `State.sync`. -/
namespace Sys2Proof.Machine

/-- The engines of a core brought forward to the end of a beat. -/
def State.pump (s : State) (c b : Nat) : State := s.modCore c fun k => k.pumpTo (2 * b + 1)

/-! ### Signals -/

/-- The scalars that a control-core instruction names (R143, R148). -/
def ccScalars : CcOp → List Reg
  | .add d a b | .sub d a b | .mul d a b | .and d a b | .or d a b | .xor d a b | .shl d a b | .shr d a b | .sar d a b | .min d a b
  | .max d a b | .slt d a b | .sltu d a b => [d, a, b]
  | .addi d a _ | .andi d a _ | .ori d a _ | .xori d a _ | .shli d a _ | .shri d a _ | .sari d a _ | .ld d a _ | .st d a _ => [d, a]
  | .beq a b _ | .bne a b _ | .blt a b _ | .bge a b _ | .bltu a b _ | .bgeu a b _ => [a, b]
  | .li d _ | .lih d _ | .rds d _ | .rdsc d _ => [d]
  | .nop | .jmp _ | .halt | .parrive _ | .penter _ | .pwait _ | .plevel _ _ _ _ => []

/-- The word at PC in the code window (R147). -/
def Core.wordAtPc (k : Core) : Word64 := BitVec.ofNat 64 (leNat (rdBytes k.sram (codeBase + 8 * k.pc.toNat) 8))

/-- The beat at which a scalar is available (R148). -/
def Core.availAt (k : Core) (r : Reg) : Nat := sget 0 k.avail r.val

/-- The earliest issue beat by the scalars that an instruction reads or writes. -/
def Core.issueBeat (k : Core) (regs : List Reg) : Nat := regs.foldl (fun b r => Nat.max b (k.availAt r)) k.beat

/-- The control-core instruction at PC, while the program runs and CC.HALT has not issued. -/
def Core.ccNext (k : Core) : Option (Hdr × CcOp) :=
  if k.haltAt.isNone && decide (k.pc.toNat < k.codeLen) then
    match decOp k.wordAtPc with
    | some (h, .cc o) => some (h, o)
    | _ => none
  else none

/-- Whether the control core's next instruction takes from a Waymark in a beat (R249, step 1). -/
def Core.ccTakes (k : Core) (n : Fin 32) (beat : Nat) : Bool :=
  match k.ccNext with
  | some (h, o) => decide (h.w = some n) && decide (k.issueBeat (ccScalars o) ≤ beat)
  | none => false

/-- What the waits still to be served in a beat take from a Waymark: those of the engines, which dispatch in it, and the control core's. -/
def Core.takesLeft (k : Core) (n : Fin 32) (beat : Nat) : Nat :=
  (((k.wm n.val).roll beat).value.toNat - (((k.pumpTo (2 * beat)).wm n.val).roll beat).value.toNat) + b2n (k.ccTakes n beat)

/-- The signals that fall in a beat and have not been made, in the engine order of R249 (R95, R130, R148, R231). -/
def Core.signalsIn (k : Core) (beat : Nat) : List PendSig :=
  let sig (h : Hdr) (eng : BitVec 2) (pc : BitVec 15) (due : Nat) : List PendSig := match h.s with
    | some n => if due = beat then [⟨due, n, eng, pc⟩] else []
    | none => []
  (k.pendSig.filter fun x => decide (x.due = beat))
    ++ (k.lws.flatMap fun x => match x.fill with
      | some f => if fillCause f.tile k.tables = 0 then sig x.ent.h 1 x.ent.pc (f.start + 34) else []
      | none => [])
    ++ (k.cmps.flatMap fun x => match x.start with
      | some b => sig x.ent.h 1 x.ent.pc (b + x.busy + 3)
      | none => [])
    ++ (k.rds.flatMap fun x => match x.start with
      | some b => sig x.ent.h 1 x.ent.pc (b + x.len)
      | none => [])
    ++ (k.ves.flatMap fun x => if x.start.isSome && x.heldIn.isEmpty then sig x.ent.h 2 x.ent.pc x.done else [])
    ++ (k.sts.flatMap fun x => match x.start, x.todo with
      | some b, [] => if x.bad = 0 then sig x.ent.h 3 x.ent.pc (b + x.occ) else []
      | _, _ => [])

/-- Whether a Waymark would exceed 4,095 at the end of a beat (R250): the waits that the beat has still to serve take from the start value, not
from what the debug window has written. -/
def Core.tops (k : Core) (beat : Nat) (n : Fin 32) : Bool :=
  let w := (k.wm n.val).roll beat
  decide (4095 + (if w.wr.isSome then 0 else k.takesLeft n beat) < w.sum)

/-- Raise Waymark Overflow (R250, R464) for a beat in which a Waymark exceeds 4,095: the other signals of the beat fall, the record names the
lowest-numbered such Waymark and the first instruction that signalled it, or the debug window. -/
def State.wmOverflow (s : State) (c beat : Nat) : State :=
  let k := (s.core c).signalAll ((s.core c).signalsIn beat)
  let n := ((List.finRange 32).find? (k.tops beat)).getD 0
  let s1 := s.setCore c { k with pendSig := k.pendSig.filter fun x => decide (x.due ≠ beat) }
  match (k.wm n.val).first with
  | some (e, pc) =>
    s1.coreFault c beat 0x0105 (BitVec.ofNat 16 pc.toNat) (BitVec.ofNat 32 (n.val + e.toNat * 256)) 0xFFFFFFFF 0xFFFFFFFF (BitVec.ofNat 32 beat)
  | none => s1.coreFault c beat 0x0105 0xFFFF (BitVec.ofNat 32 (n.val + 1024)) 0xFFFFFFFF 0xFFFFFFFF (BitVec.ofNat 32 beat)

/-- Signal a Waymark of a core by an instruction in a beat (R249): a VALUE that would exceed 4,095 raises Waymark Overflow. -/
def State.signalWm (s : State) (c : Nat) (n : Fin 32) (eng : Nat) (pc : BitVec 15) (beat : Nat) : State :=
  let s1 := s.modCore c fun k => k.signal n (BitVec.ofNat 2 eng) pc beat
  if (s1.core c).tops beat n then s1.wmOverflow c beat else s1

/-- Signal the Waymark that a header names, if it names one. -/
def State.signalHdr (s : State) (c : Nat) (h : Hdr) (eng : Nat) (pc : BitVec 15) (beat : Nat) : State :=
  match h.s with
  | some n => s.signalWm c n eng pc beat
  | none => s

/-! ### Pending results and signals -/

/-- Make the signals that are due (R148, R249). -/
def State.settleSigs (s : State) (c b : Nat) : State :=
  match (s.core c).pendSig with
  | [] => s
  | l =>
    let s := s.modCore c fun k => { k with pendSig := l.filter fun x => decide (b < x.due) }
    (l.filter fun x => decide (x.due ≤ b)).foldl (fun s x => s.signalWm c x.wm x.eng.toNat x.pc x.due) s

/-- Results and signals due up to a beat, and the invalid codes that fills added before it. -/
def State.settle (s : State) (c b : Nat) : State := (s.modCore c fun k => (k.settleRes b).settleClips b).settleSigs c b

/-- A core brought forward to the end of a beat. -/
def State.sync (s : State) (c b : Nat) : State := (s.settle c b).pump c b

/-- A core brought forward into a beat: all that is read in it has been read, nothing of it written. -/
def State.syncIn (s : State) (c b : Nat) : State := (s.settle c (b - 1)).modCore c fun k => k.pumpTo (2 * b)

/-! ### Issue by the control core -/

/-- Whether the control core stands before this instruction: it runs, has not issued CC.HALT, and the word at PC spells
the instruction (R138, R147). -/
def Core.atInstr (k : Core) (op : AnyOp) (h : Hdr) : Bool :=
  k.engLive && k.haltAt.isNone && decide (k.pc.toNat < k.codeLen) && decide (k.wordAtPc = encOp h op)

/-- The core brought forward to the beat in which the W wait of the control core's instruction is over: an engine may take the count on
the way, and the wait goes on. None while the Waymark is zero (R248, R249). -/
def State.toWait : Nat → State → Nat → Hdr → Nat → State × Option Nat
  | 0, s, _, _, _ => (s, none)
  | fuel + 1, s, c, h, b =>
    let s1 := s.sync c (b - 1)
    match (s1.core c).waitFrom h b with
    | none => (s1, none)
    | some w => if w = b then (s1, some b) else s1.toWait fuel c h w

/-- Issue a control-core instruction: `regs` are the scalars it names. When the core stands before it and its W condition
holds, `f` acts at its issue beat on the core brought forward to that beat, its wait taken; else nothing issues, and so when the core
halts in that beat (R197). -/
def State.issueCc (s : State) (c : Nat) (op : CcOp) (h : Hdr) (regs : List Reg) (f : State → Nat → State) : State :=
  let k := s.core c
  if !k.atInstr (.cc op) h then s
  else
    match s.toWait 4 c h (k.issueBeat regs) with
    | (s1, none) => s1
    | (s1, some b) =>
      let s2 := s1.settle c b
      if !(s1.core c).engLive then s1
      else if !(s2.core c).engLive then s2
      else f (s2.modCore c fun k => k.takeHdr h b) b

/-- Move past an instruction of `occ` beats issued at b. -/
def Core.past (k : Core) (b occ : Nat) : Core := { k with pc := k.pc + 1, beat := b + occ }

/-- A signal at a beat named by a header. -/
def Core.sigAt (k : Core) (h : Hdr) (eng : BitVec 2) (pc : BitVec 15) (due : Nat) : Core :=
  match h.s with
  | some n => { k with pendSig := k.pendSig ++ [⟨due, n, eng, pc⟩] }
  | none => k

/-- Issue an instruction that computes RD in one beat (R148): the result is available, and signalled, in the next. -/
def State.ccResult (s : State) (c : Nat) (op : CcOp) (h : Hdr) (rd : Reg) (srcs : List Reg) (f : Core → Word64) : State :=
  s.issueCc c op h (rd :: srcs) fun s b =>
    s.modCore c fun k => ((k.setSc rd (f k)).past b 1).sigAt h 0 k.pc (b + 1)

/-- The key of `Core.avail` at which the completion beat of a result for s0 stands: no scalar has it, so nothing waits (R140, R251). -/
def noScalar : Nat := 64

/-- Issue an instruction whose result is available `lat` beats later (R148). -/
def State.ccLate (s : State) (c : Nat) (op : CcOp) (h : Hdr) (rd : Reg) (srcs : List Reg) (lat : Nat) (f : Core → Word64) : State :=
  s.issueCc c op h (rd :: srcs) fun s b =>
    s.modCore c fun k =>
      let k1 := { k with
        pendRes := k.pendRes ++ [(b + lat, rd, f k)]
        avail := sset 0 k.avail (if rd.val = 0 then noScalar else rd.val) (b + lat) }
      (k1.past b 1).sigAt h 0 k.pc (b + lat)

/-- Issue an instruction without a result; it signals in its issue beat (R148). -/
def State.ccPlain (s : State) (c : Nat) (op : CcOp) (h : Hdr) (srcs : List Reg) (occ : Nat) (f : Core → Nat → Core) : State :=
  s.issueCc c op h srcs fun s b =>
    let pc := (s.core c).pc
    ((s.modCore c fun k => (f k b).past b occ)).signalHdr c h 0 pc b

/-! ### Placing engine instructions in their queues -/

/-- The first beat from b on in which the queue of an engine, `len` entries long now, has a place once that beat's dispatch has freed its own
(R148, R149): what has been dispatched later stood in the queue then. -/
def Core.roomAt (k : Core) (e : BitVec 2) (len b : Nat) : Option Nat :=
  let ds := (k.disps.filter fun x => decide (x.1 = e ∧ b < x.2)).map (·.2)
  (b :: ds).find? fun t => decide (len + (ds.filter fun x => decide (t < x)).length < 32)

/-- Issue an engine instruction (R148, R149): it is placed in its queue at the end of the issue beat, the first in which the queue has a
place; the beats that issue waits count. `len` reads the queue's length, `f` places the entry. -/
def State.issueEng (s : State) (c : Nat) (op : AnyOp) (h : Hdr) (regs : List Reg) (len : Core → Nat) (f : Core → Nat → Core) : State :=
  let k := s.core c
  if !k.atInstr op h then s
  else
    let b := k.issueBeat regs
    let s1 := s.sync c (b - 1)
    let s2 := if len (s1.core c) < 32 then s1 else s1.pump c b
    match (s2.core c).roomAt op.eng (len (s2.core c)) b with
    | none => s2
    | some t =>
      let s3 := s2.settle c t
      if !(s2.core c).engLive then s2
      else if !(s3.core c).engLive then s3
      else s3.modCore c fun k => { (f k t).past t 1 with seq := k.seq + 1, disps := k.disps.filter fun x => decide (t < x.2) }

/-- Place a matrix instruction: `ra` and `rb` are the scalars it names. -/
def State.issueMm (s : State) (c : Nat) (h : Hdr) (op : MmOp) (regs : List Reg) : State :=
  s.issueEng c (.mm op) h regs (·.mq.length) fun k b =>
    { k with mq := k.mq ++ [⟨k.seq, k.pc, h, op, k.sc (regs.getD 0 0), k.sc (regs.getD 1 0), b⟩] }

/-- The scalars of a compute instruction: SS is not read under MM.B16 or MM.N2 (R80). -/
def mmRegs (sh : MmShape) (a : MmArgs) : List Reg :=
  match sh with
  | .b16 | .n2 _ => [a.sa]
  | _ => [a.sa, a.ss]

/-- Place a compute instruction. -/
def State.issueComp (s : State) (c : Nat) (h : Hdr) (sh : MmShape) (a : MmArgs) : State := s.issueMm c h (.comp sh a) (mmRegs sh a)

/-- The scalars of a vector instruction (R101, R102). -/
def veRegList (op : VeOp) : List Reg :=
  op.reg.toList ++ (match op.count with
    | some (.scalar r) => [r]
    | _ => [])

/-- Place a vector instruction. -/
def State.issueVe (s : State) (c : Nat) (h : Hdr) (op : VeOp) : State :=
  s.issueEng c (.ve op) h (veRegList op) (·.vq.length) fun k b =>
    let sv := match op.reg with
      | some r => k.sc r
      | none => 0
    let cnt := match op.count with
      | some (.scalar r) => k.sc r
      | _ => 0
    { k with vq := k.vq ++ [⟨k.seq, k.pc, h, op, sv, cnt, b⟩] }

/-- Place a stream instruction. -/
def State.issueSt (s : State) (c : Nat) (h : Hdr) (op : StOp) : State :=
  let regs := match op with
    | .arm _ _ sa => [sa]
    | _ => []
  s.issueEng c (.st op) h regs (·.sq.length) fun k b =>
    { k with sq := k.sq ++ [⟨k.seq, k.pc, h, op, k.sc (regs.getD 0 0), b⟩] }

/-! ### Completion -/

/-- Make dispatches, starts and work, whatever their beat, until a test holds; for a command that is the next event of a core. -/
def Core.pumpUntil : Nat → Core → (Core → Bool) → Core
  | 0, k, _ => k
  | fuel + 1, k, p =>
    if p k then k
    else match k.nextAct with
      | some (t, a) => Core.pumpUntil fuel (k.doAct t a) p
      | none => k

/-- The same for a core of the module. -/
def State.pumpUntil (s : State) (c : Nat) (p : Core → Bool) : State := s.modCore c fun k => Core.pumpUntil pumpFuel k p

/-- The beat of the last completion made (R150). -/
def Core.noteDone (k : Core) (b : Nat) : Core := { k with lastDone := Nat.max k.lastDone b }

end Sys2Proof.Machine
end

