-- ==== Sys2Proof/Machine/Stream.lean ====
section
/-! DEFINITION. The stream instructions and the stream engine's traffic outside the core (R204 to R232, R283, R385). -/
namespace Sys2Proof.Machine

/-- ST.ARM (R230, R212): placed in the stream queue. -/
def execStArm (c : CoreId) (h : Hdr) (ch : Fin 6) (sh : Bool) (sa : Reg) (s : State) : Host.Outcome State Fault Refusal :=
  .next (s.issueSt c.val h (.arm ch sh sa))

/-- ST.TAIL (R221, R224, R230). -/
def execStTail (c : CoreId) (h : Hdr) (ch : Fin 6) (n : Fin 16) (s : State) : Host.Outcome State Fault Refusal :=
  .next (s.issueSt c.val h (.tail ch n))

/-- ST.HEAD (R223, R224, R230). -/
def execStHead (c : CoreId) (h : Hdr) (ch : Fin 6) (n : Fin 16) (s : State) : Host.Outcome State Fault Refusal :=
  .next (s.issueSt c.val h (.head ch n))

/-- ST.CANCEL (R226, R230). -/
def execStCancel (c : CoreId) (h : Hdr) (ch : Fin 4) (s : State) : Host.Outcome State Fault Refusal :=
  .next (s.issueSt c.val h (.cancel ch))

/-- Whether the gate of a descriptor is open (R236). -/
def State.gateOpen (s : State) (c : Nat) (d : Desc) : Bool :=
  match d.gate with
  | none => true
  | some (g, _) => decide (d.layerStep + g ≤ (s.part (c / 128)).step)

/-- The slot whose fill may start now, with its descriptor (R219, R216). Transfers and slots start in order, so the fill before it has by
then started them all and keeps the credit of its last. -/
def State.fillSlot (s : State) (c ch : Nat) : Option (Nat × Desc) :=
  let x := (s.core c).chanNow ch
  let n := x.f + x.liveFills.length
  let stale := x.outstanding - (x.liveFills.map fun f => f.out.length).sum
  match x.owner n with
  | none => none
  | some d =>
    if d.region ≠ 0 ∧ n < x.t + d.lead + 1 ∧ n < x.h + x.geo.nslot + 1 ∧ stale + x.liveFills.length < creditsOf ch
        ∧ s.gateOpen c d = true
    then some (n, d) else none

/-- Whether the stream engine's transfers continue (R153, R197): not on a halted core. A core without a program fills only for a
descriptor armed by RAW_DESC (R426). -/
def Core.moving (k : Core) : Bool :=
  match k.status with
  | .halted => false
  | _ => true

/-- A transaction's traffic of region 0x2 meets the confinement and takes its turns of the read class (R240, R385, R388). -/
def State.readTurns (s : State) (x : Xact) : State :=
  if x.region = 2 then (s.noteConf (s.confined 2 x.off x.n)).useTurns .read x.off (64 * x.n) else s

/-- The next transfer of a fill starts: what its first read fetches is read now (R210, R219). -/
def State.startXfer (s : State) (c : Nat) (f : SlotFill) : State × SlotFill :=
  let x := s.xferStart c f.desc ((f.desc.slotXfers f.n).getD f.next 0) f.next
  (s.readTurns x, { f with out := f.out ++ [x], next := f.next + 1 })

/-- The next `n` transfers of a fill start, as far as it has any. -/
def State.startXfers : Nat → State → Nat → SlotFill → State × SlotFill
  | 0, s, _, f => (s, f)
  | n + 1, s, c, f =>
    if f.next < f.count then
      let (s1, f1) := s.startXfer c f
      State.startXfers n s1 c f1
    else (s, f)

/-- The oldest transfer of a fill ends: its later reads are made, and its bytes are written (R210, R218, R219). -/
def State.endXfer (s : State) (c ch : Nat) (f : SlotFill) : State × SlotFill :=
  match f.out with
  | [] => (s, f)
  | x :: r =>
    let y := s.xferRest c x
    let g := ((s.core c).chan ch)
    (s.modCore c fun k => k.writeSlot ch g.geo (g.ringSlot f.n) [f.desc.piece f.n y], { f with out := r })

/-- Transfers of a fill end, oldest first, and each gives its credit to the next to start, until `left` are outstanding and none waits
(R219). -/
def State.runFill : Nat → State → Nat → Nat → Nat → SlotFill → State × SlotFill
  | 0, s, _, _, _, f => (s, f)
  | fuel + 1, s, c, ch, left, f =>
    if f.next = f.count ∧ f.out.length ≤ left then (s, f)
    else
      let (s1, f1) := s.endXfer c ch f
      let (s2, f2) := s1.startXfers 1 c f1
      State.runFill fuel s2 c ch left f2

/-- More rounds than a slot of 64 transfers needs. -/
def fillFuel : Nat := 160

/-- The live fills of a channel, each changed in turn by a step of the module. -/
def State.eachFill (s : State) (c ch : Nat) (f : State → SlotFill → State × SlotFill) : List SlotFill → State × List SlotFill
  | [] => (s, [])
  | x :: r =>
    let (s1, y) := if ((s.core c).chan ch).isLive x then f s x else (s, x)
    let (s2, l) := s1.eachFill c ch f r
    (s2, y :: l)

/-- The fills of a channel replaced. -/
def State.setFills (s : State) (c ch : Nat) (l : List SlotFill) : State := s.modCore c fun k => k.modChan ch fun x => { x with fills := l }

/-- Credits of an inbound channel that no transaction holds (R205). -/
def State.freeCredits (s : State) (c ch : Nat) : Nat := creditsOf ch - ((s.core c).chan ch).outstanding

/-- SLOT_FILL_START (R205, R210, R219): the next slot's first transfers start, as many as there are credits; the fills before it have come
to their last transfer. -/
def execSlotFillStart (c : CoreId) (ch : Fin 4) (s : State) : Host.Outcome State Fault Refusal :=
  match s.fillSlot c.val ch.val with
  | some (n, d) =>
    if (s.core c.val).moving then
      let (s1, l) := s.eachFill c.val ch.val (fun s f => State.runFill fillFuel s c.val ch.val 1 f) ((s.core c.val).chan ch.val).fills
      let s2 := s1.setFills c.val ch.val l
      let x := (s2.core c.val).chan ch.val
      let (s3, f) := State.startXfers (s2.freeCredits c.val ch.val) s2 c.val
        { n := n, gen := x.gen, rgen := s.coreGen c.val, out := [], next := 0, count := (d.slotXfers n).length, desc := d }
      .next (s3.setFills c.val ch.val (x.fills ++ [f]))
    else .next s
  | none => .next s

/-- SLOT_FILL_COMPLETE (R218, R219, R227): the last byte of the oldest fill's slot is written, zeros in the positions that it lacks, and F
passes it; the credits go to the next slot's transfers. -/
def execSlotFillComplete (c : CoreId) (ch : Fin 4) (s : State) : Host.Outcome State Fault Refusal :=
  let x := (s.core c.val).chan ch.val
  match x.fills.find? x.isLive with
  | some f =>
    if f.rgen = s.coreGen c.val ∧ f.n = x.f then
      let (s1, g) := State.runFill fillFuel s c.val ch.val 0 f
      let s2 := s1.modCore c.val fun k => (k.writeSlot ch.val x.geo (x.ringSlot f.n) (g.desc.padPieces g.count)).modChan ch.val fun x =>
        { x with fills := x.fills.erase f, f := x.f + 1 }
      let (s3, l) := s2.eachFill c.val ch.val (fun s f => State.startXfers (s.freeCredits c.val ch.val) s c.val f)
        ((s2.core c.val).chan ch.val).fills
      .next (s3.setFills c.val ch.val l)
    else .next s
  | none => .next s

/-! ### Send slots and the plan's sends -/

/-- The layer record of the running image. -/
def State.layerRec (s : State) (n : Nat) : Option LayerRec :=
  match s.runImage with
  | some im => im.layers[n]?
  | none => none

/-- A record of the running plan. -/
def State.planRec (s : State) (i : Nat) : Option PlanRec :=
  match s.runImage with
  | some im => im.recs[i]?
  | none => none

/-- LSTEP of a layer of the running image. -/
def State.layerStepOf (s : State) (n : Nat) : Nat :=
  match s.layerRec n with
  | some l => l.lstep
  | none => 0

/-- The step of a record (R287): its layer's step plus STEPOFF. -/
def State.recStep (s : State) (r : PlanRec) : Nat := s.layerStepOf r.layer + r.stepoff

/-- TIMEOUT of a layer (R286). -/
def State.layerTimeout (s : State) (n : Nat) : Nat :=
  match s.runImage with
  | some im => im.timeouts.getD n 65535
  | none => 65535

/-- Whether a RECV or RECVF record is unmatched and has met no Step Timeout. -/
def State.unmatched (s : State) (i : Nat) (r : PlanRec) : Bool :=
  decide (2 ≤ r.act) && !s.ring.matched.contains i && !s.ring.timedOut.contains i

/-- Whether Step Timeout falls due for an unmatched record: the schedule step has reached s + TIMEOUT (R294). -/
def State.timeoutDue (s : State) (i : Nat) (r : PlanRec) : Bool :=
  s.unmatched i r && decide (s.recStep r + s.layerTimeout r.layer ≤ s.schedStep)

/-- Whether the forward slot of an unmatched RECVF record is lost: step s + 1 has ended (R292). -/
def State.forwardDue (s : State) (i : Nat) (r : PlanRec) : Bool :=
  s.unmatched i r && decide (r.act = 3) && decide (s.recStep r + 2 ≤ s.schedStep)

/-- Whether a step timeout has fired, or falls due now, for a record of a layer: Schedule Overrun of that layer is then not raised (R168). -/
def State.layerTimedOut (s : State) (n : Nat) : Bool :=
  match s.runImage with
  | none => false
  | some im => (List.range im.recs.length).any fun i => match im.recs[i]? with
    | some r => decide (r.layer = n) && (s.ring.timedOut.contains i || s.timeoutDue i r || s.forwardDue i r)
    | none => false

/-- Whether a SEND record of this step has still to send a slot of a port (R283, R290). -/
def State.sendDue (s : State) (q i : Nat) : Bool :=
  s.runHolds && (match s.runImage with
    | none => false
    | some im => (List.range im.recs.length).any fun n => match im.recs[n]? with
      | some r => decide (r.act = 1) && decide (r.port.toNat = q) && decide (r.src % 16 = i) && decide (s.recStep r = s.schedStep)
          && !s.ring.sentRecs.contains n
      | none => false)

/-- Bytes written at an offset of a send slot: the granules' bits are set (R283). -/
def SendSlot.put (x : SendSlot) (off : Nat) (d : List Byte) : SendSlot :=
  { x with bytes := wrBytes x.bytes off d, valid := x.valid ||| BitVec.ofNat 4096 (2 ^ (off / 64)) }

/-- A send slot in the step of Milestone ms: the writes held in an earlier step have taken effect. -/
def SendSlot.settle (x : SendSlot) (ms : Nat) : SendSlot :=
  (x.late.filter fun w => decide (w.1 < ms)).foldl (fun x w => x.put w.2.1 w.2.2) { x with late := x.late.filter fun w => decide (ms ≤ w.1) }

/-- A send slot after its send: its bits are cleared, and then the writes held in that step take effect (R283). -/
def SendSlot.sent (x : SendSlot) : SendSlot := x.late.foldl (fun x w => x.put w.2.1 w.2.2) { x with valid := 0, late := [] }

/-- A granule reaches a send slot in a step: held when the slot is still to be sent in it. -/
def SendSlot.take (x : SendSlot) (ms : Nat) (hold : Bool) (off : Nat) (d : List Byte) : SendSlot :=
  let y := x.settle ms
  if hold then { y with late := y.late ++ [(ms, off, d)] } else y.put off d

/-- The port and slot offset of a send-region address (R283). -/
def sendPlace (p : Nat) : Nat × Nat × Nat :=
  let r := p / 2 ^ 44
  let off := p % 2 ^ 44
  ((if r = 4 then 0 else 2) + off / 0x400000, off % 0x400000 / 0x40000, off % 0x40000)

/-- Write one granule to its destination: LPDDR within the run's ranges (R385), or a send slot with its valid bit, after the send of this
step if there is one to come (R283). -/
def State.writeGranule (s : State) (p : Nat) (d : List Byte) : State :=
  if p / 2 ^ 44 = 2 then
    let off := p % 2 ^ 44
    if inRanges s.writeRanges off 64 then { s with lpddr := wrBytes s.lpddr off d } else s.noteConf [off]
  else
    let (q, i, off) := sendPlace p
    s.modSendSlot q i fun x => x.take s.ring.ms (s.sendDue q i) off d

/-- The granules of an outbound slot: destination and offset in the slot. -/
def OutSlot.grains (w : OutSlot) : List (Nat × Nat) := w.xfers.flatMap fun (p, off, n) => (List.range n).map fun i => (p + 64 * i, off + 64 * i)

/-- The turns that the writes of an outbound slot take (R240, R388). -/
def State.outTurns (s : State) (w : OutSlot) : State :=
  w.xfers.foldl (fun s (p, _, n) => if p / 2 ^ 44 = 2 then s.useTurns .write (p % 2 ^ 44) (64 * n) else s) s

/-- OUTBOUND_SLOT_SENT (R224, R229, R240, R456): every write of the oldest handed-over slot is acknowledged, and F passes it. The slot of a core
that has been reset since writes what it held then and moves no pointer; a core that is halted, or whose job has stopped, sends nothing (R197,
R369). -/
def execOutboundSlotSent (c : CoreId) (o : Fin 2) (s : State) : Host.Outcome State Fault Refusal :=
  let ch := 4 + o.val
  let k := s.core c.val
  let x := k.chan ch
  match x.outs with
  | w :: r =>
    match w.old with
    | some (_, data) =>
      let s1 := (w.grains.zip data).foldl (fun s (g, b) => s.writeGranule g.1 b) (s.outTurns w)
      .next (s1.modCore c.val fun k => k.modChan ch fun x => { x with outs := r })
    | none =>
      if k.status = .halted ∨ s.runHolds = false then .next s
      else
        let s1 := w.grains.foldl (fun s (p, off) => s.writeGranule p (k.slotBytes ch x.geo (x.ringSlot w.n) off 64)) (s.outTurns w)
        .next (s1.modCore c.val fun k => k.modChan ch fun x => { x with outs := r, f := x.f + 1 })
  | [] => .next s

end Sys2Proof.Machine
end

