-- ==== Sys2Proof/Machine/Completion.lean ====
section
/-! DEFINITION. Completion of instructions (R95, R130, R148, R213 to R231): INSTRUCTION_COMPLETION makes the next completion of
one unit of a core, at the beat the rules fix. -/
namespace Sys2Proof.Machine

/-- STM_FAULT and STM_FAULTPC of a fault (R243): a record that is there keeps its value until the next program start or core reset. -/
def Core.noteStream (k : Core) (ch reason : Nat) (pc : BitVec 15) : Core :=
  if k.stmFault.getLsbD 31 then k
  else { k with stmFault := BitVec.ofNat 32 (2 ^ 31 + ch * 2 ^ 28 + reason * 2 ^ 24), stmFaultPc := pc }

/-- A stream fault (R212, R225): recorded, the core halts, the job stops. -/
def State.streamFault (s : State) (c : Nat) (code : BitVec 16) (ch reason : Nat) (pc : BitVec 15) (beat : Nat) : State :=
  let s1 := s.modCore c fun k => k.noteStream ch reason pc
  s1.coreFault c beat code (BitVec.ofNat 16 pc.toNat) (s1.core c).stmFault 0xFFFFFFFF 0xFFFFFFFF (BitVec.ofNat 32 beat)

/-- Make a descriptor active on an idle channel (R214): pointers and geometry are set when head equals tail. -/
def Chan.activate (c : Chan) (ch : Nat) (d : Desc) : Chan :=
  if c.h = c.t then
    let c1 := { c with geo := d.geo, h := 0, t := 0, f := 0, active := some { d with first := 0 }, mask := 0 }
    if inboundCh ch then { c1 with mask := c1.fullMask } else c1
  else { c with active := some { d with first := c.t } }

/-- ST.ARM at its completion beat (R212 to R214, R236): accepted, ignored, or a Stream Descriptor Fault. The descriptor keeps the layer step of
that beat. -/
def State.armDone (s : State) (c : Nat) (x : StItem) (ch : Nat) (sh : Bool) (beat : Nat) : State :=
  let k := s.core c
  let chan := k.chan ch
  let accepted := if sh then chan.shadow.isNone else chan.active.isNone
  if !accepted then s.modCore c fun k => k.modChan ch fun y => { y with ign := sat16 y.ign 1 }
  else
    let d := parseDesc x.desc (k.lstepIn beat) x.ent.pc 0
    let reset := chan.active.isNone && decide (chan.h = chan.t)
    let reason := descCheck k x.desc (inboundCh ch) d
    let reason := if reason = 0 ∧ reset = false ∧ d.geo ≠ chan.geo then 7 else reason
    if reason ≠ 0 then s.streamFault c 0x0103 ch reason x.ent.pc beat
    else s.modCore c fun k => k.modChan ch fun y =>
      if y.active.isNone then y.activate ch d else { y with shadow := some d }

/-- What a stream instruction does at its completion (R215, R221 to R224). -/
def State.streamDone (s : State) (c : Nat) (x : StItem) (beat : Nat) : State :=
  match x.ent.op with
  | .arm ch sh _ => s.armDone c x ch.val sh beat
  | .tail ch n =>
    if x.bad ≠ 0 then s.streamFault c 0x0104 ch.val x.bad x.ent.pc (beat - 1)
    else s.modCore c fun k => k.modChan ch.val fun y => if inboundCh ch.val then y.tailIn (n.val + 1) else y.tailOut (n.val + 1)
  | .head ch n =>
    if x.bad ≠ 0 then s.streamFault c 0x0104 ch.val x.bad x.ent.pc (beat - 1)
    else s.modCore c fun k => k.modChan ch.val fun y =>
      if inboundCh ch.val then y.headIn (n.val + 1) else y.headOut (n.val + 1)
  | .cancel _ => s

/-- The next completion of the stream engine (R231); the core may park on the way (R221, R224, R227). -/
def State.complStream (s : State) (c : Nat) : State :=
  let s1 := s.pumpUntil c fun k => k.sts.any fun x => x.start.isSome && x.todo.isEmpty
  if !(s1.core c).runs && (s.core c).runs then s1
  else match (s1.core c).sts with
    | x :: _ => match x.start, x.todo with
      | some b, [] =>
        let d := b + x.occ
        let s2 := s1.sync c (d - 1)
        if !(s2.core c).runs then s2
        else
          let s3 := s2.modCore c fun k => { k.noteDone d with sts := k.sts.drop 1 }
          let s4 := s3.streamDone c x d
          if (s4.core c).runs then s4.signalHdr c x.ent.h 3 x.ent.pc d else s4
      | _, _ => s
    | [] => s

/-- The next completion of the lane row (R92, R95): the last addition reaches the bank. -/
def State.complLaneRow (s : State) (c : Nat) : State :=
  let s1 := s.pumpUntil c fun k => k.cmps.any fun x => x.start.isSome
  match (s1.core c).cmps with
  | x :: _ => match x.start with
    | some b =>
      let d := b + x.busy + 3
      let s2 := s1.sync c (d - 1)
      if !(s2.core c).engLive then s2
      else (s2.modCore c fun k => { k.noteDone d with cmps := k.cmps.drop 1 }).signalHdr c x.ent.h 1 x.ent.pc d
    | none => s
  | [] => s

/-- The bank of a readout instruction. -/
def RdItem.accIdx (x : RdItem) : Nat :=
  match x.ent.op with
  | .rd acc _ _ _ _ _ | .la acc _ _ => acc.val
  | _ => 0

/-- The next completion of the readout unit (R88, R89, R95). -/
def State.complReadout (s : State) (c : Nat) : State :=
  let s1 := s.pumpUntil c fun k => k.rds.any fun x => x.start.isSome
  match (s1.core c).rds with
  | x :: _ => match x.start with
    | some b =>
      let d := b + x.len
      let s2 := s1.sync c (d - 1)
      if !(s2.core c).engLive then s2
      else
        let s3 := s2.modCore c fun k =>
          { k.noteDone d with rds := k.rds.drop 1, bankAt := sset 0 k.bankAt x.accIdx d }
        s3.signalHdr c x.ent.h 1 x.ent.pc d
    | none => s
  | [] => s

/-- The started vector instruction that completes first: L differs, so it need not be the oldest (R128). One with a write that a
fill holds completes after the release (R130). -/
def firstDone (ves : List VeItem) : Option VeItem :=
  (ves.filter fun x => x.start.isSome && x.heldIn.isEmpty).foldl (fun o x => match o with
    | none => some x
    | some y => if x.done < y.done then some x else some y) none

/-- Whether the next completion of the vector engine is fixed: nothing dispatches or starts before it. -/
def Core.veSettled (k : Core) : Bool :=
  match firstDone k.ves, k.nextAct with
  | some x, some (b, _) => decide (2 * x.done ≤ b)
  | some _, none => true
  | none, _ => false

/-- The next completion of the vector engine (R129, R130). -/
def State.complVector (s : State) (c : Nat) : State :=
  let s1 := s.pumpUntil c Core.veSettled
  match firstDone (s1.core c).ves with
  | some x =>
    let s2 := s1.sync c (x.done - 1)
    if !(s2.core c).engLive then s2
    else
      let s3 := s2.modCore c fun k =>
        { k.noteDone x.done with
          ves := k.ves.filter fun y => decide (y.ent.seq ≠ x.ent.seq)
          vc := match x.vc with
            | some n => BitVec.ofNat 13 n
            | none => k.vc
          veDone := x.regs.foldl (fun m r => sset 0 m r x.done) k.veDone }
      s3.signalHdr c x.ent.h 2 x.ent.pc x.done
  | none => s

/-- The earliest pending result or signal of a core. -/
def Core.nextDue (k : Core) : Option Nat :=
  (k.pendRes.map (·.1) ++ k.pendSig.map (·.due)).foldl (fun o b => match o with
    | none => some b
    | some x => some (Nat.min x b)) none

/-- INSTRUCTION_COMPLETION (R95, R130, R148, R231): the next completion of a unit of the core. -/
def execInstructionCompletion (c : CoreId) (u : CompUnit) (s : State) : Host.Outcome State Fault Refusal :=
  if !(s.core c.val).runs then .next s
  else match u with
    | .control => match (s.core c.val).nextDue with
      | some b => .next ((s.pump c.val (b - 1)).settle c.val b)
      | none => .next s
    | .laneRow => .next (s.complLaneRow c.val)
    | .readout => .next (s.complReadout c.val)
    | .vector => .next (s.complVector c.val)
    | .stream => .next (s.complStream c.val)

end Sys2Proof.Machine
end

