-- ==== Sys2Proof/Machine/ControlCore.lean ====
section
/-! DEFINITION. The control-core instructions but for the Pass instructions (R140 to R150, R158). Each meaning is one
issue; a core that does not stand before the instruction turns it away (Sys2Proof/Machine/Engines.lean). -/
namespace Sys2Proof.Machine

/-- IMM sign-extended to 64 bits (R144). -/
def sx (imm : BitVec 29) : Word64 := imm.signExtend 64

/-- PC + OFF (R144, R145). -/
def branchPc (pc : BitVec 15) (off : BitVec 29) : BitVec 15 := pc + off.truncate 15

/-- A conditional branch (R144, R148): taken it occupies two beats, and it signals in its issue beat. -/
def State.ccBranch (s : State) (c : Nat) (op : CcOp) (h : Hdr) (regs : List Reg) (off : BitVec 29) (cond : Core → Bool) : State :=
  s.issueCc c op h regs fun s b =>
    let pc := (s.core c).pc
    (s.modCore c fun k => if cond k then { k with pc := branchPc k.pc off, beat := b + 2 } else k.past b 1).signalHdr c h 0 pc b

/-- The address of CC.LD and CC.ST (R146). -/
def ccAddr (a : Word64) (imm : BitVec 29) : Nat := bitsOf (a + sx imm).toNat 21 3 * 8

/-- Beats of items still to come at beat b, for the busy counters (R97, R137). -/
def restBeats (items : List (Nat × Nat)) (b : Nat) : Nat := (items.map fun x => x.1 + x.2 - Nat.max b x.1).sum

/-- Busy beats of started compute instructions that lie at or after beat b. -/
def Core.mmRest (k : Core) (b : Nat) : Nat :=
  restBeats (k.cmps.filterMap fun x => x.start.map fun s => (s, x.busy)) b

/-- Busy beats of started vector instructions that lie at or after beat b. -/
def Core.veRest (k : Core) (b : Nat) : Nat :=
  restBeats (k.ves.filterMap fun x => x.start.map fun s => (s, x.free - s)) b

/-- Junction temperature of a core's cluster, 16 bits (R141, R515). -/
def State.coreTj (s : State) (c : Nat) : BitVec 16 :=
  s.phys.tj.getD (16 * physPart s.boot.enabled (c / 128) + c / 8 % 16) 0

/-- The rail of a core's die in mV (R141, R512). -/
def State.coreMv (s : State) (c : Nat) : Nat := if physPart s.boot.enabled (c / 128) < 8 then s.phys.va else s.phys.vb

/-- The value of a special register at beat b (R141). TIME is a free value, drawn by CC.RDS. -/
def State.special (s : State) (c : Nat) (sel b : Nat) : Word64 :=
  let k := s.core c
  if sel = 0x00 then BitVec.ofNat 64 b
  else if sel = 0x01 then k.vc.zeroExtend 64
  else if sel = 0x02 then BitVec.ofNat 64 k.layer
  else if sel = 0x03 then BitVec.ofNat 64 k.lstep
  else if sel = 0x04 then BitVec.ofNat 64 k.ctx
  else if sel = 0x05 then BitVec.ofNat 64 (c / 128 * 256 + c / 8 % 16 * 16 + c % 8)
  else if sel = 0x06 then (k.mmbusy - BitVec.ofNat 32 (k.mmRest b)).zeroExtend 64
  else if sel = 0x07 then (k.mmwait + BitVec.ofNat 32 (k.mmWaiting b)).zeroExtend 64
  else if sel = 0x08 then (k.vebusy - BitVec.ofNat 32 (k.veRest b)).zeroExtend 64
  else if 0x10 ≤ sel ∧ sel ≤ 0x1F then (k.clip (sel - 0x10)).zeroExtend 64
  else if sel = 0x20 then Config.freeWord64 s.free
  else if sel = 0x21 then BitVec.ofNat 64 s.ring.ms
  else if sel = 0x22 then (s.coreTj c).signExtend 64
  else BitVec.ofNat 64 (s.coreMv c)

/-- A clearable special register set to zero at beat b (R142): counts of later beats remain to be added. -/
def Core.clearSpecial (k : Core) (sel b : Nat) : Core :=
  if sel = 0x06 then { k with mmbusy := BitVec.ofNat 32 (k.mmRest b) }
  else if sel = 0x07 then { k with mmwait := 0 - BitVec.ofNat 32 (k.mmWaiting b) }
  else if sel = 0x08 then { k with vebusy := BitVec.ofNat 32 (k.veRest b) }
  else { k with clips := sset 0 k.clips (sel - 0x10) 0 }

/-- CC.NOP (R144). -/
def execCcNop (c : CoreId) (h : Hdr)  (s : State) : Host.Outcome State Fault Refusal :=
  .next (s.ccPlain c.val .nop h [] 1 fun k _ => k)

/-- CC.ADD: RD = RA + RB (R144). -/
def execCcAdd (c : CoreId) (h : Hdr) (rd ra rb : Reg) (s : State) : Host.Outcome State Fault Refusal :=
  .next (s.ccResult c.val (.add rd ra rb) h rd [ra, rb] fun k => k.sc ra + k.sc rb)

/-- CC.SUB: RD = RA − RB (R144). -/
def execCcSub (c : CoreId) (h : Hdr) (rd ra rb : Reg) (s : State) : Host.Outcome State Fault Refusal :=
  .next (s.ccResult c.val (.sub rd ra rb) h rd [ra, rb] fun k => k.sc ra - k.sc rb)

/-- CC.MUL: the low 64 bits of RA × RB, three beats after issue (R144, R148). -/
def execCcMul (c : CoreId) (h : Hdr) (rd ra rb : Reg) (s : State) : Host.Outcome State Fault Refusal :=
  .next (s.ccLate c.val (.mul rd ra rb) h rd [ra, rb] 3 fun k => k.sc ra * k.sc rb)

/-- CC.AND: bitwise and (R144). -/
def execCcAnd (c : CoreId) (h : Hdr) (rd ra rb : Reg) (s : State) : Host.Outcome State Fault Refusal :=
  .next (s.ccResult c.val (.and rd ra rb) h rd [ra, rb] fun k => k.sc ra &&& k.sc rb)

/-- CC.OR: bitwise or (R144). -/
def execCcOr (c : CoreId) (h : Hdr) (rd ra rb : Reg) (s : State) : Host.Outcome State Fault Refusal :=
  .next (s.ccResult c.val (.or rd ra rb) h rd [ra, rb] fun k => k.sc ra ||| k.sc rb)

/-- CC.XOR: bitwise exclusive or (R144). -/
def execCcXor (c : CoreId) (h : Hdr) (rd ra rb : Reg) (s : State) : Host.Outcome State Fault Refusal :=
  .next (s.ccResult c.val (.xor rd ra rb) h rd [ra, rb] fun k => k.sc ra ^^^ k.sc rb)

/-- CC.SHL: shift left by RB[5:0] (R144). -/
def execCcShl (c : CoreId) (h : Hdr) (rd ra rb : Reg) (s : State) : Host.Outcome State Fault Refusal :=
  .next (s.ccResult c.val (.shl rd ra rb) h rd [ra, rb] fun k => k.sc ra <<< ((k.sc rb).toNat % 64))

/-- CC.SHR: logical shift right by RB[5:0] (R144). -/
def execCcShr (c : CoreId) (h : Hdr) (rd ra rb : Reg) (s : State) : Host.Outcome State Fault Refusal :=
  .next (s.ccResult c.val (.shr rd ra rb) h rd [ra, rb] fun k => k.sc ra >>> ((k.sc rb).toNat % 64))

/-- CC.SAR: arithmetic shift right by RB[5:0] (R144). -/
def execCcSar (c : CoreId) (h : Hdr) (rd ra rb : Reg) (s : State) : Host.Outcome State Fault Refusal :=
  .next (s.ccResult c.val (.sar rd ra rb) h rd [ra, rb] fun k => (k.sc ra).sshiftRight ((k.sc rb).toNat % 64))

/-- CC.MIN: the smaller, signed (R144). -/
def execCcMin (c : CoreId) (h : Hdr) (rd ra rb : Reg) (s : State) : Host.Outcome State Fault Refusal :=
  .next (s.ccResult c.val (.min rd ra rb) h rd [ra, rb] fun k => if (k.sc ra).slt (k.sc rb) then k.sc ra else k.sc rb)

/-- CC.MAX: the larger, signed (R144). -/
def execCcMax (c : CoreId) (h : Hdr) (rd ra rb : Reg) (s : State) : Host.Outcome State Fault Refusal :=
  .next (s.ccResult c.val (.max rd ra rb) h rd [ra, rb] fun k => if (k.sc ra).slt (k.sc rb) then k.sc rb else k.sc ra)

/-- CC.SLT: 1 if RA < RB signed (R144). -/
def execCcSlt (c : CoreId) (h : Hdr) (rd ra rb : Reg) (s : State) : Host.Outcome State Fault Refusal :=
  .next (s.ccResult c.val (.slt rd ra rb) h rd [ra, rb] fun k => BitVec.ofNat 64 (b2n ((k.sc ra).slt (k.sc rb))))

/-- CC.SLTU: 1 if RA < RB unsigned (R144). -/
def execCcSltu (c : CoreId) (h : Hdr) (rd ra rb : Reg) (s : State) : Host.Outcome State Fault Refusal :=
  .next (s.ccResult c.val (.sltu rd ra rb) h rd [ra, rb] fun k => BitVec.ofNat 64 (b2n ((k.sc ra).ult (k.sc rb))))

/-- CC.ADDI: RD = RA + IMM (R144). -/
def execCcAddi (c : CoreId) (h : Hdr) (rd ra : Reg) (imm : BitVec 29) (s : State) : Host.Outcome State Fault Refusal :=
  .next (s.ccResult c.val (.addi rd ra imm) h rd [ra] fun k => k.sc ra + sx imm)

/-- CC.ANDI: bitwise and with IMM (R144). -/
def execCcAndi (c : CoreId) (h : Hdr) (rd ra : Reg) (imm : BitVec 29) (s : State) : Host.Outcome State Fault Refusal :=
  .next (s.ccResult c.val (.andi rd ra imm) h rd [ra] fun k => k.sc ra &&& sx imm)

/-- CC.ORI: bitwise or with IMM (R144). -/
def execCcOri (c : CoreId) (h : Hdr) (rd ra : Reg) (imm : BitVec 29) (s : State) : Host.Outcome State Fault Refusal :=
  .next (s.ccResult c.val (.ori rd ra imm) h rd [ra] fun k => k.sc ra ||| sx imm)

/-- CC.XORI: bitwise exclusive or with IMM (R144). -/
def execCcXori (c : CoreId) (h : Hdr) (rd ra : Reg) (imm : BitVec 29) (s : State) : Host.Outcome State Fault Refusal :=
  .next (s.ccResult c.val (.xori rd ra imm) h rd [ra] fun k => k.sc ra ^^^ sx imm)

/-- CC.SHLI: shift left by IMM, 0 to 63 (R144). -/
def execCcShli (c : CoreId) (h : Hdr) (rd ra : Reg) (imm : BitVec 29) (s : State) : Host.Outcome State Fault Refusal :=
  if (CcOp.shli rd ra imm).legal then .next (s.ccResult c.val (.shli rd ra imm) h rd [ra] fun k => k.sc ra <<< imm.toNat)
  else .refused .reservedEncoding

/-- CC.SHRI: logical shift right by IMM, 0 to 63 (R144). -/
def execCcShri (c : CoreId) (h : Hdr) (rd ra : Reg) (imm : BitVec 29) (s : State) : Host.Outcome State Fault Refusal :=
  if (CcOp.shri rd ra imm).legal then .next (s.ccResult c.val (.shri rd ra imm) h rd [ra] fun k => k.sc ra >>> imm.toNat)
  else .refused .reservedEncoding

/-- CC.SARI: arithmetic shift right by IMM, 0 to 63 (R144). -/
def execCcSari (c : CoreId) (h : Hdr) (rd ra : Reg) (imm : BitVec 29) (s : State) : Host.Outcome State Fault Refusal :=
  if (CcOp.sari rd ra imm).legal then .next (s.ccResult c.val (.sari rd ra imm) h rd [ra] fun k => (k.sc ra).sshiftRight imm.toNat)
  else .refused .reservedEncoding

/-- CC.LI: RD = IMM32 sign-extended (R144). -/
def execCcLi (c : CoreId) (h : Hdr) (rd : Reg) (imm : Word32) (s : State) : Host.Outcome State Fault Refusal :=
  .next (s.ccResult c.val (.li rd imm) h rd [] fun _ => imm.signExtend 64)

/-- CC.LIH: RD[63:32] = IMM32 (R144). -/
def execCcLih (c : CoreId) (h : Hdr) (rd : Reg) (imm : Word32) (s : State) : Host.Outcome State Fault Refusal :=
  .next (s.ccResult c.val (.lih rd imm) h rd [] fun k => imm ++ (k.sc rd).truncate 32)

/-- CC.BEQ: branch if RA = RB (R144). -/
def execCcBeq (c : CoreId) (h : Hdr) (ra rb : Reg) (off : BitVec 29) (s : State) : Host.Outcome State Fault Refusal :=
  .next (s.ccBranch c.val (.beq ra rb off) h [ra, rb] off fun k => decide (k.sc ra = k.sc rb))

/-- CC.BNE: branch if RA ≠ RB (R144). -/
def execCcBne (c : CoreId) (h : Hdr) (ra rb : Reg) (off : BitVec 29) (s : State) : Host.Outcome State Fault Refusal :=
  .next (s.ccBranch c.val (.bne ra rb off) h [ra, rb] off fun k => decide (k.sc ra ≠ k.sc rb))

/-- CC.BLT: branch if RA < RB signed (R144). -/
def execCcBlt (c : CoreId) (h : Hdr) (ra rb : Reg) (off : BitVec 29) (s : State) : Host.Outcome State Fault Refusal :=
  .next (s.ccBranch c.val (.blt ra rb off) h [ra, rb] off fun k => (k.sc ra).slt (k.sc rb))

/-- CC.BGE: branch if RA ≥ RB signed (R144). -/
def execCcBge (c : CoreId) (h : Hdr) (ra rb : Reg) (off : BitVec 29) (s : State) : Host.Outcome State Fault Refusal :=
  .next (s.ccBranch c.val (.bge ra rb off) h [ra, rb] off fun k => !(k.sc ra).slt (k.sc rb))

/-- CC.BLTU: branch if RA < RB unsigned (R144). -/
def execCcBltu (c : CoreId) (h : Hdr) (ra rb : Reg) (off : BitVec 29) (s : State) : Host.Outcome State Fault Refusal :=
  .next (s.ccBranch c.val (.bltu ra rb off) h [ra, rb] off fun k => (k.sc ra).ult (k.sc rb))

/-- CC.BGEU: branch if RA ≥ RB unsigned (R144). -/
def execCcBgeu (c : CoreId) (h : Hdr) (ra rb : Reg) (off : BitVec 29) (s : State) : Host.Outcome State Fault Refusal :=
  .next (s.ccBranch c.val (.bgeu ra rb off) h [ra, rb] off fun k => !(k.sc ra).ult (k.sc rb))

/-- CC.JMP (R144). -/
def execCcJmp (c : CoreId) (h : Hdr) (off : BitVec 29) (s : State) : Host.Outcome State Fault Refusal :=
  .next (s.ccBranch c.val (.jmp off) h [] off fun _ => true)

/-- CC.LD: eight bytes of core-local SRAM, four beats after issue (R144, R146, R148). DEDUCED (log entry 102): the bytes are those of the issue
beat, before that beat's writes. -/
def execCcLd (c : CoreId) (h : Hdr) (rd ra : Reg) (imm : BitVec 29) (s : State) : Host.Outcome State Fault Refusal :=
  .next (s.ccLate c.val (.ld rd ra imm) h rd [ra] 4 fun k => BitVec.ofNat 64 (leNat (k.engBytes (ccAddr (k.sc ra) imm) 8)))

/-- CC.ST: eight bytes of RD to core-local SRAM at the end of the issue beat (R146 to R148, R220). -/
def execCcSt (c : CoreId) (h : Hdr) (rd ra : Reg) (imm : BitVec 29) (s : State) : Host.Outcome State Fault Refusal :=
  .next (s.ccPlain c.val (.st rd ra imm) h [rd, ra] 1 fun k b =>
    (k.pumpTo (2 * b)).engWrite (ccAddr (k.sc ra) imm) (leBytes 8 (k.sc rd).toNat))

/-- CC.RDS: a special register (R141); an instruction with V = 1 sets VSEEN (R158, R169). -/
def execCcRds (c : CoreId) (h : Hdr) (rd : Reg) (sel : Byte) (s : State) : Host.Outcome State Fault Refusal :=
  if (CcOp.rds rd sel).legal then
    .next (s.issueCc c.val (.rds rd sel) h [rd] fun s b =>
      let v := s.special c.val sel.toNat b
      ({ s with free := s.free + 1 }).modCore c.val fun k =>
        (({ (k.setSc rd v) with vseen := k.vseen || decide (0x20 ≤ sel.toNat) }).past b 1).sigAt h 0 k.pc (b + 1))
  else .refused .reservedEncoding

/-- CC.RDSC: read and clear a special register (R142). -/
def execCcRdsc (c : CoreId) (h : Hdr) (rd : Reg) (sel : Byte) (s : State) : Host.Outcome State Fault Refusal :=
  if (CcOp.rdsc rd sel).legal then
    .next (s.issueCc c.val (.rdsc rd sel) h [rd] fun s b =>
      let v := s.special c.val sel.toNat b
      s.modCore c.val fun k => (((k.clearSpecial sel.toNat b).setSc rd v).past b 1).sigAt h 0 k.pc (b + 1))
  else .refused .reservedEncoding

/-- CC.HALT: issue stops (R150). -/
def execCcHalt (c : CoreId) (h : Hdr)  (s : State) : Host.Outcome State Fault Refusal :=
  .next (s.ccPlain c.val .halt h [] 1 fun k b => { k with haltAt := some b })

end Sys2Proof.Machine
end

