-- ==== Sys2Proof/Machine/Frames.lean ====
section
/-! DEFINITION. The frames of the ports: what the 22 control positions of a frame carry (R336 to R343, R361, R368), the words that each end
hears, and the fragments that the transfer service puts into the positions left over. A frame's words are given to the world when the
frame ends (log entry 108). -/
namespace Sys2Proof.Machine

/-- Steps that a frame of a port spans: F of R342. -/
def frameSteps (q : Nat) : Nat := if q < 2 then 1 else 4

/-- Send time of the word at control position k of a frame, in 1/65,536 step (R342). -/
def departs (q start k : Nat) : Nat := start * 65536 + 188 * k * frameSteps q * 65536 / 4119

/-- The body of this module's IDENT word on a port (R339, R354). -/
def State.identBody (s : State) (q : Nat) : List Byte :=
  let p := s.port q
  leBytes 8 s.keep.modser.toNat ++ leBytes 1 q
    ++ (match s.links.plan with
      | some pl => leBytes 1 (b2n pl.cmode + 2) ++ leBytes 1 pl.pos ++ leBytes 1 pl.idx ++ leBytes 4 pl.planid.toNat
      | none => leBytes 1 (b2n s.boot.straps.coord) ++ zeros 6)
    ++ leBytes 5 p.good.toNat ++ zeros 19

/-- The last word heard by a time: its arrival and its SEQ. -/
def Port.heardBy (p : Port) (t : Nat) : Option (Nat × Byte) := (p.heard.filter fun x => decide (x.1 ≤ t)).getLast?

/-- A word of a port has arrived at a time (R338, R343). -/
def Port.hear (p : Port) (t : Nat) (seq : Byte) : Port :=
  if p.heard.getLast?.map (·.2) = some seq then p else { p with heard := p.heard ++ [(t, seq)] }

/-- What the next control position carries (R336, R340, R341, R361, R368): IDENT at position 0; else the oldest waiting word that is not a
fragment; else, while fewer than 20 have gone, the oldest fragment; else TIME. -/
def Port.pick (p : Port) (k t msgs : Nat) : Option CtrlOut :=
  let due (o : CtrlOut) : Bool := decide (o.at_ * 65536 ≤ t)
  if k = 0 then none
  else match p.queue.find? fun o => decide (o.type ≠ 4) && due o with
    | some o => some o
    | none => if msgs < 20 then p.queue.find? due else none

/-- One control position of a frame is sent (R338): MS is the frame's, ESEQ and EDT name the last word heard before it departs. -/
def State.sendPosition (s : State) (q start : Nat) (seq0 : Byte) (k msgs : Nat) : State × Nat :=
  let p := s.port q
  let t := departs q start k
  let o := p.pick k t msgs
  let (type, tag, body) := match o with
    | some o => (o.type, o.tag, o.body)
    | none => if k = 0 then (1, 0, s.identBody q) else (0, 0, zeros 40)
  let (eseq, edt, s1) := match p.heardBy t with
    | some (a, e) => (e.toNat, (t - a) % 2 ^ 32, s)
    | none => let x := (Config.freeWord64 s.free).toNat; (x % 256, x / 256 % 2 ^ 32, { s with free := s.free + 1 })
  let s2 := match o with
    | some o => s1.modPort q fun p => { p with queue := p.queue.erase o }
    | none => s1
  (s2.emit (.word (Fin.ofNat 4 q) (ctrlWord type ((seq0.toNat + k) % 256) tag start eseq edt body)), if type = 4 then msgs + 1 else msgs)

/-- `n` control positions from k on. -/
def State.sendPositions : Nat → State → Nat → Nat → Byte → Nat → Nat → State
  | 0, s, _, _, _, _, _ => s
  | n + 1, s, q, start, seq0, k, msgs =>
    let (s1, m) := s.sendPosition q start seq0 k msgs
    State.sendPositions n s1 q start seq0 (k + 1) m

/-- What stays of a port's lists when a frame ends: the last word heard, and the words that wait, on a port in READY (R341). -/
def Port.endFrame (p : Port) : Port :=
  { p with queue := if p.st = .ready then p.queue else [], heard := p.heard.getLast?.toList }

/-- A frame of a port ends: its 22 words have gone. -/
def State.endFrame (s : State) (q start : Nat) (seq0 : Byte) : State :=
  (s.sendPositions 22 q start seq0 0 0).modPort q Port.endFrame

/-- A frame of a port begins (R336, R338): SEQ goes on over the 22 positions of the frame before it. -/
def Port.beginFrame (p : Port) (ms : Nat) : Port :=
  { p with frames := (ms, match p.frames with
      | (_, seq0) :: _ => seq0 + 22
      | [] => 0) :: p.frames.take 12 }

/-- The frames of a trained port at a step's end: the one in progress ends and the next begins (R336). -/
def State.portFrame (s : State) (ms q : Nat) : State :=
  let p := s.port q
  if p.trained && decide (ms % frameSteps q = 0) then
    (match p.frames with
      | (start, seq0) :: _ => s.endFrame q start seq0
      | [] => s).modPort q fun p => p.beginFrame ms
  else s

/-! ### The transfer service's fragments (R368) -/

/-- The shorter way along an axis of n places from a to b: the ascending port, the descending port, or none when there. -/
def axisPort (n a b up down : Nat) (wrap : Bool) : Option Nat :=
  let near := decide ((b + n - a) % n ≤ (a + n - b) % n)
  if a = b then none
  else if wrap then (if near then some up else some down)
  else if a < b then some up else some down

/-- The port by which a MSG word for a module leaves: the Causeway axis first, then the Crossway axis. -/
def msgPort (pl : CPlan) (pos idx : Nat) : Option Nat :=
  match axisPort pl.ringlen pl.pos pos 0 1 true with
  | some q => some q
  | none => axisPort pl.rings pl.idx idx 2 3 pl.xwrap

/-- The body of a MSG word (R339): FLAGS holds ACK in bit 0 and LAST in bit 1. -/
def msgBody (pos idx : Nat) (stream : Byte) (flags frag : Nat) (data : List Byte) : List Byte :=
  leBytes 1 pos ++ leBytes 1 idx ++ [stream] ++ leBytes 1 flags ++ leBytes 4 frag ++ (data ++ zeros 32).take 32

/-- A sender's next fragment, and the sender after it: past the last one it goes back to those not acknowledged. -/
def MsgSend.step (x : MsgSend) : MsgSend := { x with next := if x.next + 1 < x.count then x.next + 1 else x.acked }

/-- Put up to `n` fragments of the sender at place i of the list on a port. -/
def State.feedSend : Nat → State → Nat → Nat → State
  | 0, s, _, _ => s
  | n + 1, s, q, i =>
    match s.links.sends[i]? with
    | none => s
    | some x =>
      let a := x.base + 32 * x.next
      let flags := if x.next + 1 = x.count then 2 else 0
      let s1 := (s.useTurns .remote a 32).sendWord q 4 0 (msgBody x.pos x.idx x.stream flags x.next (rdBytes s.lpddr a 32))
      State.feedSend n { s1 with links := { s1.links with sends := s1.links.sends.set i x.step } } q i

/-- The senders whose way leaves by a READY port fill its fragments up to 20 in a frame (R368). -/
def State.feedPort (s : State) (q : Nat) : State :=
  match s.links.plan with
  | none => s
  | some pl =>
    if (s.port q).st = .ready then
      (List.range s.links.sends.length).foldl (fun s i => match s.links.sends[i]? with
        | some x =>
          if msgPort pl x.pos x.idx = some q then
            State.feedSend (Nat.min (x.count - x.acked) (20 - ((s.port q).queue.filter fun o => decide (o.type = 4)).length)) s q i
          else s
        | none => s) s
    else s

/-- Every port's frame at the end of a step: fragments take the positions left, then the frame that ends goes and the next begins. `ms` is the
Milestone of the step that begins. -/
def State.portFrames (s : State) (ms : Nat) : State :=
  (List.range 4).foldl (fun s q => if ms % frameSteps q = 0 then (s.feedPort q).portFrame ms q else s) s

end Sys2Proof.Machine
end

