-- ==== Sys2Proof/Machine/PassOps.lean ====
section
/-! DEFINITION. The operations of Waymarks and Passes (R246 to R275): arrival, completion of a generation, crossing, breaking. -/
namespace Sys2Proof.Machine

/-- The key of a Pass in the state: its partition's for a partition Pass. -/
def passKey (c : Nat) : PassId → Nat
  | .part => c / 128
  | .mod m => 16 + m.val

/-- The index of a Pass in a core's own views. -/
def passIdx : PassId → Nat
  | .part => 0
  | .mod m => 1 + m.val

/-- PID of an index of the core's views. -/
def idxPid (i : Nat) : Nat := if i = 0 then 0 else 3 + i

/-- The key of an index of the core's views. -/
def idxKey (c i : Nat) : Nat := if i = 0 then c / 128 else 15 + i

/-- The participants of a Pass (R256). -/
def State.participants (s : State) (p : Nat) : List Nat :=
  if p < 16 then (List.range 128).map (· + 128 * p) else s.coreList

/-- Whether a core participates in a Pass. -/
def isParticipant (p c : Nat) : Bool := decide (16 ≤ p) || decide (c / 128 = p)

/-- Every ring of the slice has reported (R367). -/
def State.ringAll (s : State) (p : Nat) : Bool :=
  match s.runImage with
  | some l => decide ((s.pass p).rings = BitVec.ofNat 64 (2 ^ l.rings - 1))
  | none => false

/-- Whether the current generation is complete (R259, R264). -/
def State.passReady (s : State) (p : Nat) : Bool :=
  let x := s.pass p
  decide (x.arr = (s.participants p).length) && decide (x.arr ≠ 0) && (!x.ring || s.ringAll p)

/-- A completed generation gives way to the next (R259): release notices go to every participant. -/
def State.nextGeneration (s : State) (p : Nat) : State :=
  let i := if p < 16 then 0 else p - 15
  let s1 := s.modPass p fun x =>
    { x with gen := !x.gen, arr := x.next, next := 0, cur := x.nxt, nxt := 0, l := x.lNext, ring := x.ringNext
             lNext := false, ringNext := false, reported := false, pos := 0, rings := 0 }
  { s1 with notices := s1.notices ++ (s.participants p).map fun c => ⟨Fin.ofNat 2048 c, i, (s.pass p).gen, s.coreGen c⟩ }

/-- PASS_GENERATION_COMPLETE (R259): also the next generation when it is complete in turn. -/
def State.completePass (s : State) (p : Nat) : State :=
  let s1 := if s.passReady p then s.nextGeneration p else s
  if s.passReady p && s1.passReady p then s1.nextGeneration p else s1

/-- Raise Broken Pass for a core that a broken Pass releases or halts, by its instruction at `pc` (R267, R271). -/
def State.raiseBroken (s : State) (c i : Nat) (pc : BitVec 15) : State :=
  let x := s.pass (idxKey c i)
  let k := s.core c
  s.raise { code := 0x0109, unit := s.coreUnit c, ctx := BitVec.ofNat 8 k.ctx, layer := BitVec.ofNat 16 k.layer, pc := BitVec.ofNat 16 pc.toNat
            a0 := BitVec.ofNat 32 (idxPid i + 8 * b2n x.gen), a1 := x.by_ }

/-- A core that a broken Pass halts (R197, R267): parked or not, what lies in its beat is done. -/
def Core.brokenOff (k : Core) : Core := ({ k with status := .running, brk := true }.stopIn k.beat).halt

/-- A core arrives at a broken Pass: it halts at the arrival. -/
def State.brokenCore (s : State) (c i : Nat) (pc : BitVec 15) : State := (s.modCore c Core.brokenOff).raiseBroken c i pc

/-- The Pass on which a core is parked, with the index of its instruction: a wait on a Pass or an arrival that its outbound slots hold (R153). -/
def Core.waitsOn (k : Core) : Option (Nat × BitVec 15) :=
  match k.status with
  | .parked (.pass i _ pc) | .parked (.arrive i _ _ _ _ pc) => some (i, pc)
  | _ => none

/-- Mark Passes as broken by a unit, those that are not broken yet (R267). -/
def State.markBroken (s : State) (ps : List Nat) (by_ : Word32) : State :=
  ps.foldl (fun s p => s.modPass p fun x => if x.brk then x else { x with brk := true, by_ := by_ }) s

/-- The cores parked on a broken Pass, in logical order, each with its view of the Pass and its instruction. -/
def State.onBroken (s : State) : List (Nat × Nat × BitVec 15) :=
  s.coreList.filterMap fun c => match (s.core c).waitsOn with
    | some (i, pc) => if (s.pass (idxKey c i)).brk then some (c, i, pc) else none
    | none => none

/-- Every core parked on a broken Pass is released with broken status and halts; then the events are raised, of which the first stops the job
(R267, R269, R465). -/
def State.releaseBroken (s : State) : State :=
  let out := s.onBroken
  out.foldl (fun s x => s.raiseBroken x.1 x.2.1 x.2.2) (out.foldl (fun s x => s.modCore x.1 Core.brokenOff) s)

/-- Passes break together (R267 to R269). -/
def State.breakPasses (s : State) (ps : List Nat) (by_ : Word32) : State := (s.markBroken ps by_).releaseBroken

/-- A participant that has ended its program without an arrival for a generation that holds one (R269). -/
def State.endedAbsent (s : State) (p : Nat) : Option Nat :=
  let x := s.pass p
  (s.participants p).find? fun c =>
    (s.core c).beats.isSome &&
      ((decide (x.arr ≠ 0) && !x.cur.getLsbD c) || (decide (x.next ≠ 0) && !x.nxt.getLsbD c))

/-- Break every Pass of a list that an ended program leaves incomplete (R269). -/
def State.checkEnded (s : State) (ps : List Nat) : State :=
  (ps.foldl (fun s p => match s.endedAbsent p with
    | some c => s.markBroken [p] (s.coreUnit c)
    | none => s) s).releaseBroken

/-- Whether both outbound channels have sent what they were handed, so that an arrival may take effect (R228). -/
def Core.mayArrive (k : Core) : Bool :=
  decide ((k.chan 4).f = (k.chan 4).t) && decide ((k.chan 5).f = (k.chan 5).t)

/-- A fault of an arrival by the instruction at `pc` (R260, R261): the arrival is not counted. -/
def State.passFault (s : State) (c i : Nat) (pc : BitVec 15) (code : BitVec 16) (gen l ring : Bool) : State :=
  let s1 := (s.modPass (idxKey c i) fun x => { x with ovr := true }).modCore c fun k => { k with povr := true }
  let lr := if code = 0x0108 then 16 * b2n l + 32 * b2n ring else 0
  s1.coreFault c (s.core c).beat code (BitVec.ofNat 16 pc.toNat) (BitVec.ofNat 32 (idxPid i + 8 * b2n gen + lr))
    0xFFFFFFFF 0xFFFFFFFF 0xFFFFFFFF

/-- The counted arrival: ARR or NEXT by the parity of the core's arrivals (R259). -/
def Pass.count (x : Pass) (c : Nat) (current l ring : Bool) : Pass :=
  let m : BitVec 2048 := BitVec.ofNat 2048 (2 ^ c)
  let x := { x with last := some (Fin.ofNat 2048 c) }
  if current then
    { x with arr := x.arr + 1, cur := x.cur ||| m
             l := if x.arr = 0 then l else x.l, ring := if x.arr = 0 then ring else x.ring }
  else
    { x with next := x.next + 1, nxt := x.nxt ||| m
             lNext := if x.next = 0 then l else x.lNext, ringNext := if x.next = 0 then ring else x.ringNext }

/-- The core's own view after an arrival (R258, R262). -/
def PassView.arrived (v : PassView) (l : Bool) : PassView := { o := v.o + 1, n := v.n + 1, unc := v.unc + 1, uncL := v.uncL || l }

/-- A Pass breaks at the arrival of a core (R269): the core halts with those that are parked, and the events are raised in logical order. -/
def State.brokenBy (s : State) (c i : Nat) (pc : BitVec 15) : State :=
  let out := s.onBroken
  let all := out.filter (fun x => decide (x.1 < c)) ++ (c, i, pc) :: out.filter (fun x => decide (c < x.1))
  all.foldl (fun s x => s.raiseBroken x.1 x.2.1 x.2.2) (all.foldl (fun s x => s.modCore x.1 Core.brokenOff) s)

/-- An arrival of a core at a Pass (R258 to R261, R267, R269). -/
def State.arrive (s : State) (c i : Nat) (l ring : Bool) (pc : BitVec 15) : State :=
  let p := idxKey c i
  let x := s.pass p
  let v := (s.core c).pview i
  let current := decide (v.n % 2 = b2n x.gen)
  let (cnt, xl, xr) := if current then (x.arr, x.l, x.ring) else (x.next, x.lNext, x.ringNext)
  if x.brk then s.brokenCore c i pc
  else if 2 ≤ v.o then s.passFault c i pc 0x0107 x.gen false false
  else if cnt ≠ 0 ∧ (xl ≠ l ∨ xr ≠ ring) then s.passFault c i pc 0x0108 (if current then x.gen else !x.gen) xl xr
  else
    let s1 := (s.modPass p fun x => x.count c current l ring).modCore c fun k => k.setPview i (v.arrived l)
    let s2 := s1.completePass p
    match s2.endedAbsent p with
    | some e => (s2.markBroken [p] (s2.coreUnit e)).brokenBy c i pc
    | none => s2

/-- LAYERS of the running image. -/
def State.layerCount (s : State) : Nat :=
  match s.runImage with
  | some im => im.layers.length
  | none => 0

/-- A layer advance at the end of a beat (R263): a dispatch in that beat still reads the old layer step. The step in which it is made is kept
for the DEADLINE (R167). -/
def State.advanceLayer (s : State) (c beat : Nat) : State :=
  let n := (s.core c).layer + 1
  let now := s.ring.ms + 1
  s.modCore c fun k =>
    { k with layer := Nat.min n s.layerCount
             lstepOld := k.lstep, lstepAt := beat + 1
             advMs := now, advFrom := if k.advMs = now then k.advFrom else k.layer
             lstep := match s.layerRec n with
               | some r => r.lstep
               | none => k.lstep }

/-- The channel actions of an earlier crossing that are still to be made are made. -/
def Core.flushCross (k : Core) : Core := if k.crossAt.isSome then k.doCross else k

/-- A crossing at the end of a beat (R262): the channel actions are made once the beat's other work is done; every designated Waymark is
re-levelled. -/
def Core.crossIn (k : Core) (i beat : Nat) : Core :=
  { ((k.flushCross.setPview i { k.pview i with unc := 0, uncL := false }).relevel beat) with crossAt := some beat }

/-- The end of a Pass instruction at a beat: its signal, and the crossing if there is one, with the layer advance when a generation crossed
carried L (R249, R258, R262, R265). A signal that tops its Waymark halts the core, and the crossing still takes effect (R250). -/
def State.endPass (s : State) (c i : Nat) (h : Hdr) (pc : BitVec 15) (beat : Nat) (cross : Bool) : State :=
  let adv := cross && ((s.core c).pview i).uncL
  let s1 := s.modCore c fun k => { (if cross then k.crossIn i beat else k) with beat := beat + 1 }
  let s2 := s1.signalHdr c h 0 pc beat
  if adv then s2.advanceLayer c beat else s2

/-- Park a core at a beat (R153). -/
def Core.park (k : Core) (why : ParkWhy) (beat : Nat) : Core := { k with status := .parked why, beat := beat }

/-- The wait of CC.PWAIT or of the second beat of CC.PENTER (R258): park, cross, or neither. A core that would park on a broken Pass is released
with broken status at once (R267). -/
def State.passWait (s : State) (c i : Nat) (h : Hdr) (pc : BitVec 15) (beat : Nat) : State :=
  let v := (s.core c).pview i
  if v.o ≠ 0 then
    if (s.pass (idxKey c i)).brk then (s.modCore c fun k => { k with beat := beat }).brokenCore c i pc
    else s.modCore c fun k => k.park (.pass i h pc) beat
  else s.endPass c i h pc beat (decide (v.unc ≠ 0))

/-- What follows the beat of an arrival: CC.PARRIVE ends, CC.PENTER goes on to its second beat. -/
def State.afterArrive (s : State) (c i : Nat) (enter : Bool) (h : Hdr) (pc : BitVec 15) (beat : Nat) : State :=
  if !(s.core c).runs then s
  else if enter then
    let s1 := s.sync c beat
    if (s1.core c).runs then s1.passWait c i h pc (beat + 1) else s1
  else s.endPass c i h pc beat false

/-- The first beat of CC.PARRIVE and CC.PENTER (R228, R258): arrive, or park until the outbound slots are sent. -/
def State.passEnter (s : State) (c i : Nat) (l ring enter : Bool) (h : Hdr) (beat : Nat) : State :=
  let pc := (s.core c).pc
  let s1 := s.modCore c fun k => { k with pc := k.pc + 1, beat := beat }
  if (s.core c).mayArrive then (s1.arrive c i l ring pc).afterArrive c i enter h pc beat
  else s1.modCore c fun k => k.park (.arrive i l ring enter h pc) beat

end Sys2Proof.Machine
end

