-- ==== Sys2Proof/Machine/ParcelOps.lean ====
section
/-! DEFINITION. Parcels (R279 to R283): header fields, the check of a header, sending on a port, landing (R293), and what happens
to a parcel or a control word of a tag that is not the running job's (R359, R361, R362, R379). -/
namespace Sys2Proof.Machine

/-! ### Header fields (R279) -/

def parTag (b : List Byte) : Nat := leAt b 4 2 % 4096
def parKind (b : List Byte) : Nat := leAt b 6 1 % 16
def parHops (b : List Byte) : Nat := leAt b 7 1 % 64
def parCtx (b : List Byte) : Nat := leAt b 8 1 % 64
def parHome (b : List Byte) : Nat := leAt b 0x0A 2 % 4096
def parEdition (b : List Byte) : Nat := leAt b 0x0C 4
def parLayer (b : List Byte) : Nat := leAt b 0x10 4 % 65536
def parSeq (b : List Byte) : Nat := leAt b 0x14 4
def parNgran (b : List Byte) : Nat := leAt b 0x1C 2 % 8192
def parNblk (b : List Byte) : Nat := leAt b 0x1E 2 % 512
def parStep (b : List Byte) : Nat := leAt b 0x20 8

/-- HCRC of a header (R280): CRC-32C over its 64 bytes with bytes 0 to 3 taken as zero. -/
def parCrc (b : List Byte) : Word32 := crc32c (zeros 4 ++ (b.take 64).drop 4)

/-- Whether a parcel's HCRC passes. -/
def parCrcOk (b : List Byte) : Bool := decide (leAt b 0 4 = (parCrc b).toNat)

/-- Write a fresh HCRC. -/
def parSeal (b : List Byte) : List Byte := putBytes b 0 (leBytes 4 (parCrc b).toNat)

/-- What a forwarding module rewrites (R281, R292): HOPS, STEP, HCRC. -/
def parForward (b : List Byte) (hops step : Nat) : List Byte :=
  parSeal (putBytes (putBytes b 7 (leBytes 1 hops)) 0x20 (leBytes 8 step))

/-- What a Detour rewrites (R361): STEP and HCRC. -/
def parRestep (b : List Byte) (step : Nat) : List Byte := parSeal (putBytes b 0x20 (leBytes 8 step))

/-- FLAGS.DIR of a port (R279): 1 for West and South. -/
def dirOf (q : Nat) : Nat := q % 2

/-- What the injector writes into a stored parcel (R281, R289): TAG, HOPS, FLAGS.DIR, STEP, HCRC. -/
def parInject (b : List Byte) (tag hops q step : Nat) : List Byte :=
  let flags := leAt b 9 1 / 2 * 2 + dirOf q
  parForward (putBytes (putBytes b 4 (leBytes 2 tag)) 9 (leBytes 1 flags)) hops step

/-- The header of a parcel built in a send slot (R290). -/
def sendHeader (tag ctx edition : Nat) (r : PlanRec) (step : Nat) : List Byte :=
  parSeal (zeros 4 ++ leBytes 2 tag ++ leBytes 1 r.kind ++ leBytes 1 (r.hops - 1) ++ leBytes 1 ctx ++ leBytes 1 (dirOf r.port.toNat)
    ++ leBytes 2 r.home.toNat ++ leBytes 4 edition ++ leBytes 4 r.layer ++ leBytes 4 r.seq.toNat ++ zeros 4
    ++ leBytes 2 r.ngran ++ zeros 2 ++ leBytes 8 step ++ zeros 24)

/-! ### Sending -/

/-- Send a parcel on a port (R341: only a READY port carries one): PTX counts it. -/
def State.putParcel (s : State) (q : Nat) (b : List Byte) : State :=
  if (s.port q).st = .ready then
    (s.modPort q fun p => { p with ptx := p.ptx + 1, lastTx := s.ring.ms + 1 }).emit (.parcel (Fin.ofNat 4 q) b)
  else s

/-- Send a parcel of the ring plan: SPN_TXCNT counts it too (R299). -/
def State.sendParcel (s : State) (q : Nat) (b : List Byte) : State :=
  let s1 := s.putParcel q b
  if (s.port q).st = .ready then { s1 with ring := { s1.ring with tx := s1.ring.tx + 1 } } else s1

/-! ### Landing (R293) -/

/-- Bytes of a Landing buffer (R233). -/
def landingSize : Nat := 524288 * 64

/-- Granules of a block that the Landing writer places in a slot of `slotg` granules. -/
def blockGranules (pay : List Byte) (slotg : Nat) : Nat :=
  let slen := leAt pay 8 2 % 2 ^ 13
  if slen = 0 ∨ 5376 < slen then slotg else Nat.min ((16 + slen + 63) / 64) slotg

/-- Place up to `n` blocks from a payload, block by block, from Landing granule `a` on. -/
def landBlocks : Nat → Memory → List Byte → Nat → Nat → Memory
  | 0, m, _, _, _ => m
  | n + 1, m, pay, a, slotg =>
    if pay.isEmpty then m
    else
      let k := blockGranules pay slotg
      landBlocks n (wrWrap m landingSize (a * 64) (pay.take (64 * k))) (pay.drop (64 * k)) (a + slotg) slotg

/-- The Landing buffer after a parcel's payload has been written. -/
def landPayload (m : Memory) (r : PlanRec) (nblk : Nat) (pay : List Byte) : Memory :=
  if r.slotg = 0 then wrWrap m landingSize (r.lbase * 64) pay else landBlocks nblk m pay r.lbase r.slotg

/-- Land a parcel in every partition that PMASK names (R293). -/
def State.land (s : State) (r : PlanRec) (b : List Byte) : State :=
  let pay := (b.drop 64).take (parNgran b * 64)
  (List.range 16).foldl (fun s p =>
    if r.pmask.getLsbD p && !s.partInReset p then s.modPart p fun x => { x with landing := landPayload x.landing r (parNblk b) pay } else s) s

/-! ### Records of the running plan -/

/-- The landing step of a record (R293). -/
def State.landStep (s : State) (r : PlanRec) : Nat :=
  s.recStep r + (if decide (r.act = 2) && decide (2 ≤ r.port.toNat) then 4 else 1)

/-- Note a ring event in SPN_RFAULT, SPN_RFREC and SPN_RFSTEP: the first of the run stays (R299). -/
def State.noteRing (s : State) (code q : Nat) (rec_ : Word32) : State :=
  if s.ring.rfault.getLsbD 31 then s
  else { s with ring := { s.ring with
    rfault := BitVec.ofNat 32 (2 ^ 31 + code * 2 ^ 28 + q * 2 ^ 26), rfrec := rec_, rfstep := s.schedStep } }

/-- Raise Schedule Overrun of an INJECT or SEND record (R289, R290, R298): source 2 or 3, CODE 4 or 5; none in a layer with a step timeout
(R168). -/
def State.sendOverrun (s : State) (i : Nat) (r : PlanRec) (src : Nat) : State :=
  if s.layerTimedOut r.layer then s
  else (s.noteRing (src + 2) r.port.toNat (BitVec.ofNat 32 i)).raise
    { code := 0x0201, unit := portUnit r.port.toNat, ctx := BitVec.ofNat 8 s.run.ctx.val
      layer := BitVec.ofNat 16 r.layer, a0 := BitVec.ofNat 32 i, a1 := BitVec.ofNat 32 src }

/-- Raise Parcel Mismatch (R289, R291, R298) with the fields of a header. -/
def State.mismatch (s : State) (rec_ : Option Nat) (q : Nat) (b : List Byte) : State :=
  let layer := match rec_ with
    | some i => match s.planRec i with
      | some r => BitVec.ofNat 16 r.layer
      | none => 0xFFFF
    | none => 0xFFFF
  (s.noteRing 3 q (match rec_ with
    | some i => BitVec.ofNat 32 i
    | none => 0xFFFFFFFF)).raise
    { code := 0x0203, unit := portUnit q, ctx := BitVec.ofNat 8 s.run.ctx.val, layer := layer
      a0 := BitVec.ofNat 32 (parHome b + parLayer b * 65536), a1 := BitVec.ofNat 32 (parSeq b)
      a2 := BitVec.ofNat 32 (parEdition b), a3 := BitVec.ofNat 32 (parCtx b) }

/-- Raise Step Timeout of a record (R292, R294, R298). -/
def State.stepTimeoutOf (s : State) (i : Nat) (r : PlanRec) (lost : Bool) : State :=
  let s1 := { s with ring := { s.ring with timedOut := i :: s.ring.timedOut } }
  (s1.noteRing (if lost then 2 else 1) r.port.toNat (BitVec.ofNat 32 i)).raise
    { code := 0x0202, unit := portUnit r.port.toNat, ctx := BitVec.ofNat 8 s.run.ctx.val
      layer := BitVec.ofNat 16 r.layer, a0 := BitVec.ofNat 32 i, a1 := BitVec.ofNat 32 (b2n lost)
      a2 := BitVec.ofNat 32 r.home.toNat, a3 := r.seq }

/-! ### Tags that are not the running job's -/

/-- Whether a tag is that of the module's running job. -/
def State.isRunTag (s : State) (tag : Nat) : Bool := s.runBound && decide (tag = s.runTag) && decide (tag ≠ 0)

/-- Fields of a routing entry (R357). -/
def Route.valid (e : Route) : Bool := e.w0.getLsbD 63
def Route.transit (e : Route) : Bool := e.w0.getLsbD 63 && e.w0.getLsbD 62
def Route.member (e : Route) : Bool := e.w0.getLsbD 63 && !e.w0.getLsbD 62
def Route.inp (e : Route) : Nat := bitsOf e.w0.toNat 57 56
def Route.outp (e : Route) : Nat := bitsOf e.w0.toNat 55 54
def Route.spine (e : Route) : Nat := bitsOf e.w0.toNat 47 32
def Route.sphase (e : Route) (q : Nat) : Nat := bitsOf e.w1.toNat (16 * q + 15) (16 * q)
def Route.len (e : Route) : Nat := bitsOf e.w2.toNat 63 58 + 1
def Route.nr (e : Route) : Nat := bitsOf e.w2.toNat 57 52 + 1
def Route.pos (e : Route) : Nat := bitsOf e.w2.toNat 51 46
def Route.idx (e : Route) : Nat := bitsOf e.w2.toNat 45 40
def Route.cores (e : Route) : Nat := bitsOf e.w2.toNat 35 24

/-- Drop a stray parcel or control word (R359): TAGDROP, and Stray Parcel once per tag per 65,536 steps. -/
def State.stray (s : State) (q tag : Nat) : State :=
  let s1 := s.modPort q fun p => { p with tagdrop := p.tagdrop + 1 }
  let last := sget 0 s.links.strays tag
  if last ≠ 0 ∧ s.ring.ms + 1 < last + 65536 then s1
  else
    ({ s1 with links := { s1.links with strays := sset 0 s1.links.strays tag (s.ring.ms + 1) } }).logEvent
      { code := 0x0309, unit := portUnit q, a0 := BitVec.ofNat 32 tag }

/-- Whether a valid transit entry takes what arrives on a port with a tag (R359). -/
def State.takesTransit (s : State) (q tag : Nat) : Bool :=
  let e := s.route tag
  decide (tag ≠ 0) && e.transit && decide (e.inp = q)

/-- The Detour buffer of a tag. -/
def State.detour (s : State) (tag : Nat) : Detour := sget {} s.links.detours tag

/-- Change the Detour buffer of a tag. -/
def State.modDetour (s : State) (tag : Nat) (f : Detour → Detour) : State :=
  { s with links := { s.links with detours := sset {} s.links.detours tag (f (s.detour tag)) } }

/-- The Milestone of the last step of an incoming frame (R361): the value nearest the present Milestone that has the phase of
that step, since B is a multiple of 16. -/
def State.frameEnd (s : State) (e : Nat) : Nat :=
  let d := (e + 16 - s.ring.ms % 16) % 16
  if d < 8 then s.ring.ms + d else s.ring.ms + d - 16

/-- The last step of the incoming frame by a header's STEP (R361). -/
def lastStep (q : Nat) (b : List Byte) : Nat := parStep b + (if 2 ≤ q then 3 else 0)

/-- A Detour parcel arrives (R361, R362, R379): buffered, or dropped and counted as Detour Overflow. -/
def State.detourIn (s : State) (q tag : Nat) (b : List Byte) : State :=
  let d := s.detour tag
  if d.held = true ∧ d.queue.length < 4 then
    s.modDetour tag fun d => { d with queue := d.queue ++ [(s.frameEnd (lastStep q b), b)] }
  else
    (s.modPort q fun p => { p with dtdrop := p.dtdrop + 1 }).raise
      { code := 0x0308, unit := portUnit q, a0 := BitVec.ofNat 32 tag }

/-- A parcel of a tag that is not the running job's (R359). -/
def State.foreignParcel (s : State) (q : Nat) (b : List Byte) : State :=
  if s.takesTransit q (parTag b) then s.detourIn q (parTag b) b else s.stray q (parTag b)

/-- The link event of a parcel whose HCRC fails (R280): R464 lists no code for it, so its CODE is a free value; its class is taken as INFO, with
no action (log entry 39). -/
def State.logLink (s : State) (q : Nat) : State :=
  (s.setClassBit clsInfo).offer { s.mkRecord { code := Config.linkCode, unit := portUnit q } with cls := clsInfo, sec := false }

/-- What every arriving parcel meets first (R280, R337, R341): nothing on a port that is not READY, no parcel in a header of zeros,
a drop when HCRC fails; else PRX counts it and it goes on. -/
def State.parcelIn (s : State) (q : Nat) (b : List Byte) (f : State → State) : State :=
  if (s.port q).st ≠ .ready ∨ allZero (b.take 64) = true then s
  else if parCrcOk b then f (s.modPort q fun p => { p with prx := p.prx + 1 })
  else ({ s with ring := { s.ring with hdrdrop := sat32 s.ring.hdrdrop 1 } }).logLink q

end Sys2Proof.Machine
end

