-- ==== Sys2Proof/Machine/Ring.lean ====
section
/-! DEFINITION. The Milestone, the Landing writer and the ring plan (R235, R237, R254, R276 to R299), and ring Pass reports
(R264, R367). -/
namespace Sys2Proof.Machine

/-! ### Gates and the Landing writer -/

/-- Whether a descriptor's gate is missed (R237): the schedule step has reached G + SLACK and LND_STEP is below G. -/
def State.gateLate (s : State) (p : Nat) (d : Desc) : Bool :=
  match d.gate with
  | some (g, slack) => decide (d.layerStep + g + slack ≤ s.schedStep) && decide ((s.part p).step < d.layerStep + g)
  | none => false

/-- The ST.ARM of a channel's descriptor whose gate is missed while it still has transfers to fill (R237). -/
def State.chanLate (s : State) (p : Nat) (x : Chan) : Option (BitVec 15) :=
  match x.active, x.shadow with
  | some a, sh =>
    if s.gateLate p a && decide (x.f < a.first + a.slots) then some a.armPc
    else match sh with
      | some b => if s.gateLate p b then some b.armPc else none
      | none => none
  | none, _ => none

/-- The first channel of a core with a missed gate. -/
def State.coreLate (s : State) (c : Nat) : Option (Nat × BitVec 15) :=
  (List.range 4).findSome? fun n => (s.chanLate (c / 128) ((s.core c).chan n)).map fun pc => (n, pc)

/-- The cores of a partition with a missed gate not noted yet in the run, in logical order; those of a layer with a step timeout raise
nothing (R168). -/
def State.lateCores (s : State) (p : Nat) : List (Nat × Nat × BitVec 15) :=
  (List.range 128).filterMap fun i =>
    let c := 128 * p + i
    if (s.part p).missed.contains c || s.layerTimedOut (s.core c).layer then none else (s.coreLate c).map fun x => (c, x)

/-- GATE_MISS (R237, R243, R245): LND_OVR counts one for the partition, every late core notes reason 0xD, and the partition raises Schedule
Overrun for the first. How many LND_OVR adds when several cores of a partition are late in one step is the model's choice (log entry 106). A
core whose STM_FAULT is VALID keeps that record (R243). -/
def execGateMiss (p : Fin 16) (s : State) : Host.Outcome State Fault Refusal :=
  if s.runInStep then
    match s.lateCores p.val with
    | [] => .next s
    | (c, n, pc) :: r =>
      let s1 := ((c, n, pc) :: r).foldl (fun s x => s.modCore x.1 fun k => k.noteStream x.2.1 0xD x.2.2) s
      let s2 := s1.modPart p.val fun x => { x with ovr := sat32 x.ovr 1, missed := ((c, n, pc) :: r).map (·.1) ++ x.missed }
      .next (s2.raise
        { code := 0x0201, unit := BitVec.ofNat 32 (0x20000000 + physPart s.boot.enabled p.val), ctx := BitVec.ofNat 8 s.run.ctx.val
          layer := BitVec.ofNat 16 (s.core c).layer, a1 := 1 })
  else .next s

/-- Whether a landing of step `v` or earlier in a partition is still missing (R235). -/
def State.landingMissing (s : State) (p v : Nat) : Bool :=
  match s.runImage with
  | none => false
  | some im => (List.range im.recs.length).any fun i => match im.recs[i]? with
    | none => false
    | some r => r.pmask.getLsbD p && decide (s.landStep r ≤ v)
        && !(if r.act < 2 then s.ring.sentRecs.contains i else s.ring.matched.contains i)

/-- LND_STEP_ADVANCE (R235, R254): LND_STEP takes the next step once every landing up to it has been written and fenced. -/
def execLndStepAdvance (p : Fin 16) (s : State) : Host.Outcome State Fault Refusal :=
  let v := (s.part p.val).step + 1
  if s.runHolds && decide (p.val < s.nparts) && decide (v ≤ s.schedStep) && !s.landingMissing p.val v then
    .next (s.modPart p.val fun x => { x with step := v })
  else .next s

/-! ### Ring Pass reports -/

/-- The body of a PASS word (R339). -/
def State.passBody (s : State) (m : Nat) : List Byte :=
  let x := s.pass (16 + m)
  leBytes 1 (m + 4 * b2n x.gen) ++ leBytes 1 s.myIdx ++ zeros 6 ++ leBytes 8 x.pos.toNat ++ leBytes 8 x.rings.toNat

/-- Send a PASS word of module Pass m on every port of the slice (R367). -/
def State.sendPass (s : State) (m : Nat) : State := s.sendSlice 2 s.runTag (s.passBody m)

/-- When POSMASK holds every position of the ring, the member's ring bit is set in RINGMASK (R367). -/
def State.fullRing (s : State) (m : Nat) : State :=
  match s.runImage with
  | some im => s.modPass (16 + m) fun x =>
      if x.pos = BitVec.ofNat 64 (2 ^ im.ringlen - 1) then { x with rings := x.rings ||| BitVec.ofNat 64 (2 ^ im.idx) } else x
  | none => s

/-- Whether a SEND record of the current layer still holds granules that the cores handed over (R264). -/
def State.sendOwed (s : State) : Bool :=
  match s.runImage with
  | none => false
  | some im => (List.range im.recs.length).any fun i => match im.recs[i]? with
    | none => false
    | some r => decide (r.act = 1) && decide (r.layer = (s.core 0).layer) && !s.ring.sentRecs.contains i
        && decide (((s.sendSlot r.port.toNat (r.src % 16)).settle s.ring.ms).valid ≠ 0)

/-- RING_PASS_REPORT (R264, R367): the module's participants are complete and its sends have left; it reports its arrival. -/
def execRingPassReport (m : Fin 4) (s : State) : Host.Outcome State Fault Refusal :=
  let p := 16 + m.val
  let x := s.pass p
  if s.runHolds && x.ring && !x.reported && decide (x.arr = (s.participants p).length) && !s.sendOwed then
    let s1 := s.modPass p fun x => { x with reported := true, pos := x.pos ||| BitVec.ofNat 64 (2 ^ s.myPos) }
    .next (((s1.fullRing m.val).sendPass m.val).completePass p)
  else .next s

/-! ### The Milestone -/

/-- Repeat the words that a member repeats once per step: STOP for 64 steps (R369), a DECLINE that has ended the agreement, the RUN words of the agreement (R365), and PASS for each
generation in progress (R367). -/
def State.repeatWords (s : State) : State :=
  let s1 := if s.run.stopLeft = 0 then s
    else
      let s1 := { s with run := { s.run with stopLeft := s.run.stopLeft - 1 } }
      (List.range 4).foldl (fun s q =>
        if s.run.stopPorts.getLsbD q && decide ((s.port q).st = .ready) then s.sendWord q 3 s.run.stopTag s.run.stopWord else s) s1
  let s2 := if s1.run.declLeft = 0 then s1
    else ({ s1 with run := { s1.run with declLeft := s1.run.declLeft - 1 } }).sendSlice 5 s1.run.declTag s1.run.declWord
  let s2 := s2.run.words.foldl (fun s w => s.sendSlice 5 s.runTag w) s2
  if s2.runHolds then
    (List.range 4).foldl (fun s m => if (s.pass (16 + m)).pos ≠ 0 ∨ (s.pass (16 + m)).rings ≠ 0 then s.sendPass m else s) s2
  else s2

/-- When the queue has room again, one Lost Errors record is queued (R470). -/
def State.queueLost (s : State) : State :=
  if s.err.lostOwed && decide (s.err.queue.length < 32) then
    ({ s with err := { s.err with lostOwed := false } }).logEvent
      { code := 0x0802, a0 := BitVec.ofNat 32 s.err.lostCount.toNat, a1 := BitVec.ofNat 32 s.err.lostCode.toNat }
  else s

/-- The codewords that each trained port has corrected or could not correct in a step (R334, R373): free values; FECUNC stops at all ones. -/
def Port.fec (p : Port) (x : Word64) : Port :=
  if p.trained then { p with feccor := p.feccor + x.truncate 32, fecunc := sat32 p.fecunc (x >>> 32).toNat } else p

/-- Count the codewords of a step on every port. -/
def State.countFec (s : State) : State :=
  (List.range 4).foldl (fun s q =>
    if (s.port q).trained then ({ s with free := s.free + 1 }).modPort q fun p => p.fec (Config.freeWord64 s.free) else s) s

/-- A step ends and the Milestone advances by one (R276, R336): the frames that end go out. -/
def State.nextStep (s : State) : State :=
  let s1 := s.countFec.portFrames (s.ring.ms + 1)
  { s1 with ring := { s1.ring with ms := s.ring.ms + 1 } }

/-- MILESTONE_ADVANCE (R276, R336): a step ends, the Milestone advances by one, and the words repeated once per step are put for the ports to
carry. The Milestone stands at 0 while the module is held in reset (R510). -/
def execMilestoneAdvance (s : State) : Host.Outcome State Fault Refusal :=
  if s.alive then .next (s.nextStep.repeatWords.queueLost) else .next s

/-! ### The ring plan -/

/-- Whether a stored parcel is the one that an INJECT record names (R289). -/
def State.storedOk (s : State) (r : PlanRec) (b : List Byte) : Bool :=
  decide (parKind b = 0) && decide (parCtx b = s.run.ctx.val) && decide (parEdition b = s.run.edition.toNat)
    && decide (parLayer b = r.layer) && decide (parHome b = r.home.toNat) && decide (parSeq b = r.seq.toNat)

/-- The region 0x2 offset of SRC within the bound edition's area (R322). -/
def State.storedAt (s : State) (r : PlanRec) : Nat := (s.ctx s.run.ctx.val).areas.getD s.run.slot 0 + r.src

/-- The stored parcel at SRC. -/
def State.storedParcel (s : State) (r : PlanRec) : List Byte :=
  let a := s.storedAt r
  let h := rdBytes s.lpddr a 64
  rdBytes s.lpddr a (64 + 64 * parNgran h)

/-- Note that a record's send is done. -/
def State.noteSent (s : State) (i : Nat) : State := { s with ring := { s.ring with sentRecs := i :: s.ring.sentRecs } }

/-- A record of the given action that is due now: its step is the schedule step and it has not been done. What it finds wrong it raises also in
the step of a stop (R465); it sends nothing then (R369). -/
def State.dueNow (s : State) (i act : Nat) : Option PlanRec :=
  match s.planRec i with
  | some r =>
    if s.runInStep && decide (r.act = act) && decide (s.recStep r = s.schedStep) && !s.ring.sentRecs.contains i then some r else none
  | none => none

/-- INJECT (R289, R322): at its step, a stored parcel is read through the remote class of LPDDR (R240), checked, sent on PORT and landed where PMASK says; one that is not ready
raises Schedule Overrun and one that fails a check raises Parcel Mismatch. -/
def execInject (r : Nat) (ready : Bool) (s : State) : Host.Outcome State Fault Refusal :=
  match s.dueNow r 0 with
  | none => .next s
  | some x =>
    let b := s.storedParcel x
    let s1 := s.useTurns .remote (s.storedAt x) b.length
    if !ready then .next (s.sendOverrun r x 2)
    else if !s.storedOk x b then .next (s1.mismatch (some r) x.port.toNat b)
    else if !s.runHolds then .next s1
    else
      let w := parInject b s.runTag (x.hops - 1) x.port.toNat s.schedStep
      .next (((s1.noteSent r).sendParcel x.port.toNat w).land x w)

/-- SEND (R290): at its step, a send slot whose granules are all valid is sent and landed where PMASK says; its valid bits are
cleared (R283); an incomplete slot raises Schedule Overrun. -/
def execSend (r : Nat) (s : State) : Host.Outcome State Fault Refusal :=
  match s.dueNow r 1 with
  | none => .next s
  | some x =>
    let q := x.port.toNat
    let y := (s.sendSlot q (x.src % 16)).settle s.ring.ms
    if (List.range x.ngran).all fun g => y.valid.getLsbD g then
      if !s.runHolds then .next s
      else
      let w := sendHeader s.runTag s.run.ctx.val s.run.edition.toNat x s.schedStep ++ rdBytes y.bytes 0 (64 * x.ngran)
      let s1 := s.modSendSlot q (x.src % 16) fun y => (y.settle s.ring.ms).sent
      .next (((s1.noteSent r).sendParcel q w).land x w)
    else .next (s.sendOverrun r x 3)

/-- The RECV or RECVF record of a port and a step. -/
def State.recvRec (s : State) (q step : Nat) : Option Nat :=
  match s.runImage with
  | none => none
  | some im => (List.range im.recs.length).find? fun i => match im.recs[i]? with
    | some r => decide (2 ≤ r.act) && decide (r.port.toNat = q) && decide (s.recStep r = step)
    | none => false

/-- Whether a parcel differs from its record (R291). -/
def State.differs (s : State) (r : PlanRec) (b : List Byte) : Bool :=
  decide (parHome b ≠ r.home.toNat) || decide (parSeq b ≠ r.seq.toNat) || decide (parLayer b ≠ r.layer)
    || decide (parCtx b ≠ s.run.ctx.val) || decide (parEdition b ≠ s.run.edition.toNat)
    || (decide (r.act = 2) && decide (parHops b ≠ 0)) || (decide (r.act = 3) && decide (parHops b = 0))
    || (decide (r.slotg ≠ 0) && decide (parKind b ≠ 0))

/-- A parcel whose record has met Step Timeout (R294): it is still landed, and a RECVF one leaves at once by the opposite Causeway port with
the fields of R292; nothing else changes (log entry 109). -/
def State.landLate (s : State) (i : Nat) (r : PlanRec) (b : List Byte) : State :=
  let s1 := ({ s with ring := { s.ring with matched := i :: s.ring.matched } }).land r b
  if r.act = 3 then s1.putParcel (if r.port = 0 then 1 else 0) (parForward b (parHops b - 1) (parStep b + 1)) else s1

/-- Step Timeout is raised at once for a record on which it falls due before its parcel is looked at (R292, R294). -/
def State.timeoutFirst (s : State) (i : Nat) (r : PlanRec) : State :=
  if s.forwardDue i r then s.stepTimeoutOf i r true else if s.timeoutDue i r then s.stepTimeoutOf i r false else s

/-- A parcel of the tag that arrives after the stop (R294, R369): dropped, unless its record has met Step Timeout and it matches it. -/
def State.lateParcel (s : State) (q : Nat) (b : List Byte) : State :=
  match s.recvRec q (parStep b) with
  | none => s
  | some i => match s.planRec i with
    | none => s
    | some r =>
      let s1 := if s.stoppedNow then s.timeoutFirst i r else s
      if s1.ring.timedOut.contains i && !s1.ring.matched.contains i && !s1.differs r b then s1.landLate i r b else s1

/-- A parcel of the running tag (R291 to R294): matched, landed, and kept for its forward; or Parcel Mismatch. One that arrives when Step
Timeout has been raised for its record, or falls due, is landed late. -/
def State.matchParcel (s : State) (q : Nat) (b : List Byte) : State :=
  match s.recvRec q (parStep b) with
  | none => s.mismatch none q b
  | some i => match s.planRec i with
    | none => s.mismatch none q b
    | some r =>
      if s.ring.matched.contains i || s.differs r b then s.mismatch (some i) q b
      else if s.ring.timedOut.contains i || s.forwardDue i r || s.timeoutDue i r then (s.timeoutFirst i r).landLate i r b
      else
        let s1 := { s with ring := { s.ring with
          matched := i :: s.ring.matched, rx := s.ring.rx + 1
          forwards := if r.act = 3 then s.ring.forwards ++ [Forward.mk i b] else s.ring.forwards } }
        s1.land r b

/-- PARCEL_ARRIVAL (R280, R291, R293, R337, R359, R369): a parcel arrives on a port. After a stop, parcels of the tag are
dropped without counting, but for those of R294; before the program starts, one of the running tag waits for RUN_START. -/
def execParcelArrival (q : PortId) (bytes : List Byte) (s : State) : Host.Outcome State Fault Refusal :=
  let tag := parTag bytes
  if parCrcOk bytes && s.isRunTag tag && !s.runHolds then .next s
  else if parCrcOk bytes && s.run.stopped && decide (s.run.phase = .idle) && decide (tag = s.runTag) && decide (tag ≠ 0) then
    .next (if (s.port q.val).st = .ready then s.lateParcel q.val bytes else s)
  else .next (s.parcelIn q.val bytes fun s => if s.isRunTag tag then s.matchParcel q.val bytes else s.foreignParcel q.val bytes)

/-- RECVF_FORWARD (R292): a matched RECVF parcel of step s leaves by the opposite Causeway port during step s + 1. -/
def execRecvfForward (r : Nat) (s : State) : Host.Outcome State Fault Refusal :=
  match s.ring.forwards.find? (fun f => decide (f.rix = r)), s.planRec r with
  | some f, some x =>
    if s.runHolds && decide (s.schedStep = s.recStep x + 1) then
      let s1 := { s with ring := { s.ring with forwards := s.ring.forwards.erase f } }
      .next (s1.sendParcel (if x.port = 0 then 1 else 0) (parForward f.bytes (parHops f.bytes - 1) s.schedStep))
    else .next s
  | _, _ => .next s

/-- FORWARD_SLOT_LOST (R292): step s + 1 has ended and no parcel of the RECVF record has arrived; Step Timeout at once. -/
def execForwardSlotLost (r : Nat) (s : State) : Host.Outcome State Fault Refusal :=
  match s.planRec r with
  | some x =>
    if s.runInStep && s.forwardDue r x then .next (s.stepTimeoutOf r x true) else .next s
  | none => .next s

/-- STEP_TIMEOUT (R294): the schedule step has reached s + TIMEOUT and the record is unmatched. -/
def execStepTimeout (r : Nat) (s : State) : Host.Outcome State Fault Refusal :=
  match s.planRec r with
  | some x =>
    if s.runInStep && s.timeoutDue r x then .next (s.stepTimeoutOf r x false) else .next s
  | none => .next s

end Sys2Proof.Machine
end

