-- ==== Sys2Proof/Machine/Links.lean ====
section
/-! DEFINITION. The ports, their alignment and discovery, Detours and the control words that are not of the run-start agreement
(R331 to R363, R367, R369). A wall-time limit of the spec (5 s, 2 s, 1 s, 20 s) is the command that says it has passed. -/
namespace Sys2Proof.Machine

/-! ### Control words (R338 to R340) -/

def wordType (w : List Byte) : Nat := leAt w 4 1 % 16
def wordTag (w : List Byte) : Nat := leAt w 6 2 % 4096
def wordBody (w : List Byte) : List Byte := (w.drop 24).take 40

/-- Whether a control word's CCRC passes and its TYPE is assigned (R340). -/
def wordOk (w : List Byte) : Bool := decide (leAt w 0 4 = (crc32c ((w.take 64).drop 4)).toNat) && decide (wordType w ≤ 5)

/-- A control word arrives on a port (R340, R341): a bad one is dropped and counted in CWDROP; a port that is not trained carries
none and one that is not READY only TIME and IDENT; a word of another TYPE than the command's is turned away. `frac` is the step
fraction of its arrival, a free value where the command gives none. -/
def State.wordIn (s : State) (q : Nat) (w : List Byte) (type frac : Option Nat) (f : State → State) : State :=
  let p := s.port q
  if !p.trained then s
  else if !wordOk w then s.modPort q fun p => { p with cwdrop := p.cwdrop + 1 }
  else if type ≠ none ∧ type ≠ some (wordType w) then s
  else if 2 ≤ wordType w ∧ p.st ≠ .ready then s
  else match frac with
    | some x => f (s.modPort q fun p => p.hear (s.ring.ms * 65536 + x) (byteAt w 5))
    | none => f (({ s with free := s.free + 1 }).modPort q fun p =>
        p.hear (s.ring.ms * 65536 + (Config.freeWord64 s.free).toNat % 65536) (byteAt w 5))

/-- A control word of a tag that is not the running job's (R359, R361): relayed by a transit entry, or dropped as a stray. -/
def State.foreignWord (s : State) (q : Nat) (w : List Byte) : State :=
  let tag := wordTag w
  if s.takesTransit q tag then
    (let o := (s.route tag).outp
     if (s.port o).st = .ready then s.sendWord o (wordType w) tag (wordBody w) else s)
  else s.stray q tag

/-! ### Detour -/

/-- DETOUR_ARRIVAL (R359, R361, R362): a parcel of another tag arrives; a transit entry buffers it. -/
def execDetourArrival (q : PortId) (bytes : List Byte) (s : State) : Host.Outcome State Fault Refusal :=
  if parCrcOk bytes && s.isRunTag (parTag bytes) then .next s
  else .next (s.parcelIn q.val bytes fun s => s.foreignParcel q.val bytes)

/-- Lanes that a transit entry grants. -/
def Route.laneCount (e : Route) : Nat := ((List.range 16).filter fun i => bitOf e.spine i).length

/-- X of R361: the Spine crossing time in steps by the number of lanes granted. -/
def crossTime (l : Nat) : Nat :=
  match l with
  | 1 => 7 | 2 => 4 | 3 => 3 | _ => 2

/-- DETOUR_SEND (R361): the oldest buffered parcel leaves on OUTP in a frame whose phase the entry owns. -/
def execDetourSend (tag : BitVec 12) (s : State) : Host.Outcome State Fault Refusal :=
  let t := tag.toNat
  let e := s.route t
  match (s.detour t).queue with
  | [] => .next s
  | (em, b) :: _ =>
    let o := e.outp
    let ms := s.ring.ms
    if e.transit && decide ((s.port o).st = .ready) && decide ((s.port o).lastTx ≠ ms + 1)
        && decide (em + 1 + crossTime e.laneCount ≤ ms) && bitOf (e.sphase o) (ms % 16)
        && (decide (o < 2) || decide (ms % 4 = 0)) then
      let arr := lastStep e.inp b
      .next ((s.modDetour t fun d => { d with queue := d.queue.drop 1 }).putParcel o (parRestep b (arr + (ms - em))))
    else .next s

/-! ### Milestone alignment -/

/-- Send time of the latest own word with a given SEQ that departed by time a (R342, R343), if there is one. -/
def Port.sentBy (p : Port) (q a : Nat) (seq : Byte) : Option Nat :=
  p.frames.findSome? fun (start, seq0) =>
    let k := (seq - seq0).toNat
    if k < 22 ∧ departs q start k ≤ a then some (departs q start k) else none

/-- Mean of integers, rounded down; 0 of none. -/
def meanInt (l : List Int) : Int := if l.isEmpty then 0 else l.sum / (l.length : Int)

/-- Take a time sample (R343): OFFSET and DELAY are the means over the words of the last 1,024 steps. -/
def Port.sample (p : Port) (ms : Nat) (theta : Int) (d : Nat) : Port :=
  let l := (p.samples.filter fun x => decide (ms < x.1 + 1024)) ++ [(ms, theta, d)]
  { p with samples := l, theta := meanInt (l.map fun x => x.2.1), delay := (meanInt (l.map fun x => (x.2.2 : Int))).toNat }

/-- What follows a time sample (R345 to R348): a port of the running job whose offset exceeds one step raises Milestone Skew, any
other one that is not held is checked. -/
def State.afterSample (s : State) (q : Nat) : State :=
  let p := s.port q
  if s.inUse q && overStep p.theta then
    (s.modPort q fun p => { p with st := .skewed }).raise
      { code := 0x0204, unit := portUnit q, ctx := BitVec.ofNat 8 s.run.ctx.val, a0 := BitVec.ofInt 32 (p.theta / 16) }
  else if p.st = .held then s
  else s.checkPort q

/-- TIME_WORD_RECEIVED (R340, R342 to R348): the time sample of a control word that arrives at control position `pos`, at a step
fraction of the local Milestone. A word whose ESEQ names no word that this port has sent gives no sample. -/
def execTimeWordReceived (q : PortId) (pos : Fin 22) (frac : BitVec 16) (w : List Byte) (s : State) :
    Host.Outcome State Fault Refusal :=
  .next (s.wordIn q.val w none (some frac.toNat) fun s =>
    let a := s.ring.ms * 65536 + frac.toNat
    let t := departs q.val (leAt w 8 8) pos.val
    match (s.port q.val).sentBy q.val a (byteAt w 0x10) with
    | none => s
    | some t0 =>
      let rho := a - t0 - leAt w 0x14 4
      let d := rho / 2
      (s.modPort q.val fun p => p.sample s.ring.ms ((a : Int) - (t : Int) - (d : Int)) d).afterSample q.val)

/-- Ports in ALIGN and READY (R346). -/
def State.steerPorts (s : State) : List Nat :=
  (List.range 4).filter fun q => decide ((s.port q).st = .align) || decide ((s.port q).st = .ready)

/-- MILESTONE_STEER (R346): the steering, in 1/64 ppm, that removes one quarter of the mean offset of the ports in ALIGN and READY
over the next 1,024 steps, within ±100 ppm, once 1,024 steps have passed since the last steering. A module ahead of its neighbours slows
down. -/
def execMilestoneSteer (s : State) : Host.Outcome State Fault Refusal :=
  if s.ring.ms < s.links.steerAt + 1024 then .next s
  else
    let l := s.steerPorts
    let m := meanInt (l.map fun q => (s.port q).theta)
    let x := -(m * 64000000) / 268435456
    .next { s with links := { s.links with steer := max (-6400) (min 6400 x), steerAt := s.ring.ms } }

/-! ### Port states and discovery -/

/-- What an IDENT word says (R339). -/
def parseIdent (w : List Byte) : Ident :=
  let b := wordBody w
  { modser := BitVec.ofNat 64 (leAt b 0 8), port := BitVec.ofNat 2 (leAt b 8 1), cmode := bitOf (leAt b 9 1) 0
    plan := bitOf (leAt b 9 1) 1, pos := BitVec.ofNat 6 (leAt b 10 1), idx := BitVec.ofNat 6 (leAt b 11 1)
    planid := BitVec.ofNat 32 (leAt b 12 4), good := BitVec.ofNat 34 (leAt b 16 5) }

/-- IDENT_RECEIVED (R345, R352): the peer is compared with the plan; a port is checked again when its peer's IDENT changes. -/
def execIdentReceived (q : PortId) (w : List Byte) (s : State) : Host.Outcome State Fault Refusal :=
  .next (s.wordIn q.val w (some 1) none fun s =>
    let i := parseIdent w
    if (s.port q.val).ident = some i then s
    else (s.modPort q.val fun p => { p with ident := some i }).checkPort q.val)

/-- Whether a cable's management memory is one that R351 accepts. -/
def cableOk (m : CableMem) : Bool :=
  m.cmis && m.ready && decide (0x40 ≤ m.revision.toNat) && decide (1 ≤ m.media.toNat) && decide (m.media.toNat ≤ 4)

/-- A cable's memory has been read (R351): its vendor serial number is kept for CABLESN; vendor name, OUI, part number and length are logged
in the model's own record of the cable, since R464 lists no event for them (log entry 110). -/
def Port.readCable (p : Port) (m : CableMem) : Port :=
  { p with serial := (m.serial ++ zeros 16).take 16, cable := some ⟨m.vendor.take 16, m.oui.take 3, m.part.take 16, m.length⟩ }

/-- CABLE_READ (R341, R351): the page select of a paged memory is written; an accepted cable starts training, any other holds the port
untrained with cause 0x5. -/
def execCableRead (q : PortId) (mem : CableMem) (s : State) : Host.Outcome State Fault Refusal :=
  let p := s.port q.val
  if s.alive = true ∧ (p.st = .down ∨ (p.st = .held ∧ p.trained = false)) then
    let s1 := if mem.flat then s else s.emit (.pageSelect q)
    if cableOk mem then .next (s1.modPort q.val fun p => { p.readCable mem with st := .train, cause := 0 })
    else .next (s1.modPort q.val fun p => { p with st := .held, cause := 5, trained := false })
  else .next s

/-- Active lanes of a port (R331). -/
def activeLanes (q : Nat) : Nat := if q < 2 then 32 else 8

/-- The lowest-numbered `n` lanes of a mask (R335). -/
def lowLanes : Nat → Nat → BitVec 34 → BitVec 34
  | 0, _, _ => 0
  | k + 1, n, m =>
    let i := 33 - k
    if n = 0 then 0
    else if m.getLsbD i then BitVec.ofNat 34 (2 ^ i) ||| lowLanes k (n - 1) m else lowLanes k n m

/-- Number of lanes of a mask. -/
def laneCount (m : BitVec 34) : Nat := ((List.range 34).filter fun i => m.getLsbD i).length

/-- Lanes of a mask that a port has: 34 on Causeway, 9 on Crossway (R331, R373). -/
def portLanes (q : Nat) (m : BitVec 34) : BitVec 34 := if q < 2 then m else m &&& 0x1FF

/-- The lanes of a port that are put out of use by training alone and for which a spare lane serves: their marks are pending ones (R335, R442,
log entry 111). -/
def State.trainMarks (s : State) (q : PortId) (bad : BitVec 34) : List SpareUnit :=
  ((List.range 34).filterMap fun i =>
    if (portLanes q.val bad).getLsbD i then some (SpareUnit.lane q (Fin.ofNat 34 i)) else none).filter fun u =>
      !s.keep.fuseUnits.contains u && !s.keep.pendUnits.contains u

/-- A port that has trained (R341, R342): nothing is known of the peer yet, and its frames begin at the next frame boundary. -/
def Port.align (p : Port) (q : Nat) (lanes good : BitVec 34) (theta : Int) : Port :=
  { p with
    st := .align, cause := 0, trained := true, good := good, insvc := lowLanes 34 (activeLanes q) lanes
    ident := none, samples := [], delay := 0, theta := theta, heard := [], frames := [], queue := [] }

/-- Whether a port has fewer good lanes than it needs (R335): by its own marks, or held for it. -/
def State.portShort (s : State) (q : Nat) : Bool :=
  let p := s.port q
  decide (laneCount p.good < activeLanes q) || (decide (p.st = .held) && decide (p.cause = 6))

/-- GLB_DEGRADE.PORT after a port has trained (R25, R459): it falls when no port is short of lanes any longer. -/
def State.trainedPorts (s : State) : State :=
  if s.boot.dgPort then { s with boot := { s.boot with dgPort := (List.range 4).any s.portShort } } else s

/-- PORT_ALIGN (R335, R341, R347): training ends; `lanes` are the lanes that the peer marks good, `good` this end's marks after training,
`peerMs` the peer's Milestone. Marks of the fuses, the keeping flash and the start-up test stand beside those of training. The lanes in
service are good at both ends, so they are the same in both directions. Too few lanes hold the port with cause 0x6 and set GLB_DEGRADE.PORT (R25, R459); a peer ahead by
more than one step makes the Milestone jump. -/
def execPortAlign (q : PortId) (lanes good : BitVec 34) (peerMs : Nat) (s : State) : Host.Outcome State Fault Refusal :=
  if s.alive = false ∨ (s.port q.val).st ≠ .train then .next s
  else
    let mine := portLanes q.val (good &&& (s.port q.val).base)
    let both := portLanes q.val lanes &&& mine
    if laneCount both < activeLanes q.val then
      .next (({ s with boot := { s.boot with dgPort := true } }).modPort q.val fun p => { p with st := .held, cause := 6, trained := false, good := mine })
    else
      let new := s.trainMarks q ((s.port q.val).base &&& ~~~good)
      let s0 := { s with keep := if new.isEmpty then s.keep else
        { s.keep with spseq := s.keep.spseq + 1, pendUnits := s.keep.pendUnits ++ new } }
      let s1 := s0.modPort q.val fun p => p.align q.val both mine (65536 * ((s.ring.ms : Int) - (peerMs : Int)))
      let s2 := if s.ring.ms + 1 < peerMs ∧ s.runBound = false then s1.jumpBy q.val (peerMs - s.ring.ms)
        else if s.ring.ms + 1 < peerMs ∨ peerMs + 1 < s.ring.ms then s1.modPort q.val fun p => { p with st := .skewed }
        else s1
      .next (s2.checkPort q.val).trainedPorts

/-- TRAIN_TIMEOUT (R341): training has run for 2 s without lock; the port goes to DOWN. -/
def execTrainTimeout (q : PortId) (s : State) : Host.Outcome State Fault Refusal :=
  .next (if (s.port q.val).st = .train then s.modPort q.val fun p => { p with st := .down } else s)

/-- TRAIN_RETRY (R341): a port in DOWN whose cable has been read trains again. -/
def execTrainRetry (q : PortId) (s : State) : Host.Outcome State Fault Refusal :=
  let p := s.port q.val
  .next (if s.alive = true ∧ p.st = .down ∧ p.serial.isEmpty = false then s.modPort q.val fun p => { p with st := .train } else s)

/-- The lowest lane of a mask. -/
def firstLane (m : BitVec 34) : Nat := ((List.range 34).find? fun i => m.getLsbD i).getD 0

/-- LINK_LOST (R335, R341, R464): a lane in service loses lock; the port goes to DOWN and the event is logged. -/
def execLinkLost (q : PortId) (lost : BitVec 34) (s : State) : Host.Outcome State Fault Refusal :=
  let p := s.port q.val
  let l := lost &&& p.insvc
  if p.trained && decide (l ≠ 0) then
    .next ((s.modPort q.val fun p => { p with st := .down, trained := false, cause := 0, samples := [], insvc := 0 }).logEvent
      { code := 0x0306, unit := portUnit q.val, a0 := BitVec.ofNat 32 (firstLane l), a1 := BitVec.ofNat 32 (laneCount l) })
  else .next s

/-- MISSING_NEIGHBOUR (R352): no link has reached ALIGN on a cabled port within 20 s; cause 0x1, logged once per change. A port held for
cause 0x5 or 0x6, whose link cannot reach ALIGN either, keeps its cause and raises no Missing Neighbour (DESIGN CHOICE, log entry 149). -/
def execMissingNeighbour (q : PortId) (s : State) : Host.Outcome State Fault Refusal :=
  let p := s.port q.val
  match s.planFor q.val with
  | some pl => match pl.ports[q.val]? with
    | some x =>
      if (p.st = .down ∨ p.st = .train) ∧ x.use = true ∧ pl.cmode = false then
        .next ((s.modPort q.val fun p => { p with cause := 1 }).noteFound q.val
          (some ⟨0x0303, BitVec.ofNat 16 x.peerPort.toNat, lo32 x.peerSer, hi32 x.peerSer, 0xFFFFFFFF, 0xFFFFFFFF, []⟩))
      else .next s
    | none => .next s
  | none => .next s

/-! ### PASS and STOP words -/

/-- Merge a PASS word into the generation that it names (R367). -/
def State.mergePass (s : State) (w : List Byte) : State :=
  let b := wordBody w
  let m := leAt b 0 1 % 4
  let p := 16 + m
  let x := s.pass p
  if x.gen = bitOf (leAt b 0 1) 2 then
    let pos := if leAt b 1 1 = s.myIdx then x.pos ||| BitVec.ofNat 64 (leAt b 8 8) else x.pos
    let s1 := (s.modPass p fun x => { x with pos := pos, rings := x.rings ||| BitVec.ofNat 64 (leAt b 16 8) }).fullRing m
    let y := s1.pass p
    (if y.pos ≠ x.pos ∨ y.rings ≠ x.rings then s1.sendPass m else s1).completePass p
  else s

/-- PASS_WORD_RECEIVED (R259, R264, R359, R367). -/
def execPassWordReceived (q : PortId) (w : List Byte) (s : State) : Host.Outcome State Fault Refusal :=
  .next (s.wordIn q.val w (some 2) none fun s =>
    if s.isRunTag (wordTag w) then (if s.runHolds then s.mergePass w else s) else s.foreignWord q.val w)

/-- STOP_RECEIVED (R359, R369, R370, R467): a STOP for the RUNID of the batch stops it; later ones of the same run are secondary. -/
def execStopReceived (q : PortId) (w : List Byte) (s : State) : Host.Outcome State Fault Refusal :=
  .next (s.wordIn q.val w (some 3) none fun s =>
    let b := wordBody w
    let rid : Word32 := BitVec.ofNat 32 (leAt b 0 4)
    if decide (rid = s.run.runid) && decide (rid ≠ 0) && ((decide (s.run.phase ≠ .idle) && decide (wordTag w = s.runTag))
        || (s.run.stopped && decide (wordTag w = s.run.stopTag))) then
      s.remoteStop q.val (BitVec.ofNat 16 (leAt b 4 2)) rid (byteAt b 6) (byteAt b 7) (leAt b 8 8)
    else if s.isRunTag (wordTag w) then s
    else s.foreignWord q.val w)

end Sys2Proof.Machine
end

