-- ==== Sys2Proof/Machine/RunOps.lean ====
section
/-! DEFINITION. The operations of a batch (R317 to R321, R365, R366, R424): admission, the run-start agreement, binding, the start
of the program, and the end of a run. -/
namespace Sys2Proof.Machine

/-! ### Editions that would bind -/

/-- The slot of a context in a given state. -/
def Ctx.slotIn (k : Ctx) (st : SlotState) : Option Nat := (List.range 4).find? fun e => decide ((k.slot e).st = st)

/-- The slot that a batch binds as of a Milestone (R317): the PENDING slot whose AT is at or below it, else the LIVE slot. -/
def Ctx.bindSlot (k : Ctx) (m : Nat) : Option Nat :=
  match k.slotIn .pending with
  | some e => if k.at_ ≤ m then some e else k.slotIn .live
  | none => k.slotIn .live

/-- One admission check of a context and the image that it runs (R318): the slot that binds, unless it must be refused. -/
def Ctx.admits (k : Ctx) (m : Nat) : Option Nat :=
  match k.bindSlot m, k.loaded with
  | some e, some im =>
    let x := k.slot e
    match x.man with
    | some man => if x.dmg then none else if man.images.contains im.digest then some e else none
    | none => none
  | _, _ => none

/-- The admission check of a batch (R318): the slots of the context and of its partner. -/
def State.admission (s : State) (x : CtxId) (p : Option CtxId) (m : Nat) : Option (Nat × Nat) :=
  match (s.ctx x.val).admits m with
  | none => none
  | some e => match p with
    | none => some (e, 0)
    | some y => ((s.ctx y.val).admits m).map fun f => (e, f)

/-! ### RUN words (R339, R365) -/

/-- The body of a RUN word. -/
def runBody (runid : Word32) (op status cores b ed ped : Nat) (dig : List Byte) : List Byte :=
  leBytes 4 runid.toNat ++ leBytes 1 op ++ leBytes 1 status ++ leBytes 2 cores ++ leBytes 8 b ++ leBytes 4 ed ++ leBytes 4 ped
    ++ dig.take 16

/-- The image DIGEST of the batch. -/
def State.runDigest (s : State) : List Byte :=
  match s.runImage with
  | some im => im.digest.take 16
  | none => []

/-- A RUN word of this member with an OP and a STATUS. -/
def State.runWord (s : State) (op status : Nat) : List Byte :=
  runBody s.run.runid op status s.boot.cores s.run.b s.run.edition.toNat s.run.pedition.toNat s.runDigest

/-- Send a RUN word on every port of the slice and go on repeating it once per step (R365): a new OP of the leader's takes the place of the
words before it, any other word stands beside them. -/
def State.sendRun (s : State) (body : List Byte) (next : Bool) : State :=
  let s1 := { s with run := { s.run with words := (if next then [] else s.run.words) ++ [body] } }
  s1.sendSlice 5 s1.runTag body

/-- The leader is the member with POS 0 and IDX 0. -/
def State.isLeader (s : State) : Bool := decide (s.myPos = 0) && decide (s.myIdx = 0)

/-- Members of the slice. -/
def State.members (s : State) : Nat :=
  match s.runImage with
  | some im => im.ringlen * im.rings
  | none => 0

/-- Hops along one axis from place 0 of n: half of it where the axis closes, else to its end. -/
def axisHops (n : Nat) (closed : Bool) : Nat := if closed then n / 2 else n - 1

/-- H (R365): the hops to the far end of the slice on both axes; free only where the leader's entry uses a Crossway port on which no member of
the slice follows, since a Detour then leaves by it whose transit modules nothing names (log entry 41). -/
def State.hops (s : State) : Nat :=
  match s.runImage, s.links.plan with
  | some im, some pl =>
    let wraps := decide (im.rings = pl.rings) && pl.xwrap
    let ports := s.tagPorts s.runTag
    if (ports.contains 2 && decide (im.rings = 1)) || (ports.contains 3 && !(wraps && decide (1 < im.rings))) then
      Config.sliceHops s.runTag
    else axisHops im.ringlen (decide (im.ringlen = pl.ringlen)) + axisHops im.rings wraps
  | _, _ => Config.sliceHops s.runTag

/-! ### Completing RUN_BATCH (R424) -/

/-- The largest program beat count among the cores that have one (R424), zero when the run's program has not started. -/
def State.maxBeats (s : State) : Nat :=
  if s.run.started then s.coreList.foldl (fun m c => Nat.max m ((s.core c).beats.getD 0)) 0 else 0

/-- The result data of RUN_BATCH (R424), at completion offset 0x08. -/
def State.runResult (s : State) (cause beats : Nat) : List Byte :=
  leBytes 4 s.run.runid.toNat ++ leBytes 4 s.run.edition.toNat ++ leBytes 4 s.run.pedition.toNat ++ leBytes 2 cause ++ zeros 2
    ++ leBytes 8 s.run.b ++ leBytes 8 beats

/-- Arguments of a RUN_BATCH entry: the partner context, and the entry's context. -/
def Job.partner (j : Job) : Option CtxId := if leAt j.args 4 1 < 64 then some (Fin.ofNat 64 (leAt j.args 4 1)) else none
def Job.ctxId (j : Job) : CtxId := Fin.ofNat 64 j.ctx.toNat

/-- What a new batch leaves of the ones before it: the words that are still repeated, and the end of the last run (R365, R369, R462). -/
def Run.kept (r : Run) : Run :=
  { declLeft := r.declLeft, declWord := r.declWord, declTag := r.declTag, stopLeft := r.stopLeft, stopWord := r.stopWord, stopTag := r.stopTag
    stopPorts := r.stopPorts, endMs := r.endMs, endRun := r.endRun, endB := r.endB, endPos := r.endPos, endIdx := r.endIdx, endJob := r.endJob }

/-- The agreement of a RUN_BATCH begins (R318, R365): refused at once, or READY is sent. Strict mode refuses an image with
HASV = 1 (R159), also for a RUN_BATCH that was accepted before strict mode came into effect and has waited since (R160, log entry 105), and so does a module with a Wear Critical cluster refuse every batch (R458). -/
def State.beginRun (s : State) (j : Job) : State :=
  let x := j.ctxId
  let refuse (st r : Nat) : State := s.complete j st r (leBytes 4 j.runId.toNat)
  match (s.ctx x.val).loaded, (s.ctx x.val).tag with
  | some im, some _ =>
    if s.boot.strict && im.hasv then refuse 0x09 0
    else if s.boot.wearCrit then refuse 0x0A 0
    else match s.admission x j.partner s.ring.ms with
    | none => refuse 0x0A 0
    | some _ =>
      let j2 := { j with phase := .runActive }
      let s1 := { s with
        jobs := replaceFirst (fun k => decide (k = j)) (fun _ => j2) s.jobs
        run := { s.run.kept with phase := .ready, mbx := j.mbx, cmdTag := j.tag, runid := j.runId, ctx := x, pctx := j.partner }
        err := { s.err with entered := s.err.entered.filter fun e => decide (e.1 ≠ j.runId) } }
      let s2 := s1.sendRun (s1.runWord 1 0) true
      { s2 with run := { s2.run with
          readys := [⟨s2.myPos, s2.myIdx, s2.boot.cores, 0, s2.runDigest⟩], firstReady := s2.ring.ms } }
  | _, _ => refuse 0x07 0x49

/-- Whether no batch holds the module (R424). -/
def State.runFree (s : State) : Bool := decide (s.run.phase = .idle) && !(s.jobs.any fun j => decide (j.phase = .runActive))

/-- Waiting RUN_BATCH commands begin in their order while no batch holds the module (R424). -/
def State.startWaiting : Nat → State → State
  | 0, s => s
  | n + 1, s =>
    if s.runFree then
      match s.jobs.find? fun j => decide (j.phase = .runWaiting) with
      | some j => State.startWaiting n (s.beginRun j)
      | none => s
    else s

/-- Complete the active RUN_BATCH and let the next one begin; a waiting image takes the context's place first (R166). -/
def State.finishRun (s : State) (status reason cause beats : Nat) : State :=
  let data := s.runResult cause beats
  let s1 := { s with run := { s.run with stopped := false } }
  let s2 := (s1.completeAll (fun j => decide (j.phase = .runActive)) status reason data).swapImage s.run.ctx.val
  s2.startWaiting (s2.jobs.length + 1)

/-- The agreement ends without a program (R366): pins are given back and RUN_BATCH completes. The DECLINE is repeated for 64 steps, as STOP is,
since no OP follows it (log entry 112). -/
def State.endAgreement (s : State) (status reason : Nat) (body : List Byte) : State :=
  let s1 := if status = 0x0B then s.modCtx s.run.ctx.val fun k => { k with split := sat32 k.split 1 } else s
  let tag := s.runTag
  let s2 := s1.unpinRun.jobEnded
  ({ s2 with run := { s2.run with declWord := body, declTag := tag, declLeft := 64 } }).finishRun status reason 0 0

/-- This member declines (R365): DECLINE goes out and its own RUN_BATCH completes with the STATUS. -/
def State.decline (s : State) (status : Nat) : State :=
  let b := s.runWord 5 status
  (s.sendRun b false).endAgreement status 0 b

/-! ### Binding (R317 to R320) -/

/-- Take one pin. -/
def State.pinSlot (s : State) (x e : Nat) : State := s.modSlot x e fun k => { k with pin := k.pin + 1 }

/-- Edition number of a slot. -/
def State.editionOf (s : State) (x e : Nat) : Word32 := ((s.ctx x).slot e).edition

/-- The leader holds a BOUND from every member (R365, step 4): GO when the numbers are equal, else EDITION_SPLIT (R319). -/
def State.boundCheck (s : State) : State :=
  if s.isLeader && decide (s.run.bounds.length = s.members) && decide (s.run.phase = .bound) then
    if s.run.bounds.all fun b => decide (b.a = s.run.edition.toNat) && decide (b.b = s.run.pedition.toNat) then
      ({ s with run := { s.run with phase := .go } }).sendRun (s.runWord 4 0) true
    else s.decline 0x0B
  else s

/-- Bind the batch as of B (R317, R318, R320): pins are taken, RUN_BOUND is written and BOUND is sent; or NOT_ADMITTED. The member goes on
repeating FIX beside the BOUNDs, until GO. -/
def State.bindRun (s : State) : State :=
  let r := s.run
  match s.admission r.ctx r.pctx r.b with
  | none => s.decline 0x0A
  | some (e, f) =>
    let s1 := s.pinSlot r.ctx.val e
    let s2 := match r.pctx with
      | some y => s1.pinSlot y.val f
      | none => s1
    let ed := s.editionOf r.ctx.val e
    let ped := match r.pctx with
      | some y => s.editionOf y.val f
      | none => 0
    let s3 := { s2 with
      ring := { s2.ring with base := r.b }
      run := { s2.run with phase := .bound, slot := e, pslot := f, edition := ed, pedition := ped } }
    let s4 := s3.notify 0x0002 (some r.ctx.val)
      (leBytes 4 r.runid.toNat ++ leBytes 4 ed.toNat ++ leBytes 4 ped.toNat ++ zeros 4 ++ leBytes 8 r.b)
    let s5 := s4.sendRun (s4.runWord 3 0) false
    ({ s5 with run := { s5.run with bounds := ⟨s5.myPos, s5.myIdx, ed.toNat, ped.toNat, []⟩ :: s5.run.bounds } }).boundCheck

/-- A member holds FIX with B at Milestone m (R365, step 3). -/
def State.fixRun (s : State) (b : Nat) : State :=
  let m := s.ring.ms
  let s1 := { s with run := { s.run with b := b } }
  if b ≤ m then s1.decline 0x0C
  else if b ≤ m + 1024 then s1.bindRun
  else { s1 with run := { s1.run with phase := .fixed } }

/-- The smallest multiple of 16 that is at least x. -/
def up16 (x : Nat) : Nat := (x + 15) / 16 * 16

/-- The leader looks at the READYs that it holds (R365, step 2; R366). -/
def State.readyCheck (s : State) : State :=
  if s.isLeader && decide (s.run.phase = .ready) then
    match s.run.readys with
    | [] => s
    | r :: l =>
      if l.any fun x => decide (x.a ≠ r.a) || decide (x.dig ≠ r.dig) then s.decline 0x12
      else if s.run.readys.length = s.members then
        if 240 < s.hops then s.decline 0x0D
        else
          let b := up16 (s.ring.ms + 4 * s.hops + 48)
          let s1 := { s with run := { s.run with b := b } }
          (s1.sendRun (s1.runWord 2 0) true).fixRun b
      else s
  else s

/-! ### The start of the program (R151, R199, R229, R235, R246, R263, R274, R283, R299, R321, R391, R399) -/

/-- The binding block (R321). -/
def State.bindingBlock (s : State) : List Byte :=
  let r := s.run
  let x := (s.ctx r.ctx.val).slot r.slot
  let base (c e : Nat) : Nat := 2 * 2 ^ 44 + (s.ctx c).areas.getD e 0
  let nruns := match x.man with
    | some m => m.runs.length
    | none => 0
  leBytes 4 r.edition.toNat ++ leBytes 1 r.ctx.val
    ++ leBytes 1 (match r.pctx with
      | some y => y.val
      | none => 0xFF)
    ++ leBytes 2 nruns ++ leBytes 8 (base r.ctx.val r.slot)
    ++ leBytes 8 (match r.pctx with
      | some y => base y.val r.pslot
      | none => 0)
    ++ leBytes 4 r.pedition.toNat ++ zeros 36 ++ x.botFirst.flatMap fun n => leBytes 4 (n % 2 ^ 24)

/-- First byte of the binding block in core-local SRAM (R321). -/
def bindingBase : Nat := 0x3BF000

/-- The table set of the bound edition (R199). -/
def State.runTables (s : State) : Sparse Word64 :=
  match ((s.ctx s.run.ctx.val).slot s.run.slot).man with
  | some m => (List.range 16).foldl (fun t i => sset 0 t i (m.tables.getD i 0)) []
  | none => []

/-- Core-local SRAM as the program of a core finds it: zero, then the code blob, the data blocks and the binding block. -/
def State.programSram (s : State) (im : Loaded) (c : Nat) : Memory :=
  let (code, dfirst, dcount) := im.map.getD c (0, 0, 0)
  let (off, len) := im.codes.getD code (0, 0)
  let m0 := wrBytes [] codeBase (rdBytes s.lpddr (im.at_ + off) (8 * len))
  let m1 := (List.range dcount).foldl (fun m i =>
    let (doff, dlen, addr) := im.datas.getD (dfirst + i) (0, 0, 0)
    wrBytes m addr (rdBytes s.lpddr (im.at_ + doff) dlen)) m0
  wrBytes m1 bindingBase s.bindingBlock

/-- The turns that the copy of a core's code blob and data blocks takes of the LPDDR controllers, of the remote class (R240, R388, R390). -/
def State.programTurns (s : State) (im : Loaded) (c : Nat) : State :=
  let (code, dfirst, dcount) := im.map.getD c (0, 0, 0)
  let (off, len) := im.codes.getD code (0, 0)
  (List.range dcount).foldl (fun s i =>
    let (doff, dlen, _) := im.datas.getD (dfirst + i) (0, 0, 0)
    s.useTurns .remote (im.at_ + doff) dlen) (s.useTurns .remote (im.at_ + off) (8 * len))

/-- A core at program start: everything is cleared, then the program is loaded (R151). -/
def State.startCore (s : State) (im : Loaded) (c : Nat) : Core :=
  { status := .running
    codeLen := (im.codes.getD (im.map.getD c (0, 0, 0)).1 (0, 0)).2
    sram := s.programSram im c, tables := s.runTables, ctx := s.run.ctx.val
    lstep := match im.layers.head? with
      | some l => l.lstep
      | none => 0
    fence := (s.core c).fence, sramrep := (s.core c).sramrep }

/-- Whether every credit of the channels of every core has returned: a program start waits for it (R456, log entry 123). -/
def State.creditsBack (s : State) : Bool :=
  s.coreList.all fun c => (List.range 6).all fun n => ((s.core c).chan n).fills.isEmpty && ((s.core c).chan n).outs.all fun w => w.old.isNone

/-- The start of the run (R365, step 5): every enabled core starts its program; Passes, LND_STEP, valid bits, ring counters and
confinement records are cleared; the controllers take the image's shares. -/
def State.startRun (s : State) (im : Loaded) : State :=
  let s1 := s.coreList.foldl (fun t c => (t.setCore c (s.startCore im c)).programTurns im c) s
  let (rd, wr, rm) := im.split
  let s2 := { s1 with
    run := { s1.run with phase := .running, words := [], started := true }
    passes := [], notices := []
    lpd := { s1.lpd with run := true, rd := rd, wr := wr, rm := rm, confv := 0, confa := none }
    ring := { s1.ring with
      rx := 0, tx := 0, hdrdrop := 0, rfault := 0, rfrec := 0, rfstep := 0, matched := [], timedOut := [], sentRecs := [], forwards := []
      slots := s1.ring.slots.filterMap fun (e : Nat × SendSlot) =>
        if (e.2.settle s1.ring.ms).bytes.isEmpty then none
        else some (e.1, { (e.2.settle s1.ring.ms) with valid := 0, late := [] }) } }
  (List.range s.nparts).foldl (fun s p => s.modPart p fun x => { x with step := 0 }) s2

/-! ### The end of a run -/

/-- Whether a core's program has ended and its outbound slots have been sent (R229, R320). -/
def Core.ended (k : Core) : Bool := k.beats.isSome && (k.chan 4).outs.isEmpty && (k.chan 5).outs.isEmpty

/-- Whether a JOB or MODULE record of the run still stands in the queue: its handling completes RUN_BATCH (R468). -/
def State.stopRecorded (s : State) : Bool :=
  s.err.queue.any fun r => decide (r.runid = s.run.runid) && (decide (r.cls = clsJob) || decide (r.cls = clsModule))

/-- The cause of a stop as RUN_BATCH reports it (R370, R424, R470). -/
def State.stopCause (s : State) : Nat := (s.run.cause.getD 0).toNat

/-- Complete a stopped RUN_BATCH with JOB_STOPPED and its cause (R424, R468). -/
def State.completeStopped (s : State) : State := s.finishRun 0x0F 0 s.stopCause s.maxBeats

end Sys2Proof.Machine
end

