-- ==== Sys2Proof/Machine/ImageOps.lean ====
section
/-! DEFINITION. The checks of a program image (R163 to R165), of a ring plan (R284 to R288), of an edition's manifest and shards
(R308 to R310), and of a binding (R364). Each check list answers the reason code of the first check that fails, or 0. -/
namespace Sys2Proof.Machine

/-- The first reason whose check fails, or 0. -/
def firstFail : List (Nat × Bool) → Nat
  | [] => 0
  | (r, ok) :: l => if ok then firstFail l else r

/-- Whether bytes [off, off + n) of a string are zero. -/
def zeroAt (b : List Byte) (off n : Nat) : Bool := allZero ((b.drop off).take n)

/-! ### Program images -/

/-- The image that bytes spell (R163, R164); `base` is its region 0x2 offset. -/
def parseImage (b : List Byte) (base : Nat) : Loaded :=
  let layOff := leAt b 0x28 8
  let codeOff := leAt b 0x30 8
  let mapOff := leAt b 0x38 8
  let dataOff := leAt b 0x48 8
  let cores := leAt b 8 4
  let nat2 (o : Nat) : Nat := leAt b o 8
  { at_ := base, len := leAt b 0x20 8, planAt := 0, planLen := 0, hasv := bitOf (leAt b 6 2) 0, cores := cores
    ringlen := leAt b 0xC 1, rings := leAt b 0xD 1, pos := leAt b 0xE 1, idx := leAt b 0xF 1
    split := (leAt b 0x18 1, leAt b 0x19 1, leAt b 0x1A 1)
    layers := (List.range (leAt b 0x14 4)).map fun i =>
      ⟨byteAt b (layOff + 32 * i), nat2 (layOff + 32 * i + 8), nat2 (layOff + 32 * i + 16)⟩
    codes := (List.range (leAt b 0x1C 4)).map fun i => (nat2 (codeOff + 16 * i), leAt b (codeOff + 16 * i + 8) 4)
    map := (List.range cores).map fun i =>
      (leAt b (mapOff + 16 * i) 4, leAt b (mapOff + 16 * i + 4) 4, leAt b (mapOff + 16 * i + 8) 4)
    datas := (List.range (leAt b 0x40 4)).map fun i =>
      (nat2 (dataOff + 16 * i), leAt b (dataOff + 16 * i + 8) 4, leAt b (dataOff + 16 * i + 12) 4)
    digest := (b.drop 0x80).take 64, recs := [], timeouts := [], planDigest := [] }

/-- Whether a table of n entries lies within the image at an 8-byte aligned offset. -/
def tableIn (off size n len : Nat) : Bool := decide (off % 8 = 0) && decide (off + size * n ≤ len)

/-- Check 0x02 of R165. A table, blob or data block at an offset that R164 does not allow, since it is not 8-byte aligned, is refused here too:
R165 names no reason of its own for it (log entry 103). -/
def imageFits (b : List Byte) (im : Loaded) (delivered : Nat) : Bool :=
  let ncode := leAt b 0x1C 4
  let ndata := leAt b 0x40 4
  let codeOff := leAt b 0x30 8
  decide (im.len = delivered) && tableIn (leAt b 0x28 8) 32 (leAt b 0x14 4) im.len && tableIn codeOff 16 ncode im.len
    && tableIn (leAt b 0x38 8) 16 im.cores im.len && tableIn (leAt b 0x48 8) 16 ndata im.len
    && decide (leAt b 6 2 / 2 = 0) && zeroAt b 0x1B 1 && zeroAt b 0x44 4 && zeroAt b 0x50 48 && zeroAt b 0xC0 64
    && decide (1 ≤ ncode) && decide (ncode ≤ im.cores)
    && im.codes.all (fun c => decide (1 ≤ c.2) && decide (c.2 ≤ 32768) && tableIn c.1 8 c.2 im.len)
    && (List.range ncode).all (fun i => zeroAt b (codeOff + 16 * i + 12) 4)
    && im.datas.all (fun d => tableIn d.1 1 d.2.1 im.len)

/-- Checks 0x01 and 0x02 of R165, before the digest. -/
def imageCheck1 (b : List Byte) (im : Loaded) (delivered : Nat) : Nat :=
  firstFail [(1, decide (leAt b 0 4 = 0x4D495052) && decide (leAt b 4 2 = 1)), (2, imageFits b im delivered)]

/-- Layer records (R164): modes, reserved bytes, rising LSTEP, DEADLINE after LSTEP. A LAYERS field outside 1 to 65,536 (R163) is refused here
too: R165 names no reason of its own for it (log entry 104). -/
def layersOk (b : List Byte) (im : Loaded) : Bool :=
  let off := leAt b 0x28 8
  let n := im.layers.length
  decide (1 ≤ n) && decide (n ≤ 65536)
    && (List.range n).all (fun i => zeroAt b (off + 32 * i + 1) 7 && zeroAt b (off + 32 * i + 24) 8
        && decide (leAt b (off + 32 * i) 1 ≤ 1))
    && im.layers.all (fun l => decide (l.lstep < l.deadline))
    && (im.layers.zip (im.layers.drop 1)).all (fun (a, c) => decide (a.lstep < c.lstep))

/-- Whether instruction i of a code blob is valid there (R139, R145). -/
def instrOk (b : List Byte) (off len i : Nat) : Bool :=
  match decOp (BitVec.ofNat 64 (leAt b (off + 8 * i) 8)) with
  | none => false
  | some (_, o) =>
    (match o.branch with
      | some d => decide (0 ≤ (i : Int) + d.toInt) && decide ((i : Int) + d.toInt < (len : Int))
      | none => true)
      && (decide (i + 1 ≠ len) || o.ends)

/-- Check 0x08 of R165. -/
def codesOk (b : List Byte) (im : Loaded) : Bool :=
  im.codes.all fun c => (List.range c.2).all fun i => instrOk b c.1 c.2 i

/-- Whether some instruction of the image has V = 1. -/
def hasVarying (b : List Byte) (im : Loaded) : Bool :=
  im.codes.any fun c => (List.range c.2).any fun i => bitOf (leAt b (c.1 + 8 * i) 8) 53

/-- Whether [a, a + n) and [b, b + m) overlap. -/
def overlap (a n b m : Nat) : Bool := decide (a < b + m) && decide (b < a + n) && decide (n ≠ 0) && decide (m ≠ 0)

/-- Whether a list's entries satisfy a relation pairwise, in order. -/
def pairwise {α : Type} (r : α → α → Bool) : List α → Bool
  | [] => true
  | a :: l => l.all (r a) && pairwise r l

/-- The data blocks of a core neither overlap each other nor its code window nor the binding block (R164, R321). -/
def coreDataOk (im : Loaded) (m : Nat × Nat × Nat) : Bool :=
  let ds := ((im.datas.drop m.2.1).take m.2.2).map fun d => (d.2.2, d.2.1)
  let code := ((im.codes.getD m.1 (0, 0)).2 * 8 + 4095) / 4096 * 4096
  ds.all (fun d => !overlap d.1 d.2 codeBase code && !overlap d.1 d.2 bindingBase 0x1000)
    && pairwise (fun (x y : Nat × Nat) => !overlap x.1 x.2 y.1 y.2) ds

/-- Check 0x0B of R165. A DATAS field above 2^20 (R163) is refused here: R165 names no reason of its own for it (log entry 104). -/
def mapOk (b : List Byte) (im : Loaded) : Bool :=
  let mapOff := leAt b 0x38 8
  decide (im.datas.length ≤ 2 ^ 20) && im.datas.all (fun d => decide (d.2.1 % 64 = 0) && decide (d.2.2 % 64 = 0) && decide (d.2.2 + d.2.1 ≤ 0x400000))
    && im.map.all (fun m => decide (m.1 < im.codes.length) && decide (m.2.1 < 2 ^ 20) && decide (m.2.1 + m.2.2 ≤ im.datas.length))
    && (List.range im.map.length).all (fun i => zeroAt b (mapOff + 16 * i + 12) 4)
    && im.map.all (coreDataOk im)

/-- Checks 0x03 to 0x0B of R165; `strict` says whether strict mode is in effect, `cores` is the enabled core count. -/
def imageCheck2 (b : List Byte) (im : Loaded) (cores : Nat) (strict : Bool) : Nat :=
  firstFail
    [(3, decide (digest512 (putBytes (b.take im.len) 0x80 (zeros 64)) = im.digest)), (4, decide (im.cores = cores)),
     (5, decide (leAt b 0x10 4 ≤ 1150)), (6, decide (im.split.1 + im.split.2.1 + im.split.2.2 = 16)), (7, layersOk b im),
     (8, codesOk b im), (9, im.hasv == hasVarying b im), (10, !strict || !im.hasv), (11, mapOk b im)]

/-! ### Ring plans -/

/-- Directory entry k of a plan: FIRST, COUNT, TIMEOUT (R286). -/
def planDir (p : List Byte) (k : Nat) : Nat × Nat × Nat :=
  let o := leAt p 0x18 8 + 16 * k
  (leAt p o 4, leAt p (o + 4) 4, leAt p (o + 8) 2)

/-- The layer of a record: the last layer whose FIRST is at or below it and whose range holds it. -/
def recLayer (p : List Byte) (layers i : Nat) : Nat :=
  ((List.range layers).find? fun k => let d := planDir p k; decide (d.1 ≤ i) && decide (i < d.1 + d.2.1)).getD 0

/-- Record i of a plan (R287). -/
def planRecAt (p : List Byte) (layers i : Nat) : PlanRec :=
  let o := leAt p 0x20 8 + 32 * i
  { layer := recLayer p layers i, stepoff := leAt p o 4, act := leAt p (o + 4) 1 % 8, kind := leAt p (o + 5) 1 / 4 % 16
    port := BitVec.ofNat 2 (leAt p (o + 5) 1), hops := leAt p (o + 6) 1 % 64, slotg := leAt p (o + 7) 1 % 128
    home := BitVec.ofNat 12 (leAt p (o + 8) 2), pmask := BitVec.ofNat 16 (leAt p (o + 10) 2)
    seq := BitVec.ofNat 32 (leAt p (o + 12) 4), lbase := leAt p (o + 16) 4 % 2 ^ 19, ngran := leAt p (o + 20) 2 % 2 ^ 13
    src := leAt p (o + 24) 8 }

/-- The records, the timeouts and the digest of a plan, added to its image. -/
def Loaded.withPlan (im : Loaded) (p : List Byte) (base len : Nat) : Loaded :=
  let n := leAt p 8 4
  { im with
    planAt := base, planLen := len
    recs := (List.range (leAt p 0xC 4)).map (planRecAt p n)
    timeouts := (List.range n).map fun k => (planDir p k).2.2
    planDigest := (p.drop 0x80).take 64 }

/-- The reserved bits of record i are zero (R287). -/
def recRsv (p : List Byte) (i : Nat) : Bool :=
  let o := leAt p 0x20 8 + 32 * i
  let act := leAt p (o + 4) 1 % 8
  let src := leAt p (o + 24) 8
  decide (leAt p (o + 4) 1 / 8 = 0) && decide (leAt p (o + 5) 1 / 64 = 0) && decide (leAt p (o + 6) 1 / 64 = 0)
    && decide (leAt p (o + 7) 1 / 128 = 0) && decide (leAt p (o + 8) 2 / 4096 = 0) && decide (leAt p (o + 16) 4 / 2 ^ 19 = 0)
    && decide (leAt p (o + 20) 2 / 2 ^ 13 = 0) && zeroAt p (o + 22) 2
    && (decide (act ≠ 0) || decide (src / 2 ^ 48 = 0)) && (decide (act ≠ 1) || decide (src / 16 = 0))

/-- The layers' record ranges follow one another without gaps from 0 to RECS (R286). R288 lists no such check; a directory that does not is refused
under 0x10 (DESIGN CHOICE, log entry 143). -/
def dirOk (p : List Byte) : Bool :=
  let n := leAt p 8 4
  (List.range n).all (fun k => zeroAt p (leAt p 0x18 8 + 16 * k + 10) 6
      && decide ((planDir p k).1 = if k = 0 then 0 else (planDir p (k - 1)).1 + (planDir p (k - 1)).2.1))
    && decide (leAt p 0xC 4 = if n = 0 then 0 else (planDir p (n - 1)).1 + (planDir p (n - 1)).2.1)

/-- Check 0x10 of R288, before the digest. A directory or a record table off an 8-byte boundary (R285) is refused under it too (DESIGN CHOICE,
log entry 143). -/
def planCheck1 (p : List Byte) (len : Nat) : Nat :=
  firstFail [(0x10, decide (leAt p 0 4 = 0x4C505252) && decide (leAt p 4 2 = 1) && decide (leAt p 0x10 8 = len)
    && tableIn (leAt p 0x18 8) 16 (leAt p 8 4) len && tableIn (leAt p 0x20 8) 32 (leAt p 0xC 4) len
    && zeroAt p 6 2 && zeroAt p 0x28 24 && dirOk p && (List.range (leAt p 0xC 4)).all (recRsv p))]

/-- The step of a record of an image that is not yet bound. -/
def Loaded.recStep (im : Loaded) (r : PlanRec) : Nat :=
  (match im.layers[r.layer]? with
  | some l => l.lstep
  | none => 0) + r.stepoff

/-- Check 0x13 of one record (R288). -/
def recOk (im : Loaded) (nparts : Nat) (r : PlanRec) : Bool :=
  let out := decide (r.act < 2)
  decide (r.act ≤ 3) && decide (r.kind ≤ 2) && (decide (r.act ≠ 3) || decide (r.port.toNat < 2))
    && (decide (r.slotg = 0) || (decide (57 ≤ r.slotg) && decide (r.slotg ≤ 85)))
    && (decide (r.act ≠ 0) || decide (r.slotg = 0) || decide (r.pmask ≠ 0))
    && (List.range 16).all (fun i => !r.pmask.getLsbD i || decide (i < nparts))
    && (!out || decide (r.home.toNat = im.pos + 64 * im.idx))
    && (if out then decide (1 ≤ r.hops) else decide (r.hops = 0))
    && (decide (r.act = 1) || decide (r.kind = 0))
    && (if r.act = 1 then decide (1 ≤ r.ngran) && decide (r.ngran ≤ 4096) else decide (r.ngran = 0))
    && (out || decide (r.src = 0)) && (decide (r.act ≠ 0) || decide (r.src % 64 = 0))

/-- Check 0x13 of R288 on the whole plan. -/
def recsOk (im : Loaded) (nparts : Nat) : Bool :=
  im.recs.all (recOk im nparts)
    && (im.recs.zip (im.recs.drop 1)).all (fun (a, b) => decide (a.layer ≠ b.layer) || decide (a.stepoff ≤ b.stepoff))
    && im.timeouts.all (fun t => decide (2 ≤ t))

/-- Step and port of a record's outgoing parcel (R288, check 0x14). -/
def Loaded.outgoing (im : Loaded) : List (Nat × Nat) :=
  im.recs.filterMap fun r =>
    if r.act < 2 then some (im.recStep r, r.port.toNat)
    else if r.act = 3 then some (im.recStep r + 1, if r.port = 0 then 1 else 0) else none

/-- Step and port of a record's incoming parcel. -/
def Loaded.incoming (im : Loaded) : List (Nat × Nat) :=
  im.recs.filterMap fun r => if 2 ≤ r.act then some (im.recStep r, r.port.toNat) else none

/-- Check 0x16 of one record (R288). -/
def recDeadline (im : Loaded) (r : PlanRec) : Bool :=
  match im.layers[r.layer]? with
  | some l => decide (im.recStep r + (if 2 ≤ r.act then im.timeouts.getD r.layer 65535 else 1) < l.deadline)
  | none => false

/-- Checks 0x11 to 0x16 of R288. -/
def planCheck2 (p : List Byte) (im : Loaded) (nparts easize : Nat) : Nat :=
  firstFail
    [(0x11, decide (digest512 (putBytes (p.take im.planLen) 0x80 (zeros 64)) = im.planDigest)),
     (0x12, decide ((p.drop 0x40).take 64 = im.digest) && decide (leAt p 8 4 = im.layers.length)),
     (0x13, recsOk im nparts), (0x14, decide im.outgoing.Nodup && decide im.incoming.Nodup),
     (0x15, im.recs.all fun r => decide (r.act ≠ 0) || decide (r.src + 262208 ≤ easize)),
     (0x16, im.recs.all (recDeadline im))]

/-! ### Binding (R364) -/

/-- Ports that a plan uses. -/
def Loaded.ports (im : Loaded) : List Nat :=
  (List.range 4).filter fun q => (im.outgoing ++ im.incoming).any fun x => decide (x.2 = q)

/-- Check 0x34: outgoing parcels leave in owned phases, Crossway ones at frame starts with one per frame. -/
def phasesOk (im : Loaded) (e : Route) : Bool :=
  im.outgoing.all (fun x => bitOf (e.sphase x.2) (x.1 % 16) && (decide (x.2 < 2) || decide (x.1 % 4 = 0)))
    && decide (((im.outgoing.filter fun x => decide (2 ≤ x.2)).map fun x => (x.1 / 4, x.2)).Nodup)

/-- The checks of R364. -/
def State.bindCheck (s : State) (im : Loaded) (tag : Nat) : Nat :=
  let e := s.route tag
  firstFail
    [(0x30, e.member && decide (tag ≠ 0) && decide (tag < 4096)),
     (0x31, decide (im.ringlen = e.len) && decide (im.rings = e.nr) && decide (im.pos = e.pos) && decide (im.idx = e.idx)),
     (0x32, decide (im.cores = e.cores) && decide (im.cores = s.boot.cores)),
     (0x33, im.ports.all fun q => bitOf e.w0.toNat (58 + q) && decide ((s.port q).st = .ready)),
     (0x34, phasesOk im e)]

/-! ### Editions -/

/-- The manifest that an edition area spells (R308, R309). -/
def parseManifest (b : List Byte) : Manifest :=
  let shd := leAt b 0x28 8
  let run := leAt b 0x30 8
  { charge := leAt b 0x18 8, manlen := leAt b 0x20 8
    shards := (List.range (leAt b 0xC 4)).map fun i =>
      let o := shd + 96 * i
      ⟨leAt b o 8, leAt b (o + 8) 8, leAt b (o + 16) 4, leAt b (o + 20) 4, (b.drop (o + 32)).take 64⟩
    runs := (List.range (leAt b 0x10 4)).map fun i => (leAt b (run + 16 * i) 4, leAt b (run + 16 * i + 4) 8)
    tables := (List.range 16).map fun i => BitVec.ofNat 64 (leAt b (0x40 + 8 * i) 8)
    images := (List.range (Nat.min (leAt b 0x14 4) 8)).map fun i => (b.drop (0xC0 + 64 * i)).take 64
    digest := (b.drop 0x2C0).take 64 }

/-- Check 0x20 of R310, on the area's bytes. R310 names no reason for SHARDS outside 1 to 65,535, ENTRIES outside 2 to 2^24 and an unused IMAGES
entry that is not zero (R308): the model refuses them under 0x20 (DESIGN CHOICE, log entry 144). -/
def manifestShape (b : List Byte) (easize : Nat) : Bool :=
  let m := leAt b 0x20 8
  let nshd := leAt b 0xC 4
  let nrun := leAt b 0x10 4
  let shd := leAt b 0x28 8
  let run := leAt b 0x30 8
  decide (leAt b 0 4 = 0x4E444552) && decide (leAt b 4 2 = 1) && decide (768 ≤ m) && decide (m ≤ easize)
    && decide (1 ≤ nshd) && decide (nshd ≤ 65535) && decide (shd + 96 * nshd ≤ m) && decide (run + 16 * nrun ≤ m)
    && (List.range nrun).all (fun i => let o := run + 16 * i
        decide (2 ≤ leAt b o 4) && decide (leAt b o 4 ≤ 2 ^ 24) && decide (leAt b (o + 4) 8 + 4 * leAt b o 4 ≤ m) && zeroAt b (o + 12) 4)
    && (List.range nshd).all (fun i => zeroAt b (shd + 96 * i + 24) 8)
    && decide (leAt b 6 1 / 64 = 0) && zeroAt b 7 1 && zeroAt b 0x38 8
    && zeroAt b (0xC0 + 64 * Nat.min (leAt b 0x14 4) 8) (512 - 64 * Nat.min (leAt b 0x14 4) 8)

/-- Round up to a granule. -/
def upGran (n : Nat) : Nat := (n + 63) / 64 * 64

/-- Check 0x23 of R310. -/
def shardsPlaced (man : Manifest) (easize : Nat) : Bool :=
  decide (man.charge ≤ easize)
    && man.shards.all (fun x => decide (x.off % 64 = 0) && decide (upGran man.manlen ≤ x.off) && decide (x.off + x.len ≤ man.charge))
    && pairwise (fun (x y : Shard) => !overlap x.off x.len y.off y.len) man.shards

/-- The entry values of a run (R309). -/
def runEntries (b : List Byte) (r : Nat × Nat) : List Nat := (List.range r.1).map fun i => leAt b (r.2 + 4 * i) 4

/-- Check 0x25 of R310; `quota` is the slot's BOT reservation. -/
def runsOk (b : List Byte) (man : Manifest) (quota : Nat) : Bool :=
  decide (man.runs.length ≤ 1008)
    && man.runs.all (fun r => let l := runEntries b r; (l.zip (l.drop 1)).all fun (x, y) => decide (x ≤ y))
    && decide ((man.runs.map (·.1)).sum ≤ quota)

/-- The stored parcels of a shard, parsed from its bytes (R310, check 0x26): every header in order, lengths summing to LENGTH. -/
def parcelsOk (ctx ed layer pcount : Nat) : Nat → List Byte → Nat → Bool
  | 0, b, k => b.isEmpty && decide (k = pcount)
  | n + 1, b, k =>
    if b.isEmpty then decide (k = pcount)
    else
      let g := parNgran b
      decide (64 ≤ b.length) && decide (parKind b = 0) && decide (parCtx b = ctx) && decide (parEdition b = ed) && decide (parLayer b = layer)
        && decide (leAt b 0x18 4 = pcount) && decide (parSeq b = k) && decide (1 ≤ g) && decide (g ≤ 4096)
        && decide (1 ≤ parNblk b) && decide (parNblk b ≤ 240) && (bitOf (leAt b 9 1) 1 == decide (k + 1 = pcount))
        && decide (64 + 64 * g ≤ b.length) && parcelsOk ctx ed layer pcount n (b.drop (64 + 64 * g)) (k + 1)

/-- Check 0x26 of one shard. -/
def shardParcels (ctx ed : Nat) (x : Shard) (b : List Byte) : Bool := parcelsOk ctx ed x.layer x.pcount (b.length / 64 + 1) b 0

/-- Check 0x27 of one shard. -/
def shardDigest (x : Shard) (b : List Byte) : Bool := decide (digest512 b = x.digest)

end Sys2Proof.Machine
end

