-- ==== Sys2Proof/Machine/MailboxOps.lean ====
section
/-! DEFINITION. The course of a mailbox command (R408 to R434): which command starts, its checks of permission, level and arguments,
its completion; misuses; and where the host may read and write LPDDR (R307, R412, R413). -/
namespace Sys2Proof.Machine

/-! ### Starting a command (R416, R417) -/

/-- Commands of a mailbox started and not completed (INPROG). -/
def State.inprog (s : State) (m : Nat) : Nat := (s.jobs.filter fun j => decide (j.mbx.val = m)).length

/-- The 128 bytes of the entry at CHEAD. -/
def Mbx.entry (x : Mbx) (i : Nat) : List Byte := rdBytes x.page (0x1000 + 128 * (i % 256)) 128

/-- The command that an entry spells (R411). -/
def parseJob (m : MbxId) (e : List Byte) : Job :=
  { mbx := m, opc := BitVec.ofNat 16 (leAt e 0 2), flags := byteAt e 2, vec := byteAt e 3, tag := BitVec.ofNat 32 (leAt e 4 4)
    ctx := byteAt e 8, args := (e.drop 16).take 112, phase := .runWaiting }

/-- Whether the next command of a mailbox may start (R417). -/
def State.canStart (s : State) (m : Nat) : Bool :=
  let x := s.mbox m
  x.armed && decide (x.chead ≠ x.ctail) && decide (s.inprog m < 16) && decide ((x.rtail - x.rhead).toNat + s.inprog m < 256)
    && (!bitOf (leAt (x.entry x.chead.toNat) 2 1) 1 || decide (s.inprog m = 0))

/-- The mailbox that the firmware serves next: ascending, beginning after the one served last (R417). -/
def State.nextServed (s : State) : Option Nat :=
  ((List.range 16).map fun i => (s.host.served + i) % 16).find? fun m => s.canStart m

/-- The level of a mailbox (R409, R425): mailbox 0 holds it whenever the policy does. -/
def State.expertLevel (s : State) (m : Nat) : Bool := s.host.expert && (decide (m = 0) || (s.mbox m).expert)

/-- What a command requires of the mailbox that issues it. -/
inductive Need where
  /-- a context in the mailbox's mask -/
  | context
  /-- no context -/
  | plain
  /-- mailbox 0 -/
  | admin
  /-- the expert level -/
  | expert
  deriving DecidableEq, Repr

/-- How a command's entry must look: OPC, need, the argument bytes that it names, the ranges of its arguments. -/
structure Cmd where
  opc : Nat
  need : Need
  named : List (Nat × Nat)
  argsOk : List Byte → Bool

/-- The status of the first failing check of permission and level (R423, R426), or 0. -/
def State.permission (s : State) (d : Cmd) (j : Job) : Nat :=
  match d.need with
  | .context => if j.ctx.toNat < 64 ∧ (s.mbox j.mbx.val).mask.getLsbD j.ctx.toNat = true then 0 else 4
  | .plain => 0
  | .admin => if j.mbx.val = 0 then 0 else 4
  | .expert => if s.expertLevel j.mbx.val then 0 else 5

/-- Whether the entry's fields are as required (R411). -/
def Cmd.entryOk (d : Cmd) (e : List Byte) (j : Job) : Bool :=
  decide (j.flags.toNat < 4) && decide (j.vec.toNat ≤ 126) && zeroAt e 9 7
    && (decide (d.need = .context) || decide (j.ctx = 0xFF))
    && (List.range 112).all (fun i => (d.named.any fun r => decide (r.1 ≤ i) && decide (i < r.1 + r.2)) || byteAt j.args i == 0)
    && d.argsOk j.args

/-- The opcodes that R422 and R426 assign. -/
def knownOpc (n : Nat) : Bool :=
  [0x0001, 0x0002, 0x0003, 0x0010, 0x0011, 0x0012, 0x0013, 0x0020, 0x0021, 0x0022, 0x0023, 0x0030, 0x0031, 0x0040, 0x0041, 0x0050,
   0x0060, 0x0061, 0x0062, 0x8001, 0x8002, 0x8003, 0x8004, 0x8005, 0x8010, 0x8011, 0x8012].contains n

/-- Take the entry at CHEAD out of the ring of mailbox m (R417). -/
def State.takeEntry (s : State) (m : MbxId) : State :=
  let s1 := s.modMbox m.val fun x => { x with chead := x.chead + 1 }
  { s1 with host := { s1.host with served := (m.val + 1) % 16 } }

/-- Start the next command of a mailbox as the command `d` (R417, R419, R423): permission and level, arguments, module halt (R471),
then what the command does. It is turned away when the mailbox is not the next served or its entry spells another command; an
entry whose OPC is reserved completes with BAD_OPCODE. -/
def State.startCmd (s : State) (m : MbxId) (d : Cmd) (mine : List Byte → Bool) (f : State → Job → State) : State :=
  if s.boot.ready && decide (s.nextServed = some m.val) then
    let x := s.mbox m.val
    let e := x.entry x.chead.toNat
    let j := parseJob m e
    if !knownOpc j.opc.toNat then
      (s.takeEntry m).putCompletion j (if 0x8000 ≤ j.opc.toNat ∧ s.expertLevel m.val = false then 5 else 2) 0 []
    else if j.opc.toNat = d.opc ∧ mine j.args = true then
      let s1 := s.takeEntry m
      let p := s.permission d j
      if p ≠ 0 then s1.putCompletion j p 0 []
      else if !d.entryOk e j then s1.putCompletion j 3 0x40 []
      else if s.boot.halt ∧ d.opc ≠ 1 then s1.putCompletion j 7 0x46 []
      else f s1 j
    else s
  else s

/-- Complete a command in the step in which it started. -/
def State.reply (s : State) (j : Job) (status reason : Nat) (data : List Byte) : State := s.putCompletion j status reason data

/-- Put a started command among those in progress. -/
def State.pushJob (s : State) (j : Job) : State := { s with jobs := s.jobs ++ [j] }

/-- Replace a command in progress by one with another phase. -/
def State.setPhase (s : State) (j : Job) (p : JobPhase) : State :=
  { s with jobs := replaceFirst (fun k => decide (k = j)) (fun k => { k with phase := p }) s.jobs }

/-- Require an open context (R423, reason 0x41). -/
def State.needOpen (s : State) (j : Job) (f : State → State) : State :=
  if (s.ctx j.ctx.toNat).opened then f s else s.reply j 7 0x41 []

/-- Whether a batch of a context is in agreement or running. -/
def State.batchOf (s : State) (x : Nat) : Bool := decide (s.run.phase ≠ .idle) && decide (s.run.ctx.val = x)

/-! ### Misuse (R434) -/

/-- A misuse of a mailbox: MBX_ERR, unless the mailbox is disarmed, GLB_MISUSE, the MISUSE notice and the log, which names the requester ID too
(R432); R464 gives that no argument, and it stands in ARG2 (DESIGN CHOICE, log entry 140). -/
def State.misuse (s : State) (m code off : Nat) (rid : BitVec 16) : State :=
  let s1 := if (s.mbox m).armed then s.modMbox m fun x => { x with errLast := BitVec.ofNat 8 code, errCount := sat16 x.errCount 1 } else s
  let s2 := { s1 with host := { s1.host with
    misLast := BitVec.ofNat 8 code, misMbx := BitVec.ofNat 8 m, misCount := sat16 s1.host.misCount 1 } }
  let s3 := s2.notify 0x0007 none ([BitVec.ofNat 8 m, BitVec.ofNat 8 code, 0, 0] ++ leBytes 4 off)
  s3.logEvent { code := 0x0701, unit := BitVec.ofNat 32 (0x70000000 + m), a0 := BitVec.ofNat 32 code, a1 := BitVec.ofNat 32 off
                a2 := BitVec.ofNat 32 rid.toNat }

/-! ### Where the host may go in LPDDR (R307, R413) -/

/-- Bytes of one unit of 64 MiB. -/
def unit64 : Nat := 64 * 2 ^ 20

/-- Whether [a, a + n) lies in [b, b + m). -/
def within (a n b m : Nat) : Bool := decide (b ≤ a) && decide (a + n ≤ b + m)

/-- The first address of [a, a + n) that lies in none of the ranges, if there is one; `fuel` is the number of ranges that may still be
passed. -/
def firstGap : Nat → List (Nat × Nat) → Nat → Nat → Option Nat
  | 0, _, a, n => if n = 0 then none else some a
  | fuel + 1, l, a, n =>
    if n = 0 then none
    else match l.find? fun r => decide (r.1 ≤ a) && decide (a < r.1 + r.2) with
      | none => some a
      | some r => firstGap fuel l (r.1 + r.2) (n - (r.1 + r.2 - a))

/-- Whether every byte of [a, a + n) lies in some of the ranges, which do not overlap; an empty range must lie at one. -/
def covered (l : List (Nat × Nat)) (a n : Nat) : Bool :=
  if n = 0 then l.any fun r => within a 0 r.1 r.2 else (firstGap l.length l a n).isNone

/-- The edition areas of a context, with their slots. -/
def Ctx.slotAreas (k : Ctx) : List (Nat × Nat) := (List.range k.eslots).map fun e => (e, k.areas.getD e 0)

/-- Where the host may read for a context (R413): its image range, its work range and its edition areas. -/
def Ctx.readAreas (k : Ctx) : List (Nat × Nat) :=
  if k.opened then (k.imgBase, k.imgsize) :: (k.workBase, k.work) :: k.slotAreas.map fun x => (x.2, k.easize) else []

/-- The byte ranges of the shards of a slot that are marked damaged, from the area's base on. -/
def Slot.badRanges (x : Slot) (base : Nat) : List (Nat × Nat) :=
  match x.man with
  | some m => x.bad.filterMap fun i => (m.shards[i]?).map fun d => (base + d.off, d.len)
  | none => []

/-- Where the host may write in the area of an edition slot (R307). -/
def Slot.writeAreas (x : Slot) (base size : Nat) : List (Nat × Nat) :=
  match x.st with
  | .empty | .failed => [(base, size)]
  | _ => if x.dmg then x.badRanges base else []

/-- Where the host may write for a context (R307, R413). -/
def Ctx.writeAreas (k : Ctx) : List (Nat × Nat) :=
  if k.opened then
    (k.imgBase, k.imgsize) :: (k.workBase, k.work) :: k.slotAreas.flatMap fun x => (k.slot x.1).writeAreas x.2 k.easize
  else []

/-- Whether the host may read, or write, [a, a + n) for a context. -/
def Ctx.mayRead (k : Ctx) (a n : Nat) : Bool := covered k.readAreas a n
def Ctx.mayWrite (k : Ctx) (a n : Nat) : Bool := covered k.writeAreas a n

/-- Write the bytes that a context lets the host write. -/
def putAllowed (k : Ctx) (m : Memory) (a : Nat) : List Byte → Memory
  | [] => m
  | b :: l => putAllowed k (if k.mayWrite a 1 then wrByte m a b else m) (a + 1) l

/-- Log a dropped write to an edition area (R307): context, slot and address. -/
def State.logEdition (s : State) (x e a : Nat) : State :=
  s.logEvent { code := 0x0704, unit := 0x60000000, ctx := BitVec.ofNat 8 x, a0 := BitVec.ofNat 32 e, a1 := BitVec.ofNat 32 a
               a2 := BitVec.ofNat 32 (a / 2 ^ 32) }

/-- The first byte of a write of [a, a + n) that falls in the area of a slot and is dropped there. -/
def Ctx.droppedIn (k : Ctx) (a n : Nat) (x : Nat × Nat) : Option Nat :=
  let lo := Nat.max a x.2
  let hi := Nat.min (a + n) (x.2 + k.easize)
  let l := (k.slot x.1).writeAreas x.2 k.easize
  firstGap l.length l lo (hi - lo)

/-- The first byte of a write of [a, a + n) that falls in the area of a slot of another context than the writer's: every one is dropped. -/
def Ctx.meets (k : Ctx) (a n : Nat) (x : Nat × Nat) : Option Nat :=
  if Nat.max a x.2 < Nat.min (a + n) (x.2 + k.easize) then some (Nat.max a x.2) else none

/-- Log what a host write of [a, a + n) for context x loses in edition areas of any context (R307): once for each slot. -/
def State.logDropped (s : State) (x a n : Nat) : State :=
  (List.range 64).foldl (fun s y =>
    let k := s.ctx y
    (if k.opened then k.slotAreas else []).foldl (fun s e => match if y = x then k.droppedIn a n e else k.meets a n e with
      | some b => s.logEdition y e.1 b
      | none => s) s) s

/-! ### Answers that break the link's rules (R429, R432) -/

/-- An answer under R429 or R430 is logged with the BAR0 offset and the requester ID. -/
def State.logViolation (s : State) (off : Word32) (rid : BitVec 16) (a2 : Word32) : State :=
  s.logEvent { code := 0x0702, unit := 0x60000000, a0 := off, a1 := BitVec.ofNat 32 rid.toNat, a2 := a2 }

/-- A request answered with Unsupported Request, which AER reports too (R402, R429). -/
def State.unsupported (s : State) (off : Word32) (rid : BitVec 16) : State :=
  (({ s with host := { s.host with ur := sat16 s.host.ur 1, cfg := { s.host.cfg with aerUnsupported := true } } }).logViolation off rid 0).emit
    .unsupported

/-- Whether an access of `n` bytes at an offset is one or two whole 32-bit register words (R14, R429). R14 and R429 name accesses of 32 and of
64 bits alone; a longer one of whole words is answered like a part of a word (DESIGN CHOICE, log entry 139). -/
def wholeWords (off n : Nat) : Bool := decide (off % 4 = 0) && (decide (n = 4) || decide (n = 8))

/-- The words of a register write, in ascending order (R429). -/
def regWords (off : Nat) (b : List Byte) : List (Nat × Word32) :=
  (List.range (b.length / 4)).map fun i => (off + 4 * i, BitVec.ofNat 32 (leAt b (4 * i) 4))

/-- GLB_STATE (R406). -/
def State.glbState (s : State) : Nat := b2n s.boot.ready * 2 ^ 31 + b2n s.boot.strict * 2 ^ 30 + b2n s.boot.halt * 2 ^ 29

end Sys2Proof.Machine
end

