-- ==== Sys2Proof/Machine/ContextOps.lean ====
section
/-! DEFINITION. What the commands of contexts and editions do (R300 to R326): placement, closing, switching, the steps of a load. -/
namespace Sys2Proof.Machine

/-! ### Contexts -/

/-- Entries of the BOT (R188). -/
def botLimit : Nat := 16777216

/-- The open contexts. -/
def State.openCtxs (s : State) : List Ctx := ((List.range 64).map fun x => s.ctx x).filter fun k => k.opened

/-- The charge of a context (R301). -/
def Ctx.charge (k : Ctx) : Nat := k.eslots * k.easize + k.imgsize + k.work

/-- LPDDR ranges of a context, base and size. -/
def Ctx.ranges (k : Ctx) : List (Nat × Nat) :=
  (k.imgBase, k.imgsize) :: (k.workBase, k.work) :: k.areas.map fun a => (a, k.easize)

/-- BOT reservations of a context, first entry and length. -/
def Ctx.botRanges (k : Ctx) : List (Nat × Nat) := k.bots.map fun b => (b, k.botq)

/-- The lowest place for a range of `n` below `limit` beside the ranges in use (R302). -/
def place (used : List (Nat × Nat)) (limit n : Nat) : Option Nat :=
  let cand := 0 :: used.map fun u => u.1 + u.2
  let fits := cand.filter fun a => decide (a + n ≤ limit) && used.all fun u => !overlap a n u.1 u.2
  match fits with
  | [] => none
  | a :: l => some (l.foldl Nat.min a)

/-- Place a list of sizes one after another beside the ranges in use. -/
def placeAll (limit : Nat) : List (Nat × Nat) → List Nat → Option (List Nat)
  | _, [] => some []
  | used, n :: r => match place used limit n with
    | some a => (placeAll limit ((a, n) :: used) r).map fun l => a :: l
    | none => none

/-- The retired ranges of 64 MiB, base and size (R446). -/
def State.retiredRanges (s : State) : List (Nat × Nat) := s.boot.retired.map fun i => (i * unit64, unit64)

/-- OPEN_CONTEXT on an unopened context (R300 to R302, R446): the opened context, or none for NO_RESOURCE. -/
def State.placeCtx (s : State) (es ea img work botq : Nat) : Option Ctx :=
  let o := s.openCtxs
  let k : Ctx := { opened := true, eslots := es, easize := ea, botq := botq, imgsize := img, work := work }
  if lpdLimit < (o.map Ctx.charge).sum + k.charge + s.boot.retired.length * unit64 then none
  else if botLimit < (o.map fun c => c.eslots * c.botq).sum + es * botq then none
  else match placeAll lpdLimit (s.retiredRanges ++ o.flatMap Ctx.ranges) (img :: work :: List.replicate es ea),
    placeAll botLimit (o.flatMap Ctx.botRanges) (List.replicate es botq) with
  | some (i :: w :: areas), some bots => some { k with imgBase := i, workBase := w, areas := areas, bots := bots }
  | _, _ => none

/-- Module address of a region 0x2 offset. -/
def lpdAddr (a : Nat) : Nat := 2 * 2 ^ 44 + a

/-- Result data of OPEN_CONTEXT (R422): the image range, the work range, each slot's area. -/
def Ctx.openData (k : Ctx) : List Byte := (k.imgBase :: k.workBase :: k.areas).flatMap fun a => leBytes 8 (lpdAddr a)

/-- Whether a command in progress names a context, as its own or as a partner. -/
def Job.names (j : Job) (x : Nat) : Bool := decide (j.ctx.toNat = x) || (decide (j.opc = 0x30) && decide (leAt j.args 4 1 = x))

/-- Close a context (R303): every resident slot is released to EMPTY, and everything the context holds is given up. -/
def State.closeCtx (s : State) (x : Nat) : State :=
  let s1 := (List.range 4).foldl (fun s e =>
    if ((s.ctx x).slot e).st = .empty then s else (s.modSlot x e fun k => { k with keep := false }).releaseSlot x e) s
  s1.modCtx x fun _ => {}

/-! ### Publishing (R313 to R316) -/

/-- The named slot becomes LIVE and the old LIVE slot RETIRING (R314, R316); SWITCHED is written when `at_` says so (R421). -/
def State.makeLive (s : State) (x e : Nat) (keep at_ : Bool) : State :=
  let old := (s.ctx x).slotIn .live
  let s1 := match old with
    | some o => s.modSlot x o fun k => { k with st := .retiring, keep := keep }
    | none => s
  let s2 := s1.modSlot x e fun k => { k with st := .live }
  let s3 := if at_ then
      s2.notify 0x0003 (some x) ([BitVec.ofNat 8 e, BitVec.ofNat 8 (old.getD 0xFF), 0, 0] ++ leBytes 4 (s.editionOf x e).toNat)
    else s2
  match old with
  | some o => s3.retireSlot x o
  | none => s3

/-! ### Loading an image (R165, R166, R284, R288) -/

/-- The arguments of LOAD_IMAGE: image offset and length, plan offset and length. -/
def Job.imageArgs (j : Job) : Nat × Nat × Nat × Nat := (leAt j.args 0 8, leAt j.args 8 8, leAt j.args 16 8, leAt j.args 24 8)

/-- The image and the plan as they stand in the context's image range. -/
def State.imageBytes (s : State) (j : Job) : List Byte :=
  let (o, n, _, _) := j.imageArgs
  rdBytes s.lpddr ((s.ctx j.ctx.toNat).imgBase + o) n
def State.planBytes (s : State) (j : Job) : List Byte :=
  let (_, _, o, n) := j.imageArgs
  rdBytes s.lpddr ((s.ctx j.ctx.toNat).imgBase + o) n

/-- The image that a LOAD_IMAGE names. -/
def State.jobImage (s : State) (j : Job) : Loaded :=
  parseImage (s.imageBytes j) ((s.ctx j.ctx.toNat).imgBase + j.imageArgs.1)

/-- An image and a plan that pass every check replace the context's, once no batch of the context runs on them (R166). -/
def State.installImage (s : State) (x : Nat) (im : Loaded) : State :=
  s.modCtx x fun k => if s.batchOf x then { k with next := some im } else { k with loaded := some im }

/-- The digest of an image is done (R165, checks 0x03 to 0x0B; R288, check 0x10): the plan's digest is next, or a refusal. -/
def State.imageDigest (s : State) (j : Job) : State :=
  let s := s.useTurns .remote ((s.ctx j.ctx.toNat).imgBase + j.imageArgs.1) j.imageArgs.2.1
  let r := imageCheck2 (s.imageBytes j) (s.jobImage j) s.boot.cores s.boot.strict
  if r ≠ 0 then s.complete j 1 r []
  else
    let r2 := planCheck1 (s.planBytes j) (j.imageArgs.2.2.2)
    if r2 ≠ 0 then s.complete j 1 r2 [] else s.setPhase j .planDigest

/-- The digest of a plan is done (R288, checks 0x11 to 0x16): the pair is loaded, or refused. -/
def State.planDigest (s : State) (j : Job) : State :=
  let s := s.useTurns .remote ((s.ctx j.ctx.toNat).imgBase + j.imageArgs.2.2.1) j.imageArgs.2.2.2
  let p := s.planBytes j
  let x := j.ctx.toNat
  let im := (s.jobImage j).withPlan p ((s.ctx x).imgBase + j.imageArgs.2.2.1) j.imageArgs.2.2.2
  let r := planCheck2 p im s.nparts (s.ctx x).easize
  if r ≠ 0 then s.complete j 1 r [] else (s.installImage x im).complete j 0 0 (im.digest.take 16)

/-! ### Loading an edition (R310 to R312, R326) -/

/-- The slot of a LOAD_EDITION. -/
def Job.slotArg (j : Job) : Nat := leAt j.args 0 1

/-- The area of a LOAD_EDITION's slot: base and size. -/
def State.areaOf (s : State) (j : Job) : Nat × Nat :=
  let k := s.ctx j.ctx.toNat
  (k.areas.getD j.slotArg 0, k.easize)

/-- The manifest's bytes in an area. -/
def State.manifestBytes (s : State) (j : Job) : List Byte :=
  let a := (s.areaOf j).1
  let n := leNat (rdBytes s.lpddr (a + 0x20) 8)
  rdBytes s.lpddr a (if n ≤ (s.areaOf j).2 then n else 768)

/-- Result data of LOAD_EDITION: NBAD and FIRST (R310, R422). -/
def badData (bad : List Nat) : List Byte := leBytes 2 bad.length ++ leBytes 2 (bad.headD 0)

/-- A load fails before its shards are checked: the slot is FAILED and no shard is marked (R311). -/
def State.loadFails (s : State) (j : Job) (r : Nat) : State :=
  (s.modSlot j.ctx.toNat j.slotArg fun k => { k with st := .failed, edition := 0, bad := [], man := none, botFirst := [] }).complete j 1 r
    (badData [])

/-- First BOT entry of each run, from the slot's reservation on (R190, R302). -/
def botFirsts (base : Nat) : List (Nat × Nat) → List Nat
  | [] => []
  | r :: l => base :: botFirsts (base + r.1) l

/-- Write the runs of a manifest into the BOT. -/
def writeRuns (bot : Sparse Word32) (b : List Byte) : List (Nat × (Nat × Nat)) → Sparse Word32
  | [] => bot
  | (first, r) :: l =>
    let es := runEntries b r
    writeRuns ((List.range es.length).foldl (fun t i => sset 0 t (first + i) (BitVec.ofNat 32 (es.getD i 0))) bot) b l

/-- The TILE fields of the blocks of a payload: `n` blocks back to back, each in whole granules (R174, R282). -/
def blockTiles : Nat → List Byte → List Nat
  | 0, _ => []
  | n + 1, b =>
    if b.isEmpty then []
    else leAt b 4 4 :: blockTiles n (b.drop (64 * blockGranules b 85))

/-- The tiles of a shard's stored parcels. -/
def shardTiles : Nat → List Byte → List Nat
  | 0, _ => []
  | n + 1, b =>
    if b.isEmpty then []
    else
      let g := 64 * parNgran b
      blockTiles (parNblk b) ((b.drop 64).take g) ++ shardTiles n (b.drop (64 + g))

/-- The bytes of a shard. -/
def State.shardBytes (s : State) (x e : Nat) (d : Shard) : List Byte :=
  rdBytes s.lpddr ((s.ctx x).areas.getD e 0 + d.off) d.len

/-- Every check of a load has passed (R311): the BOT runs are written and the slot is VERIFIED. -/
def State.loadPasses (s : State) (j : Job) : State :=
  let x := j.ctx.toNat
  let e := j.slotArg
  let b := s.manifestBytes j
  let man := parseManifest b
  let firsts := botFirsts ((s.ctx x).bots.getD e 0) man.runs
  let s1 := { s with bot := writeRuns s.bot b (firsts.zip man.runs) }
  let tiles := man.shards.map fun d => shardTiles (d.len / 64 + 1) (s.shardBytes x e d)
  (s1.modSlot x e fun k => { k with st := .verified, bad := [], botFirst := firsts, tiles := tiles }).complete j 0 0 (badData [])

/-- The slot at the end of a repair (R326): shards that passed are no longer marked, also when others fail (DESIGN CHOICE, log entry 142: R326
is silent on their marks), every other mark stands, and DMG clears with the last. A slot that has been given up since, or repaired already, is
left as it is. -/
def Slot.repaired (k : Slot) (good : List Nat) : Slot :=
  if k.dmg then
    let bad := k.bad.filter fun i => !good.contains i
    { k with bad := bad, dmg := !bad.isEmpty }
  else k

/-- Every shard to be checked has been checked (R310, R311, R326). -/
def State.shardsDone (s : State) (j : Job) (bad good : List Nat) (reason : Byte) (repair : Bool) : State :=
  let x := j.ctx.toNat
  let e := j.slotArg
  if repair then
    (s.modSlot x e fun k => k.repaired good).complete j (if bad.isEmpty then 0 else 1)
      (if bad.isEmpty then 0 else reason.toNat) (badData bad)
  else if bad.isEmpty then s.loadPasses j
  else (s.modSlot x e fun k => { k with st := .failed, bad := bad }).complete j 1 reason.toNat (badData bad)

/-- Go on with the shards of a load: the next digest, or the end. -/
def State.shardStep (s : State) (j : Job) (todo bad good : List Nat) (reason : Byte) (repair : Bool) : State :=
  match todo with
  | [] => s.shardsDone j bad good reason repair
  | _ => s.setPhase j (.shardDigest todo bad good reason repair)

/-- Whether a command checks the shards of a slot's load: its manifest has passed check 0x22 (R305). -/
def Job.loadsSlot (j : Job) (x e : Nat) : Bool :=
  match j.phase with
  | .shardDigest _ _ _ _ _ => decide (j.ctx.toNat = x) && decide (leAt j.args 0 1 = e)
  | _ => false

/-- The editions resident in the other slots of a context (R305); one whose load has passed check 0x22 counts with them. -/
def State.residents (s : State) (x e : Nat) : List Word32 :=
  ((List.range 4).filter fun i => decide (i ≠ e) && (match ((s.ctx x).slot i).st with
    | .verified | .pending | .live | .retiring => true
    | .loading => s.jobs.any fun j => j.loadsSlot x i
    | _ => false)).map fun i => ((s.ctx x).slot i).edition

/-- The manifest's digest is done (R310, checks 0x21 to 0x25; R311): the shards are next, or a failure. -/
def State.manifestDone (s : State) (j : Job) : State :=
  let x := j.ctx.toNat
  let e := j.slotArg
  let k := s.ctx x
  let b := s.manifestBytes j
  let s := s.useTurns .remote (s.areaOf j).1 b.length
  let man := parseManifest b
  let ed : Word32 := BitVec.ofNat 32 (leAt b 8 4)
  let r := firstFail
    [(0x21, decide (digest512 (putBytes b 0x2C0 (zeros 64)) = man.digest)),
     (0x22, decide (leAt b 6 1 % 64 = x) && decide (ed ≠ 0) && decide (ed ≠ 0xFFFFFFFF) && !(s.residents x e).contains ed
        && decide (1 ≤ leAt b 0x14 4) && decide (leAt b 0x14 4 ≤ 8)),
     (0x23, shardsPlaced man k.easize), (0x24, man.tables.all tableOk), (0x25, runsOk b man k.botq)]
  if r ≠ 0 then s.loadFails j r
  else
    let old := k.slot e
    let marked := match old.man with
      | some m => if m.digest = man.digest ∧ old.bad ≠ [] then old.bad else List.range man.shards.length
      | none => List.range man.shards.length
    (s.modSlot x e fun k => { k with edition := ed, man := some man }).shardStep j marked [] [] 0 false

/-- Reason of a shard's first failing check of 0x26 and 0x27, or 0. -/
def State.shardReason (s : State) (x e i : Nat) : Nat :=
  let k := (s.ctx x).slot e
  match k.man with
  | some m => match m.shards[i]? with
    | some d =>
      let b := s.shardBytes x e d
      firstFail [(0x26, shardParcels x k.edition.toNat d b), (0x27, shardDigest d b)]
    | none => 0
  | none => 0

/-- The HKP reads the bytes of a shard for its digest (R390, R497). -/
def State.readShard (s : State) (x e i : Nat) : State :=
  match ((s.ctx x).slot e).man with
  | some m => match m.shards[i]? with
    | some d => s.useTurns .remote ((s.ctx x).areas.getD e 0 + d.off) d.len
    | none => s
  | none => s

/-- The digest of a load's next shard is done (R310, checks 0x26 and 0x27). -/
def State.shardDone (s : State) (j : Job) (todo bad good : List Nat) (reason : Byte) (repair : Bool) : State :=
  match todo with
  | [] => s.shardsDone j bad good reason repair
  | i :: r =>
    let s1 := s.readShard j.ctx.toNat j.slotArg i
    let c := s.shardReason j.ctx.toNat j.slotArg i
    if c = 0 then s1.shardStep j r bad (good ++ [i]) reason repair
    else s1.shardStep j r (bad ++ [i]) good (if reason = 0 ∨ c < reason.toNat then BitVec.ofNat 8 c else reason) repair

/-- The area's bytes are in place and the checks begin (R310): check 0x20 at once, or the damaged shards alone (R326). -/
def State.beginLoad (s : State) (j : Job) (repair : Bool) : State :=
  let k := (s.ctx j.ctx.toNat).slot j.slotArg
  if repair then s.setPhase j (.shardDigest k.bad [] [] 0 true)
  else if manifestShape (rdBytes s.lpddr (s.areaOf j).1 (Nat.max 768 (s.manifestBytes j).length)) (s.areaOf j).2 then s.setPhase j .manDigest
  else s.loadFails j 0x20

/-- Whether an installation position is that of a module of the slice to which a context is bound (R312, R332): the member entry says where in
the slice this module stands. A context that is bound to no slice has none to compare with (log entry 52). -/
def State.inSlice (s : State) (x pos idx : Nat) : Bool :=
  match (s.ctx x).tag, s.links.plan with
  | some t, some pl =>
    let e := s.route t.toNat
    decide ((pos + pl.ringlen + e.pos - pl.pos) % pl.ringlen < e.len) && decide (pl.idx ≤ idx + e.idx) && decide (idx + e.idx < pl.idx + e.nr)
  | _, _ => true

/-- FRAG of a request for a peer's edition. -/
def askFrag : Nat := 0xFFFFFFFF

/-- Ask a peer for an edition (R312, R368). The spec gives a request no form; the model's is a MSG word with FRAG all ones and FLAGS 0 whose
DATA holds this module's position and index, the peer's context and slot, and the edition that must stand there, 0 for any (log entry 52). -/
def State.askPeer (s : State) (j : Job) (n : Byte) (ed : Word32) : State :=
  match s.links.plan with
  | none => s
  | some pl =>
    let (pos, idx) := (leAt j.args 2 1, leAt j.args 3 1)
    let b := msgBody pos idx n 0 askFrag
      (leBytes 1 pl.pos ++ leBytes 1 pl.idx ++ leBytes 1 (leAt j.args 4 1) ++ leBytes 1 (leAt j.args 5 1) ++ leBytes 4 ed.toNat)
    match msgPort pl pos idx with
    | some q => if (s.port q).st = .ready then s.sendWord q 4 0 b else s
    | none => s

/-- Whether a command receives a transfer stream. -/
def Job.streams (j : Job) (n : Byte) : Bool :=
  match j.phase with
  | .peerLoad m _ => decide (m = n)
  | _ => false

/-- The lowest transfer stream that no command uses (R339, R368): STREAM is a byte. -/
def State.freeStream (s : State) : Option Byte :=
  ((List.range 256).find? fun n => !(s.jobs.any fun j => j.streams (BitVec.ofNat 8 n))).map (BitVec.ofNat 8)

end Sys2Proof.Machine
end

