-- ==== Sys2Proof/Machine/Editions.lean ====
section
/-! DEFINITION. The switch of editions, the digests of loads, of the scrubber and of R198, and the transfer service (R312 to R316, R325 to
R330, R368, R497). -/
namespace Sys2Proof.Machine

/-- EDITION_SWITCH (R314 to R316, R420, R421): the Milestone has reached AT; a damaged slot is not switched to. -/
def execEditionSwitch (x : CtxId) (s : State) : Host.Outcome State Fault Refusal :=
  let k := s.ctx x.val
  match k.slotIn .pending with
  | none => .next s
  | some e =>
    if s.ring.ms < k.at_ then .next s
    else
      let keep := k.atKeep
      let s1 := s.modCtx x.val fun k => { k with at_ := 0, atKeep := false }
      let d := k.slot e
      if d.dmg then
        let s2 := (s1.modSlot x.val e fun y => { y with st := .verified }).notify 0x0004 (some x.val)
          ([BitVec.ofNat 8 e, 0, 0, 0] ++ leBytes 4 d.edition.toNat)
        .next (s2.logEvent { code := 0x0503, ctx := BitVec.ofNat 8 x.val, a0 := BitVec.ofNat 32 e, a1 := d.edition })
      else .next (s1.makeLive x.val e keep true)

/-! ### Damage (R325) -/

/-- A shard's digest has failed (R325): the event is logged, and the slot takes its marks when the record is handled (R468). Shard 0xFFFF is the
manifest. -/
def State.damage (s : State) (x e i : Nat) : State :=
  let ed := s.editionOf x e
  ({ s with err := { s.err with acts := s.err.acts ++ [(0x0501, CondAct.damage x e (if i = 0xFFFF then none else some i) ed)] } }).raise
    { code := 0x0501, ctx := BitVec.ofNat 8 x, a0 := BitVec.ofNat 32 e, a1 := ed, a2 := BitVec.ofNat 32 i }

/-- Keep the list of damaged shards in ascending order. -/
def insertSorted (i : Nat) : List Nat → List Nat
  | [] => [i]
  | a :: l => if i < a then i :: a :: l else a :: insertSorted i l

/-- DMG, and the shard marked, with the DAMAGED notice (R325, R421): of a slot that still holds the edition. -/
def State.markDamage (s : State) (x e : Nat) (i : Option Nat) (ed : Word32) : State :=
  let k := (s.ctx x).slot e
  if k.st.scrubbed ∧ k.edition = ed then
    let s1 := s.modSlot x e fun k => { k with dmg := true, bad := match i with
      | some n => if n ∈ k.bad then k.bad else insertSorted n k.bad
      | none => k.bad }
    s1.notify 0x0006 (some x) ([BitVec.ofNat 8 e, 0] ++ leBytes 2 (i.getD 0xFFFF) ++ leBytes 4 ed.toNat)
  else s

/-- Whether the bytes of a shard, or of the manifest, give the digest that the manifest records. -/
def State.digestHolds (s : State) (x e i : Nat) : Bool :=
  match ((s.ctx x).slot e).man with
  | none => true
  | some m =>
    if i = 0xFFFF then
      decide (digest512 (putBytes (rdBytes s.lpddr ((s.ctx x).areas.getD e 0) m.manlen) 0x2C0 (zeros 64)) = m.digest)
    else match m.shards[i]? with
      | some d => shardDigest d (s.shardBytes x e d)
      | none => true

/-- The HKP reads the bytes of a shard, or of the manifest, for its digest (R327, R390). -/
def State.readItem (s : State) (x e i : Nat) : State :=
  if i = 0xFFFF then
    match ((s.ctx x).slot e).man with
    | some m => s.useTurns .remote ((s.ctx x).areas.getD e 0) m.manlen
    | none => s
  else s.readShard x e i

/-! ### The scrubber (R327) -/

/-- Whether a command is a REGEN_IDENTITY that has taken the digest lanes (R490, step 1). -/
def Job.takesLanes (j : Job) : Bool :=
  match j.phase with
  | .regen n _ => decide (n ≠ 0)
  | _ => false

/-- SCRUB_ROTATION (R327, R330): PERIOD has passed; a rotation still in progress finishes first and Scrub Late is logged. -/
def execScrubRotation (s : State) : Host.Outcome State Fault Refusal :=
  if !s.boot.ready || s.boot.halt then .next s
  else if s.scrub.run then
    .next (({ s with scrub := { s.scrub with late := true, due := true } }).logEvent
      { code := 0x0502, a0 := BitVec.ofNat 32 (s.scrub.ctx + 256 * s.scrub.slot) })
  else .next s.startRotation

/-- SCRUB_DIGEST_DONE (R325, R327, R490, R497): the digest of the item being scrubbed is done; of the items on several lanes the first ends first
(log entry 134). The scrubber pauses while REGEN_IDENTITY has the lanes. -/
def execScrubDigestDone (s : State) : Host.Outcome State Fault Refusal :=
  match s.scrub.run && !s.jobs.any Job.takesLanes, s.scrub.todo with
  | true, (x, e, i, ed) :: l =>
    let s1 := { s with scrub := { s.scrub with todo := l } }
    let s1 := if s.scrubs (x, e, i, ed) then s1.readItem x e i else s1
    let s2 :=
      if s.scrubs (x, e, i, ed) && !s.digestHolds x e i then
        (({ s1 with scrub := { s1.scrub with err := sat32 s1.scrub.err 1 } }).damage x e i)
      else s1
    .next s2.scrubNext.scrubDue
  | _, _ => .next s

/-! ### Re-digests (R198) -/

/-- The shard of a slot that holds a tile, as the load that verified it found them. -/
def Slot.shardOf (k : Slot) (t : Nat) : Option Nat :=
  if k.st.scrubbed then (List.range k.tiles.length).find? fun i => (k.tiles.getD i []).contains t else none

/-- The shards that TILE and TEXP of a failed fill name in one slot, TILE's first. -/
def Slot.shardsOf (k : Slot) (r : Redigest) : List Nat :=
  ((k.shardOf r.tile.toNat).toList ++ (k.shardOf r.texp.toNat).toList).eraseDups

/-- The slot and the shards that a failed fill calls to be digested (R198): tile numbers are unique within one edition only (R175), so the slots
that its run had bound come first, then every resident slot in ascending order (log entry 107). -/
def State.failedShards (s : State) (r : Redigest) : Option (Nat × Nat × List Nat) :=
  (r.bound ++ (List.range 64).flatMap fun x => (List.range 4).map fun e => (x, e)).findSome? fun (x, e) =>
    match ((s.ctx x).slot e).shardsOf r with
    | [] => none
    | l => some (x, e, l)

/-- The tests-valid token is invalidated (R451): its byte VALID becomes 0x00. -/
def State.dropToken (s : State) : State := { s with keep := { s.keep with token := s.keep.token.set 6 0 } }

/-- REDIGEST_DONE (R198, R325, R451): the home shards of a failed fill have been digested again; a failed digest damages its slot, and when
every one passes the token is invalidated. -/
def execRedigestDone (s : State) : Host.Outcome State Fault Refusal :=
  match s.redigests with
  | [] => .next s
  | r :: l =>
    if s.jobs.any Job.takesLanes then .next s
    else
    let s1 := { s with redigests := l }
    match s.failedShards r with
    | some (x, e, is) =>
      let s2 := is.foldl (fun s i => s.readShard x e i) s1
      let bad := is.filter fun i => !s.digestHolds x e i
      .next (if bad.isEmpty then s2.dropToken else bad.foldl (fun s i => s.damage x e i) s2)
    | none => .next s1

/-! ### Digests of loads -/

/-- Whether a command waits for a digest. -/
def Job.digests (j : Job) : Bool :=
  match j.phase with
  | .imgDigest | .planDigest | .manDigest | .shardDigest _ _ _ _ _ => true
  | _ => false

/-- Whether the lanes go to no load now (R490, R496): REGEN_IDENTITY has taken them all, or a re-digest, which comes before loads, is on each. -/
def State.lanesBusy (s : State) : Bool :=
  s.jobs.any Job.takesLanes
    || (!s.redigests.isEmpty && decide (((List.range 4).filter fun i => s.trust.lanesIn.getLsbD i).length ≤ s.redigests.length))

/-- LOAD_DIGEST_DONE (R165, R288, R310, R311, R326, R490, R496, R497): the next digest of the earliest load is done. -/
def execLoadDigestDone (s : State) : Host.Outcome State Fault Refusal :=
  if s.lanesBusy then .next s
  else match s.jobs.find? Job.digests with
  | none => .next s
  | some j => match j.phase with
    | .imgDigest => .next (s.imageDigest j)
    | .planDigest => .next (s.planDigest j)
    | .manDigest => .next (s.manifestDone j)
    | .shardDigest todo bad good r rep => .next (s.shardDone j todo bad good r rep)
    | _ => .next s

/-! ### The transfer service (R368) -/

/-- Route a MSG word on, over a READY port only. -/
def State.routeMsg (s : State) (pl : CPlan) (pos idx : Nat) (body : List Byte) : State :=
  match msgPort pl pos idx with
  | some q => if (s.port q).st = .ready then s.sendWord q 4 0 body else s
  | none => s

/-- Whether every fragment of a stream has been stored. -/
def MsgStream.complete (x : MsgStream) : Bool :=
  match x.last with
  | some n => (List.range (n + 1)).all fun i => x.frags.any fun f => decide (f.1 = i)
  | none => false

/-- Store a fragment of a stream. -/
def MsgStream.store (x : MsgStream) (frag : Nat) (d : List Byte) (last : Bool) (ms : Nat) : MsgStream :=
  if x.frags.any fun f => decide (f.1 = frag) then x
  else { x with frags := x.frags ++ [(frag, d)], last := if last then some frag else x.last, progress := ms }

/-- The lowest fragment of a stream that is not stored. -/
def MsgStream.missing (x : MsgStream) : Nat :=
  ((List.range (x.frags.length + 1)).find? fun i => !(x.frags.any fun f => decide (f.1 = i))).getD 0

/-- Whether a fragment calls for an ACK (R368): every 64 fragments stored, and when all are. -/
def MsgStream.ackDue (x : MsgStream) : Bool := decide (x.frags.length % 64 = 0) || x.complete

/-- Write a received fragment into the area (R312): all of it, or in a repair only what lies in the shards marked damaged (R326). -/
def State.putFragment (s : State) (j : Job) (repair : Bool) (f : Nat × List Byte) : State :=
  let a := (s.areaOf j).1 + 32 * f.1
  let ok (i : Nat) : Bool := !repair || covered (((s.ctx j.ctx.toNat).slot j.slotArg).badRanges (s.areaOf j).1) (a + i) 1
  let s1 := { s with lpddr := (List.range f.2.length).foldl (fun m i => if ok i then wrByte m (a + i) (f.2.getD i 0) else m) s.lpddr }
  s1.useTurns .remote a f.2.length

/-- A fragment for the peer load that receives a stream (R311, R312, R368): fragment f holds bytes 32f to 32f + 31 of the edition area, and one
beyond EASIZE is dropped. An ACK names the lowest fragment still missing. When all are there, they are written and the checks begin. -/
def State.takeFragment (s : State) (j : Job) (stream : Byte) (repair : Bool) (b : List Byte) : State :=
  let frag := leAt b 4 4
  let last := bitOf (leAt b 3 1) 1
  if (s.areaOf j).2 < 32 * frag + 32 then s
  else match s.links.streams.find? fun x => decide (x.stream = stream) with
  | none => s
  | some x =>
    let y := x.store frag ((b.drop 8).take 32) last s.ring.ms
    let s1 := { s with links := { s.links with streams := replaceFirst (fun z => decide (z = x)) (fun _ => y) s.links.streams } }
    let s2 := match s.links.plan with
      | some pl =>
        if y.ackDue then
          s1.routeMsg pl (leAt j.args 2 1) (leAt j.args 3 1) (msgBody (leAt j.args 2 1) (leAt j.args 3 1) stream 1 y.missing
            (leBytes 1 pl.pos ++ leBytes 1 pl.idx))
        else s1
      | none => s1
    if y.complete then
      let s3 := y.frags.foldl (fun s f => s.putFragment j repair f) s2
      let k := { j with phase := .runWaiting }
      (({ s3 with
          links := { s3.links with streams := s3.links.streams.erase y }
          jobs := replaceFirst (fun z => decide (z = j)) (fun _ => k) s3.jobs }).beginLoad k repair)
    else s2

/-- Bytes of an edition area that its manifest and its shards take up. -/
def Manifest.extent (m : Manifest) : Nat := m.shards.foldl (fun n d => Nat.max n (d.off + d.len)) m.manlen

/-- A peer asks for an edition (R312): its bytes are served when the slot is VERIFIED, PENDING, LIVE or RETIRING, holds no damage and holds the
edition asked for. A request that is not served meets no answer, and the peer's load fails by R368. -/
def State.servePeer (s : State) (stream : Byte) (d : List Byte) : State :=
  let (x, e) := (leAt d 2 1 % 64, leAt d 3 1 % 4)
  let k := (s.ctx x).slot e
  match k.man with
  | some m =>
    if k.st.scrubbed && !k.dmg && (decide (leAt d 4 4 = 0) || decide (leAt d 4 4 = k.edition.toNat)) then
      { s with links := { s.links with sends := s.links.sends ++
          [⟨leAt d 0 1, leAt d 1 1, stream, (s.ctx x).areas.getD e 0, (m.extent + 31) / 32, 0, 0, s.ring.ms⟩] } }
    else s
  | none => s

/-- An ACK (R368): the fragments below the one that it names have arrived; the sender goes on, and ends when that is all of them. -/
def MsgSend.ack (x : MsgSend) (frag ms : Nat) : MsgSend :=
  { x with acked := Nat.max x.acked frag, next := Nat.max x.next frag, progress := if x.acked < frag then ms else x.progress }

/-- Take an ACK from the module at a position. -/
def State.takeAck (s : State) (stream : Byte) (b : List Byte) : State :=
  let mine (x : MsgSend) : Bool := decide (x.stream = stream) && decide (x.pos = leAt b 8 1) && decide (x.idx = leAt b 9 1)
  let l := s.links.sends.map fun (x : MsgSend) => if mine x then x.ack (leAt b 4 4) s.ring.ms else x
  { s with links := { s.links with sends := l.filter fun x => decide (x.acked < x.count) } }

/-- The phase of a command that receives a stream: whether it repairs. -/
def Job.repairs (j : Job) : Bool :=
  match j.phase with
  | .peerLoad _ r => r
  | _ => false

/-- MSG_RECEIVED (R340, R368): a word for another module is routed on; an ACK, a request or a fragment for this one is taken. -/
def execMsgReceived (q : PortId) (w : List Byte) (s : State) : Host.Outcome State Fault Refusal :=
  .next (s.wordIn q.val w (some 4) none fun s =>
    let b := wordBody w
    match s.links.plan with
    | none => s
    | some pl =>
      if leAt b 0 1 = pl.pos ∧ leAt b 1 1 = pl.idx then
        if bitOf (leAt b 3 1) 0 then s.takeAck (byteAt b 2) b
        else if leAt b 4 4 = askFrag then s.servePeer (byteAt b 2) (b.drop 8)
        else match s.jobs.find? fun j => j.streams (byteAt b 2) with
        | some j => s.takeFragment j (byteAt b 2) j.repairs b
        | none => s
      else s.routeMsg pl (leAt b 0 1) (leAt b 1 1) b)

/-- A slot whose load has failed before its shards were checked (R311). -/
def Slot.stalled (k : Slot) : Slot :=
  if k.st = .loading then { k with st := .failed, edition := 0, bad := [], man := none, botFirst := [] } else k

/-- TRANSFER_STALL (R368): a stream without progress for 2^20 steps fails, and the load that it served reports it. A sender's ends with it. -/
def execTransferStall (s : State) : Host.Outcome State Fault Refusal :=
  let stuck (t : Nat) : Bool := decide (t + 2 ^ 20 ≤ s.ring.ms)
  let s := { s with links := { s.links with sends := s.links.sends.filter fun x => !stuck x.progress } }
  match s.links.streams.find? fun x => stuck x.progress with
  | none => .next s
  | some x =>
    let s1 := { s with links := { s.links with streams := s.links.streams.erase x } }
    match s.jobs.find? fun j => j.streams x.stream with
    | some j => .next ((s1.modSlot j.ctx.toNat j.slotArg Slot.stalled).complete j 0x10 0 (badData []))
    | none => .next s1

end Sys2Proof.Machine
end

