-- ==== Sys2Proof/Machine/Expander.lean ====
section
/-! DEFINITION. MM.LW and the expander's fills (R77 to R79, R91, R94, R191 to R201). -/
namespace Sys2Proof.Machine

/-- MM.LW (R77, R90): placed in the matrix queue. -/
def execMmLw (c : CoreId) (h : Hdr) (ts : Tile16) (ls : Bool) (s : State) : Host.Outcome State Fault Refusal :=
  .next (s.issueMm c.val h (.lw ts ls) [])

/-- The source register and set of an item of the load list. -/
def LwItem.args (x : LwItem) : Tile16 × Bool :=
  match x.ent.op with
  | .lw ts ls => (ts, ls)
  | _ => (0, false)

/-- The MM.LW whose fill comes next, once every earlier compute instruction that names its set has started (R91). -/
def Core.fillable (k : Core) : Option LwItem :=
  match k.lws.find? fun x => x.fill.isNone with
  | none => none
  | some x =>
    let waits := k.cmps.any fun y => decide (y.ent.seq < x.ent.seq) && y.start.isNone && (match y.ent.op with
      | .comp _ a => decide (a.ls = x.args.2)
      | _ => false)
    if waits then none else some x

/-- The first beat of a fill (R91). -/
def Core.fillBeat (k : Core) (x : LwItem) : Nat := Nat.max x.disp (Nat.max k.fillNext (k.latch x.args.2).freeAt)

/-- A fill starts at beat f: the register as it stands is what it reads (R78, R94, R194, R200). DESIGN CHOICE (log entry 101): its set, and with
it RDY, is not ready from this beat on and not from the dispatch of MM.LW. -/
def Core.startFill (k : Core) (x : LwItem) (f : Nat) : Core :=
  let (ts, ls) := x.args
  let t := k.engTile ts.val
  let k := k.setLatch ls { k.latch ls with ready := false }
  { k with
    lws := replaceFirst (fun y => y.fill.isNone) (fun y => { y with fill := some ⟨f, t, false⟩ }) k.lws
    fillNext := f + 32
    xlkind := BitVec.ofNat 4 (hdrKind t.hdr)
    xltr := ts }

/-- FILL_START (R91, R94, R194): the next fill starts. -/
def execFillStart (c : CoreId) (s : State) : Host.Outcome State Fault Refusal :=
  let s1 := s.pumpUntil c.val fun k => k.fillable.isSome
  match (s1.core c.val).fillable with
  | none => .next s
  | some x =>
    let f := (s1.core c.val).fillBeat x
    let s2 := s1.sync c.val (f - 1)
    if (s2.core c.val).engLive then .next (s2.modCore c.val fun k => (k.startFill x f).noteDone f) else .next s2

/-- The writes held by a fill take effect at the end of beat e, in order, but for those of a register that a running fill holds
(R94, R193); a vector instruction whose last held write takes effect completes in the next beat or later (R130). -/
def Core.releaseHeld (k : Core) (e : Nat) : Core :=
  let (go, keep) := k.held.partition fun w => !k.filling w.reg
  let ves := k.ves.map fun (x : VeItem) =>
    let rest := x.heldIn.filter k.filling
    if rest.length < x.heldIn.length then ({ x with heldIn := rest, done := Nat.max x.done (e + 1) } : VeItem) else x
  go.foldl Core.applyHeld { k with held := keep, ves := ves }

/-- Whether an item's fill runs and has not released its held writes. -/
def LwItem.holding (x : LwItem) : Bool :=
  match x.fill with
  | some f => !f.released
  | none => false

/-- Mark the release of a fill. -/
def LwItem.markReleased (x : LwItem) : LwItem := { x with fill := x.fill.map fun (f : FillRun) => ({ f with released := true } : FillRun) }

/-- The oldest fill past its 32nd beat releases its writes at beat f + 32; a fill of the same register that starts on that
beat holds them again (R94). -/
def Core.releaseFill (k : Core) : Core :=
  match k.lws.find? LwItem.holding with
  | some ⟨ent, disp, some f⟩ =>
    let k1 := { k with lws := replaceFirst LwItem.holding LwItem.markReleased k.lws }
    let again := match k1.fillable with
      | some y => decide (y.args.1 = (LwItem.mk ent disp (some f)).args.1) && decide (k1.fillBeat y = f.start + 32)
      | none => false
    if again then k1 else k1.releaseHeld (f.start + 32)
  | _ => k

/-- HELD_WRITES_RELEASE (R94, R131): at the end of the beat after the 32nd fill beat, before the other writes of that beat. -/
def execHeldWritesRelease (c : CoreId) (s : State) : Host.Outcome State Fault Refusal :=
  match (s.core c.val).lws.find? LwItem.holding with
  | some ⟨_, _, some f⟩ =>
    let s1 := s.syncIn c.val (f.start + 32)
    if (s1.core c.val).engLive then .next (s1.modCore c.val fun k => k.releaseFill.noteDone (f.start + 32)) else .next s1
  | _ => .next s

/-- CORE_MMWAIT of a fill whose set is ready from beat r on, or of a failed one after its last beat r − 1 (R97): the beats before r in which the
running slot waited. -/
def Core.countWait (k : Core) (ls : Bool) (f r : Nat) : Core :=
  match k.cmps.find? fun x => x.start.isNone with
  | some x =>
    let same := match x.ent.op with
      | .comp _ a => decide (a.ls = ls)
      | _ => false
    if same then { k with mmwait := wrap32 k.mmwait (r - k.waitBeat ls f x.disp) } else k
  | none => k

/-- Whether a fill of a latch set runs. -/
def Core.fillRuns (k : Core) (ls : Bool) : Bool := k.lws.any fun x => x.fill.isSome && decide (x.args.2 = ls)

/-- A fill that passes its checks (R73, R78, R187, R194, R201): the set holds the expanded tile and is ready at beat r, but for one that the
next fill is filling by now (R79). Its invalid codes are added at the end of the beat (R61). DESIGN CHOICE (log entry 130): SRC and E2 change in
this beat alone, and a failed fill leaves the old ones. -/
def Core.fillReady (k : Core) (ts : Tile16) (ls : Bool) (t : Tile) (r : Nat) : Core :=
  let (rows, scale, esc, inv) := expand t (sget 0 k.tables (hdrTable t.hdr))
  let l := k.latch ls
  let k := k.setLatch ls { l with
    bytes := wrBytes (wrBytes (wrBytes [] 0 rows) 4096 scale) 4352 esc
    src := ts, e2 := escTwo esc, ready := !k.fillRuns ls, readyAt := r }
  { k with
    pendClip := if inv = 0 then k.pendClip else k.pendClip ++ [(r, ts.val, inv)]
    xfills := wrap32 k.xfills 1, xopen := if t.isOpen then wrap32 k.xopen 1 else k.xopen }

/-- A fill that fails in beat r (R197, R200): what the expander records; the set is not ready, and its waits are counted to the beat's end
(R97). -/
def Core.fillFailed (k : Core) (ts : Tile16) (ls : Bool) (t : Tile) (cause r : Nat) : Core :=
  { (k.setLatch ls { k.latch ls with readyAt := r + 1 }) with xfail := true, xcause := BitVec.ofNat 3 cause, xftr := ts, xfls := ls, xftile := BitVec.ofNat 32 (hdrTile t.hdr) }

/-- FILL_VERDICT (R78, R95, R195 to R198): at fill start + 34 the set becomes ready and MM.LW signals, or the fill fails:
the core halts and Tile Checksum Failure or Block Length Mismatch is raised. A failed MM.LW stays in the load list, dispatched and not ready
(R96, R197). -/
def execFillVerdict (c : CoreId) (s : State) : Host.Outcome State Fault Refusal :=
  match (s.core c.val).lws with
  | ⟨ent, disp, some f⟩ :: _ =>
    let r := f.start + 34
    let s1 := s.sync c.val (r - 1)
    if !(s1.core c.val).engLive then .next s1
    else
      let (ts, ls) := (LwItem.mk ent disp (some f)).args
      let s2 := s1.modCore c.val fun k =>
        let k := if (match k.lws with
          | ⟨_, _, some g⟩ :: _ => g.released
          | _ => true) then k else k.releaseFill
        k.noteDone r
      let cause := fillCause f.tile (s.core c.val).tables
      if cause = 0 then
        .next ((s2.modCore c.val fun k =>
          ({ (k.countWait ls f.start r) with lws := k.lws.drop 1 }).fillReady ts ls f.tile r).signalHdr c.val ent.h 1 ent.pc r)
      else
        let s3 := s2.modCore c.val fun k => (k.countWait ls f.start (r + 1)).fillFailed ts ls f.tile cause r
        let tile := BitVec.ofNat 32 (hdrTile f.tile.hdr)
        .next (s3.coreFault c.val r (if cause ≤ 3 then 0x0101 else 0x0102) (BitVec.ofNat 16 ent.pc.toNat) tile f.tile.texp
          (BitVec.ofNat 32 (ts.val + 16 * b2n ls + 256 * cause)) (BitVec.ofNat 32 r))
  | _ => .next s

end Sys2Proof.Machine
end

