-- ==== Sys2Proof/Machine/Mailbox.lean ====
section
/-! DEFINITION. The mailbox registers and the commands of the basic level (R408 to R425). Each command row takes the entry at CHEAD of
its mailbox when the firmware's turn is there and the entry spells that command; else it is turned away. -/
namespace Sys2Proof.Machine

/-! ### Host writes to a mailbox page (R416, R418, R431, R434) -/

/-- A doorbell (R416, R434); before READY the write is dropped (R436). -/
def State.doorbell (s : State) (m : MbxId) (w : RegWrite) : State :=
  let v := w.value
  let x := s.mbox m.val
  let t : BitVec 9 := v.truncate 9
  let n := (t - x.ctail).toNat
  if !s.boot.ready then s
  else if !x.armed then s.misuse m.val 1 0x0C w.rid
  else if 512 ≤ v.toNat then s.misuse m.val 2 0x0C w.rid
  else if 256 < (x.ctail - x.chead).toNat + n then s.misuse m.val 3 0x0C w.rid
  else s.modMbox m.val fun x => { x with ctail := t }

/-- A write of MBX_RHEAD (R409, R431, R434). -/
def State.writeRhead (s : State) (m : MbxId) (w : RegWrite) : State :=
  let v := w.value
  let x := s.mbox m.val
  let t : BitVec 9 := v.truncate 9
  if !s.boot.ready then s
  else if !x.armed then s.misuse m.val 7 0x1C w.rid
  else if (x.rtail - x.rhead).toNat < (t - x.rhead).toNat then s.misuse m.val 5 0x1C w.rid
  else s.modMbox m.val fun x => { x with rhead := t }

/-- A write of MBX_NHEAD (R409, R431, R434). -/
def State.writeNhead (s : State) (m : MbxId) (w : RegWrite) : State :=
  let v := w.value
  let x := s.mbox m.val
  let t : Byte := v.truncate 8
  if !s.boot.ready then s
  else if !x.armed then s.misuse m.val 7 0x24 w.rid
  else if (x.ntail - x.nhead).toNat < (t - x.nhead).toNat then s.misuse m.val 5 0x24 w.rid
  else s.modMbox m.val fun x => { x with nhead := t }

/-- DOORBELL (R416, R434). -/
def execDoorbell (m : MbxId) (v : RegWrite) (s : State) : Host.Outcome State Fault Refusal := .next (s.doorbell m v)

/-- MBX_RHEAD_WRITE (R409, R431, R434). -/
def execMbxRheadWrite (m : MbxId) (v : RegWrite) (s : State) : Host.Outcome State Fault Refusal := .next (s.writeRhead m v)

/-- MBX_NHEAD_WRITE (R409, R431, R434). -/
def execMbxNheadWrite (m : MbxId) (v : RegWrite) (s : State) : Host.Outcome State Fault Refusal := .next (s.writeNhead m v)

/-- Whether a page offset lies in an entry from CHEAD to CTAIL − 1 (R418). -/
def Mbx.owned (x : Mbx) (off : Nat) : Bool :=
  decide (0x1000 ≤ off) && decide (off < 0x9000)
    && decide (((off - 0x1000) / 128 + 512 - x.chead.toNat) % 256 < (x.ctail - x.chead).toNat)

/-- Write the bytes of a host write that fall in the command ring and in no entry that the module owns. -/
def Mbx.hostBytes (x : Mbx) (off : Nat) : List Byte → Mbx
  | [] => x
  | b :: r =>
    Mbx.hostBytes (if decide (0x1000 ≤ off) && decide (off < 0x9000) && !x.owned off then { x with page := wrByte x.page off b } else x)
      (off + 1) r

/-- A write of a register of a mailbox page (R409, R416, R431, R434). -/
def State.mailboxReg (s : State) (m : MbxId) (off : Nat) (w : RegWrite) : State :=
  match off with
  | 0x0C => s.doorbell m w
  | 0x1C => s.writeRhead m w
  | 0x24 => s.writeNhead m w
  | _ => if !s.boot.ready || (s.mbox m.val).armed then s else s.misuse m.val 7 off w.rid

/-- MAILBOX_ENTRY_WRITE (R14, R408, R418, R429, R434): a host write to a page. Below 0x1000 it meets the registers, and must be of whole words;
in the rings it never touches an entry the module owns, nor the completion and notice rings. -/
def execMailboxEntryWrite (m : MbxId) (off : BitVec 16) (w : HostWrite) (s : State) : Host.Outcome State Fault Refusal :=
  let x := s.mbox m.val
  let o := off.toNat
  let n := w.bytes.length
  if s.alive = false ∨ n = 0 ∨ 0x10000 < o + n then .next s
  else if o < 0x1000 then
    if wholeWords o n && decide (o + n ≤ 0x1000) then .next ((regWords o w.bytes).foldl (fun s r => s.mailboxReg m r.1 ⟨r.2, w.rid⟩) s)
    else .next (s.unsupported (BitVec.ofNat 32 (0x100000 + 0x10000 * m.val + o)) w.rid)
  else if s.boot.ready = false then .next s
  else if !x.armed then .next (s.misuse m.val 7 o w.rid)
  else if 0x9000 ≤ o then .next (s.misuse m.val 6 o w.rid)
  else if 0x9000 < o + n then .next (s.misuse m.val 6 0x9000 w.rid)
  else
    let s1 := s.modMbox m.val fun x => x.hostBytes o w.bytes
    match (List.range n).find? fun i => x.owned (o + i) with
    | some i => .next (s1.misuse m.val 4 (o + i) w.rid)
    | none => .next s1

/-! ### The commands -/

/-- No argument. -/
def noArgs (_ : List Byte) : Bool := true

/-- Every entry with the right OPC is this row's. -/
def anyArgs (_ : List Byte) : Bool := true

/-- STATUS (R422): GLB_STATE, CORES, strict mode, the open-context mask, INPROG. -/
def execStatus (m : MbxId) (s : State) : Host.Outcome State Fault Refusal :=
  .next (s.startCmd m ⟨0x0001, .plain, [], noArgs⟩ anyArgs fun s j =>
    let mask := ((List.range 64).map fun x => if (s.ctx x).opened then 2 ^ x else 0).sum
    s.reply j 0 0 (leBytes 4 s.glbState ++ leBytes 2 s.boot.cores ++ leBytes 2 (b2n s.boot.strict) ++ leBytes 8 mask
      ++ leBytes 1 (s.inprog m.val + 1)))

/-- OPEN_CONTEXT (R300 to R302). -/
def execOpenContext (m : MbxId) (s : State) : Host.Outcome State Fault Refusal :=
  .next (s.startCmd m ⟨0x0002, .context, [(0, 20)], fun a => decide (1 ≤ leAt a 0 4) && decide (leAt a 0 4 ≤ 4)⟩ anyArgs fun s j =>
    let x := j.ctx.toNat
    if (s.ctx x).opened then s.reply j 7 0x41 []
    else match s.placeCtx (leAt j.args 0 4) (leAt j.args 4 4 * unit64) (leAt j.args 8 4 * unit64) (leAt j.args 12 4 * unit64)
        (leAt j.args 16 4 * 4096) with
    | some k => (s.modCtx x fun _ => k).reply j 0 0 k.openData
    | none => s.reply j 8 0 [])

/-- CLOSE_CONTEXT (R303). -/
def execCloseContext (m : MbxId) (s : State) : Host.Outcome State Fault Refusal :=
  .next (s.startCmd m ⟨0x0003, .context, [], noArgs⟩ anyArgs fun s j => s.needOpen j fun s =>
    let x := j.ctx.toNat
    if (List.range 4).any (fun e => decide (((s.ctx x).slot e).pin ≠ 0)) || s.jobs.any (fun k => k.names x) then s.reply j 7 0x45 []
    else (s.closeCtx x).reply j 0 0 [])

/-- LOAD_IMAGE (R165, R284): checks 0x01 and 0x02 at once; the digests follow. -/
def execLoadImage (m : MbxId) (s : State) : Host.Outcome State Fault Refusal :=
  .next (s.startCmd m ⟨0x0010, .context, [(0, 32)], noArgs⟩ anyArgs fun s j => s.needOpen j fun s =>
    let (io, il, po, pl) := j.imageArgs
    let sz := (s.ctx j.ctx.toNat).imgsize
    if sz < io + il ∨ sz < po + pl then s.reply j 3 0x40 []
    else
      let r := imageCheck1 (s.imageBytes j) (s.jobImage j) il
      if r ≠ 0 then s.reply j 1 r [] else s.pushJob { j with phase := .imgDigest })

/-- UNLOAD_IMAGE (R422). -/
def execUnloadImage (m : MbxId) (s : State) : Host.Outcome State Fault Refusal :=
  .next (s.startCmd m ⟨0x0011, .context, [], noArgs⟩ anyArgs fun s j => s.needOpen j fun s =>
    let x := j.ctx.toNat
    if s.batchOf x then s.reply j 7 0x45 []
    else if (s.ctx x).loaded.isNone then s.reply j 7 0x49 []
    else (s.modCtx x fun k => { k with loaded := none, next := none }).reply j 0 0 [])

/-- BIND (R364). -/
def execBind (m : MbxId) (s : State) : Host.Outcome State Fault Refusal :=
  .next (s.startCmd m ⟨0x0012, .context, [(0, 2)], noArgs⟩ anyArgs fun s j => s.needOpen j fun s =>
    let x := j.ctx.toNat
    match (s.ctx x).loaded with
    | none => s.reply j 7 0x49 []
    | some im =>
      if s.batchOf x then s.reply j 7 0x45 []
      else
        let tag := leAt j.args 0 2
        let r := s.bindCheck im tag
        if r ≠ 0 then s.reply j 1 r []
        else (s.modCtx x fun k => { k with tag := some (BitVec.ofNat 12 tag) }).reply j 0 0 [])

/-- UNBIND (R364, R422). -/
def execUnbind (m : MbxId) (s : State) : Host.Outcome State Fault Refusal :=
  .next (s.startCmd m ⟨0x0013, .context, [], noArgs⟩ anyArgs fun s j => s.needOpen j fun s =>
    let x := j.ctx.toNat
    if s.batchOf x then s.reply j 7 0x45 [] else (s.modCtx x fun k => { k with tag := none }).reply j 0 0 [])

/-- Require that a slot number is one of the context's. -/
def State.needSlot (s : State) (j : Job) (f : State → State) : State :=
  s.needOpen j fun s => if j.slotArg < (s.ctx j.ctx.toNat).eslots then f s else s.reply j 3 0x40 []

/-- LOAD_EDITION (R310 to R312, R326): the slot becomes LOADING, unless it is damaged, and its checks begin; a peer's bytes come
first when the source is PEER, which must be a module of the slice. With all 256 streams of the transfer service in use the command finds no
resource (DESIGN CHOICE, log entry 141). -/
def execLoadEdition (m : MbxId) (s : State) : Host.Outcome State Fault Refusal :=
  .next (s.startCmd m ⟨0x0020, .context, [(0, 6)], fun a => decide (leAt a 1 1 ≤ 1) && (decide (leAt a 1 1 = 0)
      || (decide (leAt a 2 1 < 64) && decide (leAt a 3 1 < 64) && decide (leAt a 4 1 < 64) && decide (leAt a 5 1 < 4)))⟩ anyArgs
    fun s j => s.needSlot j fun s =>
      let x := j.ctx.toNat
      let k := (s.ctx x).slot j.slotArg
      if leAt j.args 1 1 = 1 ∧ s.inSlice x (leAt j.args 2 1) (leAt j.args 3 1) = false then s.reply j 3 0x40 []
      else if k.st = .empty ∨ k.st = .failed ∨ (k.dmg = true ∧ k.st ≠ .loading) then
        let s1 := if k.dmg then s else s.modSlot x j.slotArg fun k => { k with st := .loading }
        if leAt j.args 1 1 = 1 then
          match s.freeStream with
          | none => s.reply j 8 0 []
          | some n =>
            let s2 := (s1.pushJob { j with phase := .peerLoad n k.dmg }).askPeer j n (if k.dmg then k.edition else 0)
            { s2 with links := { s2.links with streams := s2.links.streams ++ [⟨n, [], none, s2.ring.ms⟩] } }
        else (s1.pushJob j).beginLoad j k.dmg
      else s.reply j 7 0x42 [])

/-- PUBLISH (R313, R314, R316). -/
def execPublish (m : MbxId) (s : State) : Host.Outcome State Fault Refusal :=
  .next (s.startCmd m ⟨0x0021, .context, [(0, 2), (8, 8)], fun a => decide (leAt a 1 1 < 4)⟩ anyArgs fun s j => s.needSlot j fun s =>
    let x := j.ctx.toNat
    let e := j.slotArg
    let k := (s.ctx x).slot e
    let atv := bitOf (leAt j.args 1 1) 0
    let keep := bitOf (leAt j.args 1 1) 1
    let t := leAt j.args 8 8
    if k.st ≠ .verified ∨ k.dmg = true then s.reply j 7 0x42 []
    else if ((s.ctx x).slotIn .pending).isSome then s.reply j 7 0x43 []
    else if atv then
      if t < s.ring.ms + 1024 then s.reply j 7 0x44 []
      else ((s.modSlot x e fun k => { k with st := .pending }).modCtx x fun k => { k with at_ := t, atKeep := keep }).reply j 0 0 [4]
    else (s.makeLive x e keep false).reply j 0 0 [5])

/-- UNPUBLISH (R315). -/
def execUnpublish (m : MbxId) (s : State) : Host.Outcome State Fault Refusal :=
  .next (s.startCmd m ⟨0x0022, .context, [(0, 1)], noArgs⟩ anyArgs fun s j => s.needSlot j fun s =>
    let x := j.ctx.toNat
    if ((s.ctx x).slot j.slotArg).st = .pending then
      ((s.modSlot x j.slotArg fun k => { k with st := .verified }).modCtx x fun k => { k with at_ := 0, atKeep := false }).reply j 0 0 []
    else s.reply j 7 0x42 [])

/-- UNLOAD_EDITION (R315, R323). -/
def execUnloadEdition (m : MbxId) (s : State) : Host.Outcome State Fault Refusal :=
  .next (s.startCmd m ⟨0x0023, .context, [(0, 1)], noArgs⟩ anyArgs fun s j => s.needSlot j fun s =>
    let x := j.ctx.toNat
    let k := (s.ctx x).slot j.slotArg
    if k.st = .verified ∨ k.st = .failed then (s.releaseSlot x j.slotArg).reply j 0 0 [] else s.reply j 7 0x42 [])

/-- RUN_BATCH (R318, R365, R424): the run-start agreement begins, or waits for the run that holds the module. -/
def execRunBatch (m : MbxId) (s : State) : Host.Outcome State Fault Refusal :=
  .next (s.startCmd m ⟨0x0030, .context, [(0, 5)], fun a => decide (leAt a 0 4 ≠ 0)
      && (decide (leAt a 4 1 < 64) || decide (leAt a 4 1 = 0xFF))⟩ anyArgs fun s j => s.needOpen j fun s =>
    let k := s.ctx j.ctx.toNat
    if k.loaded.isNone ∨ k.tag.isNone then s.reply j 7 0x49 []
    else
      let s1 := s.pushJob { j with phase := .runWaiting }
      if s.runFree then s1.beginRun { j with phase := .runWaiting } else s1)

/-- STOP_RUN (R369): the batch of the RUNID in the entry's context stops, in agreement or running; RUN_BATCH completes after the repeats of STOP.
Another RUNID has no run to stop: BAD_STATE with the reason of a context that is not open (DESIGN CHOICE, log entry 138). -/
def execStopRun (m : MbxId) (s : State) : Host.Outcome State Fault Refusal :=
  .next (s.startCmd m ⟨0x0031, .context, [(0, 4)], noArgs⟩ anyArgs fun s j => s.needOpen j fun s =>
    if decide (s.run.phase ≠ .idle) && decide (s.run.ctx.val = j.ctx.toNat) && decide (s.run.runid.toNat = leAt j.args 0 4)
    then (s.stopAll 0 s.myPos s.myIdx s.schedStep).reply j 0 0 []
    else s.reply j 7 0x41 [])

/-- The module range of a DMA entry. -/
def Job.dmaRange (j : Job) : Nat × Nat := (leAt j.args 0x10 8, leAt j.args 0x18 8)

/-- Commands of DMA that move data now. -/
def State.dmaRunning (s : State) : Nat := (s.jobs.filter fun j => decide (j.phase = .dmaRunning)).length

/-- DMA (R307, R415): a range that the host may not read or write is refused; at most four transfers run at once. -/
def execDma (m : MbxId) (s : State) : Host.Outcome State Fault Refusal :=
  .next (s.startCmd m ⟨0x0040, .context, [(0, 1), (8, 24)], fun a => decide (leAt a 0 1 ≤ 1) && decide (leAt a 0x18 8 % 64 = 0)
      && decide (leAt a 0x18 8 ≤ 2 ^ 36)⟩ anyArgs fun s j => s.needOpen j fun s =>
    let k := s.ctx j.ctx.toNat
    let (o, n) := j.dmaRange
    let ok := if leAt j.args 0 1 = 0 then k.mayWrite o n else k.mayRead o n
    if ok then s.pushJob { j with phase := if s.dmaRunning < 4 then .dmaRunning else .dmaWaiting }
    else (if leAt j.args 0 1 = 0 then s.logDropped j.ctx.toNat o n else s).reply j 3 0x40 [])

/-- The next waiting DMA runs (R415). -/
def State.nextDma (s : State) : State :=
  match s.jobs.find? fun j => decide (j.phase = .dmaWaiting) with
  | some j => if s.dmaRunning < 4 then s.setPhase j .dmaRunning else s
  | none => s

/-- DMA_TRANSFER_DONE (R307, R390, R415): the oldest running transfer ends; what it moved stays in place. A byte that the host may no longer
write is dropped. -/
def execDmaTransferDone (r : DmaResult) (s : State) : Host.Outcome State Fault Refusal :=
  match s.jobs.find? fun j => decide (j.phase = .dmaRunning) with
  | none => .next s
  | some j =>
    let (o, n) := j.dmaRange
    let moved := if r.ok then n else Nat.min r.moved n
    let k := s.ctx j.ctx.toNat
    let s := s.useTurns .remote o moved
    let s1 :=
      if leAt j.args 0 1 = 1 then s.emit (.toHost (leAt j.args 8 8) (rdBytes s.lpddr o moved))
      else ({ s with lpddr := putAllowed k s.lpddr o ((r.bytes ++ zeros moved).take moved) }).logDropped j.ctx.toNat o moved
    .next ((s1.complete j (if r.ok then 0 else 0x10) 0 (leBytes 8 moved)).nextDma)

/-- SET_WINDOW (R412). -/
def execSetWindow (m : MbxId) (s : State) : Host.Outcome State Fault Refusal :=
  .next (s.startCmd m ⟨0x0041, .context, [(0, 2)], fun a => decide (leAt a 0 2 + 64 ≤ 1072)⟩ anyArgs fun s j => s.needOpen j fun s =>
    ({ s with host := { s.host with window := some (j.ctxId, leAt j.args 0 2), windowLogged := false } }).reply j 0 0 [])

/-- SET_STRICT (R159, R160). -/
def execSetStrict (m : MbxId) (s : State) : Host.Outcome State Fault Refusal :=
  .next (s.startCmd m ⟨0x0050, .admin, [], noArgs⟩ anyArgs fun s j => ({ s with boot := { s.boot with strict := true } }).reply j 0 0 [])

/-- ARM_MAILBOX (R425). -/
def execArmMailbox (m : MbxId) (s : State) : Host.Outcome State Fault Refusal :=
  .next (s.startCmd m ⟨0x0060, .admin, [(0, 2), (8, 8)], fun a => decide (1 ≤ leAt a 0 1) && decide (leAt a 0 1 ≤ 15)
      && decide (leAt a 1 1 ≤ 1)⟩ anyArgs fun s j =>
    let t := leAt j.args 0 1
    if (s.mbox t).armed ∨ s.inprog t ≠ 0 then s.reply j 7 0x41 []
    else (s.modMbox t fun _ => { armed := true, expert := bitOf (leAt j.args 1 1) 0 && s.host.expert
                                 mask := BitVec.ofNat 64 (leAt j.args 8 8) }).reply j 0 0 [])

/-- Complete with ABORTED every command of a mailbox that has not started (R425). -/
def State.abortQueued : Nat → MbxId → State → State
  | 0, _, s => s
  | n + 1, t, s =>
    let x := s.mbox t.val
    if x.chead = x.ctail then s
    else State.abortQueued n t
      ((s.modMbox t.val fun x => { x with chead := x.chead + 1 }).putCompletion (parseJob t (x.entry x.chead.toNat)) 0x11 0 [])

/-- DISARM_MAILBOX (R425). -/
def execDisarmMailbox (m : MbxId) (s : State) : Host.Outcome State Fault Refusal :=
  .next (s.startCmd m ⟨0x0061, .admin, [(0, 1)], fun a => decide (1 ≤ leAt a 0 1) && decide (leAt a 0 1 ≤ 15)⟩ anyArgs fun s j =>
    let t : MbxId := Fin.ofNat 16 (leAt j.args 0 1)
    if !(s.mbox t.val).armed then s.reply j 7 0x41 []
    else
      let s1 := State.abortQueued 256 t (s.modMbox t.val fun x => { x with armed := false })
      (s1.pushJob { j with phase := .disarming t }).disarmDone t)

/-- SET_POLICY (R425): clearing EXPERT withdraws the grant from every mailbox at once. -/
def execSetPolicy (m : MbxId) (s : State) : Host.Outcome State Fault Refusal :=
  .next (s.startCmd m ⟨0x0062, .admin, [(0, 1)], fun a => decide (leAt a 0 1 < 4)⟩ anyArgs fun s j =>
    if s.host.lock then s.reply j 7 0x47 []
    else
      let e := bitOf (leAt j.args 0 1) 0
      let s1 := { s with host := { s.host with expert := e, lock := bitOf (leAt j.args 0 1) 1 } }
      (if e then s1 else (List.range 16).foldl (fun s m => s.modMbox m fun x => { x with expert := false }) s1).reply j 0 0 [])

end Sys2Proof.Machine
end

