-- ==== Sys2Proof/Machine/Xmss.lean ====
section
/-! DEFINITION. The hash-based signatures that R482, R483 and R485 take from NIST SP 800-208: XMSS-SHAKE256_20_256 for the firmware image and
XMSSMT-SHAKE256_40/2_256 for the identity, with the algorithms and the encoding of RFC 8391. The spec cites the standards and does not repeat
them: what stands here of them is PRESUMED (log entry 116). -/
namespace Sys2Proof.Machine

/-- A number as n bytes, the most significant first (RFC 8391, 2.4). -/
def beBytes (n v : Nat) : List Byte := (leBytes n v).reverse

/-- The number that bytes spell, the most significant first. -/
def beNat (l : List Byte) : Nat := leNat l.reverse

/-- Byte strings combined bit by bit. -/
def xorBytes (a b : List Byte) : List Byte := List.zipWith (· ^^^ ·) a b

/-- The keyed functions of SP 800-208, 5.3: a number tells F, H, H_msg, PRF and PRF_keygen apart. -/
def xmssHash (kind : Nat) (key m : List Byte) : List Byte := shake256 (beBytes 32 kind ++ key ++ m) 32

/-- A hash address (RFC 8391, 2.5): layer, tree, type, and the three words that the type gives a meaning to. -/
structure Adrs where
  layer : Nat
  tree : Nat
  type : Nat
  x : Nat := 0
  y : Nat := 0
  z : Nat := 0
  deriving DecidableEq, Repr

/-- The 32 bytes of an address, with the word that chooses between a key and a mask. -/
def Adrs.bytes (a : Adrs) (km : Nat) : List Byte :=
  beBytes 4 a.layer ++ beBytes 8 a.tree ++ beBytes 4 a.type ++ beBytes 4 a.x ++ beBytes 4 a.y ++ beBytes 4 a.z ++ beBytes 4 km

/-- A key or a mask of an address under the public seed. -/
def xmssPrf (seed : List Byte) (a : Adrs) (km : Nat) : List Byte := xmssHash 3 seed (a.bytes km)

/-- One node from its two children (RFC 8391, 4.1.4). -/
def randHash (seed : List Byte) (a : Adrs) (l r : List Byte) : List Byte :=
  xmssHash 1 (xmssPrf seed a 0) (xorBytes l (xmssPrf seed a 1) ++ xorBytes r (xmssPrf seed a 2))

/-! ### One-time keys -/

/-- n steps of a chain from step i on (RFC 8391, 3.1.2); the address holds the key pair and the chain. -/
def wotsChain (seed : List Byte) (a : Adrs) : Nat → Nat → List Byte → List Byte
  | 0, _, v => v
  | n + 1, i, v =>
    let b := { a with z := i }
    wotsChain seed a n (i + 1) (xmssHash 0 (xmssPrf seed b 0) (xorBytes v (xmssPrf seed b 1)))

/-- The digits of a byte string to base 16, high digit first. -/
def digits16 (l : List Byte) : List Nat := l.flatMap fun b => [b.toNat / 16, b.toNat % 16]

/-- The 67 digits that are signed for a 32-byte message: its own 64 and the 3 of their checksum (RFC 8391, 3.1.5). -/
def wotsDigits (m : List Byte) : List Nat :=
  let d := digits16 (m.take 32)
  let c := (d.map fun x => 15 - x).sum
  d ++ (digits16 (beBytes 2 (16 * c))).take 3

/-- The parts of 32 bytes of a string. -/
def blocks32 : Nat → List Byte → List (List Byte)
  | 0, _ => []
  | n + 1, l => l.take 32 :: blocks32 n (l.drop 32)

/-- The address of chain i of key pair k. -/
def chainAdrs (layer tree k i : Nat) : Adrs := { layer := layer, tree := tree, type := 0, x := k, y := i }

/-- The public key of a one-time signature (RFC 8391, 3.1.6). -/
def wotsPk (seed : List Byte) (layer tree k : Nat) (m : List Byte) (sig : List (List Byte)) : List (List Byte) :=
  (List.range 67).map fun i =>
    let d := (wotsDigits m).getD i 0
    wotsChain seed (chainAdrs layer tree k i) (15 - d) d (sig.getD i [])

/-- One level of an L-tree: pairs are joined, an odd last one goes up as it is. -/
def ltreeLevel (seed : List Byte) (a : Adrs) : Nat → List (List Byte) → List (List Byte)
  | i, l :: r :: t => randHash seed { a with z := i } l r :: ltreeLevel seed a (i + 1) t
  | _, l => l

/-- The L-tree of a one-time public key (RFC 8391, 4.1.5): seven levels take 67 nodes to one. -/
def ltree (seed : List Byte) (layer tree k : Nat) (pk : List (List Byte)) : List Byte :=
  ((List.range 7).foldl (fun l h => ltreeLevel seed { layer := layer, tree := tree, type := 1, x := k, y := h } 0 l) pk).headD []

/-! ### Verification -/

/-- The address of the node above height h at place i. -/
def nodeAdrs (layer tree h i : Nat) : Adrs := { layer := layer, tree := tree, type := 2, y := h, z := i }

/-- The root that an authentication path leads to from a node at height h and place i (RFC 8391, 4.1.10). -/
def rootOf (seed : List Byte) (layer tree : Nat) : Nat → Nat → List Byte → List (List Byte) → List Byte
  | _, _, v, [] => v
  | h, i, v, n :: t =>
    let a := nodeAdrs layer tree h (i / 2)
    rootOf seed layer tree (h + 1) (i / 2) (if i % 2 = 0 then randHash seed a v n else randHash seed a n v) t

/-- The root that one tree's signature of a 32-byte message gives. -/
def treeRoot (seed : List Byte) (layer tree k : Nat) (m : List Byte) (sig path : List (List Byte)) : List Byte :=
  rootOf seed layer tree 0 k (ltree seed layer tree k (wotsPk seed layer tree k m sig)) path

/-- Whether an XMSS signature of height h verifies: public key root and seed; index of 4 bytes, randomiser, 67 chains, h nodes
(RFC 8391, 4.1.10). -/
def xmssVerify (h : Nat) (key msg sig : List Byte) : Bool :=
  let root := key.take 32
  let seed := (key.drop 32).take 32
  let k := beNat (sig.take 4)
  let r := (sig.drop 4).take 32
  let parts := blocks32 (67 + h) (sig.drop 36)
  let m := xmssHash 2 (r ++ root ++ beBytes 32 k) msg
  decide (sig.length = 36 + 32 * (67 + h)) && decide (k < 2 ^ h) && decide (treeRoot seed 0 0 k m (parts.take 67) (parts.drop 67) = root)

/-! ### Signing -/

/-- The secret parts of an identity: the seed of the one-time keys, the key of the randomiser, the public seed. -/
structure XmssSk where
  seed : List Byte
  prf : List Byte
  pub : List Byte
  deriving DecidableEq, Repr

/-- The parts of 96 bytes of secret seeds. -/
def xmssSk (l : List Byte) : XmssSk := ⟨l.take 32, (l.drop 32).take 32, (l.drop 64).take 32⟩

/-- The start of a chain (SP 800-208, 6.2). -/
def wotsStart (sk : XmssSk) (layer tree k i : Nat) : List Byte := xmssHash 4 sk.seed (sk.pub ++ (chainAdrs layer tree k i).bytes 0)

/-- The node at height h and place i of a tree (RFC 8391, 4.1.6). -/
def treeNode (sk : XmssSk) (layer tree : Nat) : Nat → Nat → List Byte
  | 0, i => ltree sk.pub layer tree i
      ((List.range 67).map fun c => wotsChain sk.pub (chainAdrs layer tree i c) 15 0 (wotsStart sk layer tree i c))
  | h + 1, i => randHash sk.pub (nodeAdrs layer tree h i) (treeNode sk layer tree h (2 * i)) (treeNode sk layer tree h (2 * i + 1))

/-- One tree's signature of a 32-byte message: 67 chains and the authentication path of leaf k (RFC 8391, 4.1.9). -/
def treeSig (sk : XmssSk) (layer tree h k : Nat) (m : List Byte) : List Byte :=
  (List.range 67).flatMap (fun i => wotsChain sk.pub (chainAdrs layer tree k i) ((wotsDigits m).getD i 0) 0 (wotsStart sk layer tree k i))
    ++ (List.range h).flatMap fun j => treeNode sk layer tree j (let p := k / 2 ^ j; if p % 2 = 0 then p + 1 else p - 1)

/-- The root of the upper of two layers of trees of height h. -/
def mtRoot (sk : XmssSk) (h : Nat) : List Byte := treeNode sk 1 0 h 0

/-- The XMSS^MT signature of a message with one-time index n: index of 5 bytes, randomiser, and the signatures of the lower and of the upper
tree (RFC 8391, 4.2.4). -/
def mtSign (sk : XmssSk) (h n : Nat) (msg : List Byte) : List Byte :=
  let r := xmssHash 3 sk.prf (beBytes 32 n)
  let m := xmssHash 2 (r ++ mtRoot sk h ++ beBytes 32 n) msg
  let tree := n / 2 ^ h
  beBytes 5 n ++ r ++ treeSig sk 0 tree h (n % 2 ^ h) m ++ treeSig sk 1 0 h tree (treeNode sk 0 tree h 0)

/-- Height of each of the two layers of an identity (R485). -/
def idHeight : Nat := 20

/-- The 68-byte public key that secret seeds give (R485): OID 0x0000002B of XMSSMT-SHAKE256_40/2_256, root, public seed. -/
def identityKey (seeds : List Byte) : List Byte :=
  let sk := xmssSk seeds
  beBytes 4 0x2B ++ mtRoot sk idHeight ++ sk.pub

/-- The 5,605 bytes of an identity signature (R485, R493). -/
def identitySign (seeds : List Byte) (n : Nat) (msg : List Byte) : List Byte := mtSign (xmssSk seeds) idHeight n msg

end Sys2Proof.Machine
end

