-- ==== Sys2Proof/Machine/Sealing.lean ====
section
/-! DEFINITION. The sealing keys, the sealed records of the keeping flash and what they hold (R481, R486, R487, R490). -/
namespace Sys2Proof.Machine

/-- The sealing key of an identity generation (R481). -/
def sealKey (uds : BitVec 256) (g : Nat) : List Byte := shake256 (leBytes 32 uds.toNat ++ [0x4B#8, 0x46#8, BitVec.ofNat 8 g]) 32

/-- The first n bytes of the keystream of a record (R486). -/
def keystream (key nonce : List Byte) (n : Nat) : List Byte := (shake256 (key ++ nonce) n ++ zeros n).take n

/-- The tag of a record (R486). -/
def sealTag (key nonce text : List Byte) : List Byte := shake256 (key ++ nonce ++ text) 32

/-- Seal a record (R486). -/
def sealRecord (key nonce plain : List Byte) : Sealed :=
  let c := xorBytes plain (keystream key nonce plain.length)
  ⟨nonce, c, sealTag key nonce c⟩

/-- What a record holds under a key: nothing when its tag fails (R486). -/
def Sealed.opened (r : Sealed) (key : List Byte) : Option (List Byte) :=
  if sealTag key r.nonce r.text = r.tag then some (xorBytes r.text (keystream key r.nonce r.text.length)) else none

/-- A fresh nonce of 16 bytes (R486), from the entropy source. -/
def nonceOf (draw : Nat) : List Byte := (Config.entropy draw ++ zeros 16).take 16

/-- Fresh secret seeds (R490): the entropy source's bytes conditioned by SHAKE256. Three seeds of 32 bytes, as XMSS^MT under R485 has them
(PRESUMED, log entry 116). -/
def seedsOf (draw : Nat) : List Byte := shake256 (Config.entropy draw) 96

/-- What a key record holds (log entry 116): its generation, then the seeds. -/
def keyPlain (g : Nat) (seeds : List Byte) : List Byte := BitVec.ofNat 8 g :: seeds

/-- The seeds of a record that opens under a key as a record of generation g. -/
def keySeeds (key : List Byte) (g : Nat) (r : Option Sealed) : Option (List Byte) :=
  match r with
  | some x => match x.opened key with
    | some (b :: l) => if b = BitVec.ofNat 8 g then some l else none
    | _ => none
  | none => none

/-- What an index record holds: LIM in 8 bytes, little-endian. -/
def limOf (key : List Byte) (r : Option Sealed) : Option Nat :=
  match r with
  | some x => (x.opened key).map leNat
  | none => none

/-- The key under which the firmware seals (R481, R490): K_N after REGEN_IDENTITY, K_F otherwise. -/
def Trust.sealing (t : Trust) : List Byte := if t.regened then t.kn.getD [] else t.kf

/-- One-time keys of an identity (R485). -/
def idKeys : Nat := 2 ^ 40

/-- Leaves of a lower tree of the identity (R485, R488). -/
def treeKeys : Nat := 2 ^ 20

/-- Whether an index must first be reserved (R487). -/
def State.needsReserve (s : State) : Bool := decide (s.trust.lim ≤ s.trust.next)

/-- LIM + 4,096 is written to the keeping flash as a sealed record with a fresh nonce (R486, R487). -/
def State.reserve (s : State) : State :=
  let n := s.trust.lim + 4096
  { s with
    free := s.free + 1, keep := { s.keep with idLim := some (sealRecord s.trust.sealing (nonceOf s.free) (leBytes 8 n)) }
    trust := { s.trust with lim := n } }

/-- The next index after a signature, and what follows for the lower trees (R488): with half of one used the build of the next begins; where the
indices of one end, its successor takes its place, and one that is not yet built leaves the identity not ready until it is (DESIGN CHOICE, log
entry 153: R488 says that it does not come to that). -/
def Trust.useIndex (t : Trust) : Trust :=
  let n := t.next + 1
  let u := { t with next := n }
  if n % treeKeys = treeKeys / 2 then { u with building := true, built := false }
  else if n % treeKeys = 0 then { u with built := false, idrdy := t.built }
  else u

end Sys2Proof.Machine
end

