-- ==== Sys2Proof/Machine/WaymarkPass.lean ====
section
/-! DEFINITION. Pass instructions, parking, program end, deadlock and the layer's DEADLINE (R150 to R154, R167,
R246 to R275). -/
namespace Sys2Proof.Machine

/-- CC.PARRIVE (R258): an arrival without L or RING. -/
def execCcParrive (c : CoreId) (h : Hdr) (p : PassId) (s : State) : Host.Outcome State Fault Refusal :=
  .next (s.issueCc c.val (.parrive p) h [] fun s b => s.passEnter c.val (passIdx p) false false false h b)

/-- CC.PENTER (R257, R258): an arrival, then a crossing in the second beat. -/
def execCcPenter (c : CoreId) (h : Hdr) (p : EnterArg) (s : State) : Host.Outcome State Fault Refusal :=
  .next (s.issueCc c.val (.penter p) h [] fun s b => match p with
    | .part => s.passEnter c.val 0 false false true h b
    | .mod m l r => s.passEnter c.val (1 + m.val) l r true h b)

/-- CC.PWAIT (R258, R262). -/
def execCcPwait (c : CoreId) (h : Hdr) (p : PassId) (s : State) : Host.Outcome State Fault Refusal :=
  .next (s.issueCc c.val (.pwait p) h [] fun s b =>
    (s.modCore c.val fun k => { k with pc := k.pc + 1 }).passWait c.val (passIdx p) h (s.core c.val).pc b)

/-- CC.PLEVEL (R258, R265): LEVEL and DESIG at the end of the issue beat, VALUE too with NOW. -/
def execCcPlevel (c : CoreId) (h : Hdr) (wn : Fin 32) (d now : Bool) (level : BitVec 12) (s : State) :
    Host.Outcome State Fault Refusal :=
  .next (s.issueCc c.val (.plevel wn d now level) h [] fun s b =>
    let s1 := s.modCore c.val fun k => (k.setLevel wn level d now b).past b 1
    s1.signalHdr c.val h 0 (s.core c.val).pc b)

/-- RELEASE_NOTICE (R259, R268): a notice reaches its core and O falls by one; one addressed to a core that has been reset
since is absorbed. -/
def execReleaseNotice (c : CoreId) (p : PassId) (s : State) : Host.Outcome State Fault Refusal :=
  match s.notices.find? fun n => decide (n.core = c ∧ n.pass = passIdx p) with
  | none => .next s
  | some n =>
    let s1 := { s with notices := s.notices.erase n }
    if n.rgen = s.coreGen c.val then
      .next (s1.modCore c.val fun k => let v := k.pview (passIdx p); k.setPview (passIdx p) { v with o := v.o - 1 })
    else .next s1

/-- Resume a parked core after `ns` of parked time (R154, R170). -/
def Core.resume (k : Core) (ns : Nat) : Core := { k with status := .running, parkt := sat32 k.parkt ns }

/-- Whether the running ST.TAIL or ST.HEAD of a parked core may go on (R221, R224). -/
def Core.streamReady (k : Core) : Bool :=
  match k.sts with
  | x :: _ => match x.ent.op with
    | .tail ch _ => decide (x.want ≤ (k.chan ch.val).f)
    | .head ch n => decide ((k.chan ch.val).h + n.val + 1 ≤ (k.chan ch.val).f)
    | _ => false
  | [] => false

/-- The cancel that a parked core waits to make, once no fill carries the generation it would produce (R227). -/
def Core.cancelReady (k : Core) : Option Nat :=
  match k.sts with
  | x :: _ => match x.ent.op with
    | .cancel ch => if (k.chan ch.val).staleBlocks then none else some ch.val
    | _ => none
  | [] => none

/-- The ST.CANCEL in the running slot acts after a park (R226, R231). -/
def Core.lateCancel (k : Core) (ch : Nat) : Core :=
  match k.sts with
  | x :: r => k.doCancel x r ch (x.start.getD 0)
  | [] => k

/-- CORE_RESUME (R154): a parked core goes on when what it waits for holds; it has been parked for `ns`. -/
def execCoreResume (c : CoreId) (ns : Nat) (s : State) : Host.Outcome State Fault Refusal :=
  let k := s.core c.val
  match k.status with
  | .parked (.arrive i l ring enter h pc) =>
    if k.mayArrive then
      let s1 := s.modCore c.val fun k => k.resume ns
      .next ((s1.arrive c.val i l ring pc).afterArrive c.val i enter h pc k.beat)
    else .next s
  | .parked (.pass i h pc) =>
    if (k.pview i).o = 0 then
      let s1 := s.modCore c.val fun k => k.resume ns
      .next (s1.endPass c.val i h pc k.beat (decide ((k.pview i).unc ≠ 0)))
    else .next s
  | .parked .tail | .parked .head => if k.streamReady then .next (s.modCore c.val fun k => k.resume ns) else .next s
  | .parked .cancel => match k.cancelReady with
    | some ch => .next (s.modCore c.val fun k => (k.resume ns).lateCancel ch)
    | none => .next s
  | _ => .next s

/-- Whether the program of a core may end: CC.HALT has issued and every engine instruction has completed (R150). -/
def Core.programDone (k : Core) : Bool :=
  k.runs && k.haltAt.isSome && k.mq.isEmpty && k.vq.isEmpty && k.sq.isEmpty && k.lws.isEmpty && k.cmps.isEmpty && k.rds.isEmpty
    && k.ves.isEmpty && k.sts.isEmpty

/-- The beat at which the program ends (R150). -/
def Core.endBeat (k : Core) : Nat := Nat.max (k.haltAt.getD 0) k.lastDone

/-- The end of the program (R150, R229): its beat count is the later beat plus one; a scalar whose result is still due ends
with that value (R148), a signal due later does not fall; inbound channels are cancelled without the zeroing. The core then holds no program
(log entry 29). -/
def Core.endProgram (k : Core) : Core :=
  let e := k.endBeat
  let k := k.pendRes.foldl (fun k r => k.setSc r.2.1 r.2.2) k.flushCross
  let k := { k with status := .none, codeLen := 0, beats := some (e + 1), beat := e + 1, pendRes := [], pendSig := [] }
  (List.range 4).foldl (fun k ch => k.modChan ch fun x =>
    let (y, disc) := x.cancel
    disc.foldl Chan.unveil y) k

/-- PROGRAM_END (R150, R229, R269). -/
def execProgramEnd (c : CoreId) (s : State) : Host.Outcome State Fault Refusal :=
  if (s.core c.val).programDone then
    let s0 := s.settle c.val (s.core c.val).endBeat
    if !(s0.core c.val).runs then .next s0 else
    let s1 := s0.modCore c.val Core.endProgram
    .next (s1.checkEnded (c.val / 128 :: [16, 17, 18, 19]))
  else .next s

/-- An instruction held by a W wait on a Waymark at zero: its Waymark. -/
def Core.heldHead (k : Core) (h : Option Hdr) : Option (Fin 32) :=
  match h with
  | some h => match h.w with
    | some n => if (k.wm n.val).shown = 0 then some n else none
    | none => none
  | none => none

/-- The heads of the matrix, vector and stream queue held by a wait (R272). -/
def Core.mmHeld (k : Core) : Option (Fin 32) := k.heldHead (k.mq.head?.map (·.h))
def Core.veHeld (k : Core) : Option (Fin 32) := k.heldHead (k.vq.head?.map (·.h))
def Core.stHeld (k : Core) : Option (Fin 32) := k.heldHead (k.sq.head?.map (·.h))

/-- Whether a core is parked. -/
def Core.isParked (k : Core) : Bool :=
  match k.status with
  | .parked _ => true
  | _ => false

/-- The control core held by a W wait at zero, by the instruction at PC (R251); a parked core waits for something else. -/
def Core.ccHeld (k : Core) : Option (Fin 32) := if k.isParked then none else k.heldHead (k.ccNext.map (·.1))

/-- WYM_WAIT (R272). -/
def Core.wymWait (k : Core) : Word32 :=
  let f (o : Option (Fin 32)) (b : Nat) : Nat := match o with
    | some n => 2 ^ b + n.val * 2 ^ (b - 5)
    | none => 0
  BitVec.ofNat 32 (f k.ccHeld 31 + f k.mmHeld 25 + f k.veHeld 19 + f k.stHeld 13)

/-- The control core held by a full queue (R251). -/
def Core.ccFull (k : Core) : Bool :=
  match decOp k.wordAtPc with
  | some (_, .mm _) => decide (32 ≤ k.mq.length)
  | some (_, .ve _) => decide (32 ≤ k.vq.length)
  | some (_, .st _) => decide (32 ≤ k.sq.length)
  | _ => false

/-- Whether the core is deadlocked on its Waymarks (R251). -/
def Core.deadlocked (k : Core) : Bool :=
  let quiet := k.lws.isEmpty && k.cmps.isEmpty && k.rds.isEmpty && k.ves.isEmpty && k.sts.isEmpty && k.pendRes.isEmpty
    && k.pendSig.isEmpty
  let cc := k.haltAt.isSome || k.ccHeld.isSome || k.ccFull
  let heads := (k.mq.isEmpty || k.mmHeld.isSome) && (k.vq.isEmpty || k.veHeld.isSome) && (k.sq.isEmpty || k.stHeld.isSome)
  let held := (k.haltAt.isNone && k.ccHeld.isSome) || k.mmHeld.isSome || k.veHeld.isSome || k.stHeld.isSome
  k.runs && quiet && cc && heads && held

/-- The first beat in which a deadlocked core can do nothing (R251): the control core stands before its instruction or has issued CC.HALT, and no
completion and no pending result lies later, also none for s0. -/
def Core.deadBeat (k : Core) : Nat := (k.avail.map (·.2)).foldl Nat.max (Nat.max (k.haltAt.getD k.beat) k.lastDone)

/-- WAYMARK_DEADLOCK (R251, R271): not raised while core debug is unlocked. -/
def execWaymarkDeadlock (c : CoreId) (s : State) : Host.Outcome State Fault Refusal :=
  let k := s.core c.val
  if k.deadlocked && !s.trust.dbg then
    .next (s.coreFault c.val k.deadBeat 0x0106 0xFFFF k.wymWait 0xFFFFFFFF 0xFFFFFFFF (BitVec.ofNat 32 k.deadBeat))
  else .next s

/-! ### The DEADLINE -/

/-- The first layer, of those that a core has not closed when this step begins, whose DEADLINE is this step (R167): a crossing in the step itself
is late, and a core that has ended its program never is. -/
def State.lateLayer (s : State) (im : Loaded) (c : Nat) : Option Nat :=
  let k := s.core c
  let from_ := if k.advMs = s.ring.ms + 1 then k.advFrom else k.layer
  if k.beats.isSome then none
  else (List.range (k.layer + 1)).find? fun n => decide (from_ ≤ n) && (match im.layers[n]? with
    | some l => decide (l.deadline = s.schedStep)
    | none => false)

/-- The first late core in logical order, and its layer (R167); a layer with a step timeout raises none (R168). -/
def State.lateCore (s : State) : Option (Nat × Nat) :=
  match s.runImage with
  | none => none
  | some im => s.coreList.findSome? fun c => ((s.lateLayer im c).filter fun n => !s.layerTimedOut n).map fun n => (c, n)

/-- SCHEDULE_OVERRUN (R167, R168): a core of the layer has not crossed its closing Pass at the DEADLINE. -/
def execScheduleOverrun (s : State) : Host.Outcome State Fault Refusal :=
  if s.runInStep then
    match s.lateCore with
    | some (c, n) => .next (s.raise { code := 0x0201, unit := s.coreUnit c, ctx := BitVec.ofNat 8 s.run.ctx.val
                                      layer := BitVec.ofNat 16 n, a1 := 0 })
    | none => .next s
  else .next s

end Sys2Proof.Machine
end

