-- ==== Sys2Proof/Machine/Registers.lean ====
section
/-! DEFINITION. What the registers read: the core's register page (R59, R96, R97, R136, R137, R169 to R171, R200 to R202, R242, R243,
R272, R273, R401) and BAR0 (R245, R274, R299, R328 to R330, R373 to R375, R399 to R401, R406, R409, R459, R460, R479, R503, R504,
R524). A register is a view of the state; an offset that no rule defines reads zero (R406). -/
namespace Sys2Proof.Machine

/-- A 32-bit word from its fields, each a low bit and a value. -/
def word (l : List (Nat × Nat)) : Word32 := BitVec.ofNat 32 (l.map fun x => x.2 * 2 ^ x.1).sum

/-- The low and the high word of a number. -/
def loW (x : Nat) : Word32 := BitVec.ofNat 32 x
def hiW (x : Nat) : Word32 := BitVec.ofNat 32 (x / 2 ^ 32)

/-- Word i of a byte string. -/
def wordAt (l : List Byte) (i : Nat) : Word32 := BitVec.ofNat 32 (leAt l (4 * i) 4)

/-- The word at a byte address of a memory. -/
def memWord (m : Memory) (a : Nat) : Word32 := BitVec.ofNat 32 (leNat (rdBytes m a 4))

/-! ### The core's register page -/

/-- CORE_CCSTAT.STATE (R169): a core whose program has ended reads no program, one that a fault or a stop halted reads halted
(log entry 29). -/
def Core.stateCode (k : Core) : Nat :=
  match k.status with
  | .none => 0
  | .running => 1
  | .parked _ => 2
  | .halted => 3

/-- Items that hold a place now: those that have not started, and those that have and whose end lies later. -/
def placed (ends : List (Option Nat)) (now : Nat) : Nat :=
  (ends.filter fun e => match e with
    | none => true
    | some x => decide (now < x)).length

/-- CORE_MMSTAT (R96): a slot is occupied from dispatch to the beat in which its instruction leaves it (R90). -/
def Core.mmstat (k : Core) : Word32 :=
  word [(21, b2n k.l1.e2), (20, b2n k.l0.e2), (16, k.l1.src.val), (12, k.l0.src.val), (11, b2n k.l1.ready), (10, b2n k.l0.ready),
    (6, k.lws.length % 16), (4, placed (k.cmps.map fun x => x.start.map (· + x.busy)) k.now % 4),
    (2, placed (k.rds.map fun x => x.start.map (· + x.len)) k.now % 4)]

/-- CORE_VESTAT (R136): an instruction leaves the running slot at its last occupied beat (R126). -/
def Core.vestat (k : Core) : Word32 := word [(8, k.vc.toNat), (6, placed (k.ves.map fun x => x.start.map fun _ => x.free) k.now % 4), (0, k.vq.length % 64)]

/-- CORE_CCSTAT (R169). -/
def Core.ccstat (k : Core) : Word32 :=
  word [(30, k.stateCode), (29, b2n k.vseen), (24, k.cwd % 32), (18, k.mq.length % 64), (12, k.sq.length % 64), (6, k.vq.length % 64)]

/-- CORE_XSTAT (R200). -/
def Core.xstat (k : Core) : Word32 :=
  word [(31, b2n k.xfail), (28, k.xcause.toNat), (24, k.xftr.val), (23, b2n k.xfls), (19, k.xlkind.toNat), (15, k.xltr.val)]

/-- STM_CHSTATn (R242): INFL counts transactions (R205). -/
def Chan.chstat (x : Chan) (n : Nat) : Word32 :=
  let infl := if inboundCh n then Nat.min x.inflight 2 else Nat.min x.outs.length 1
  word [(30, b2n x.active.isSome + b2n x.shadow.isSome), (28, infl), (24, x.gen.toNat), (23, b2n x.geo.rk), (19, x.geo.nslot),
    (16, match x.active with
      | some d => d.lead
      | none => 0), (12, x.geo.rbaseT)]

/-- A register of a channel (R242). -/
def Chan.reg (x : Chan) (n off : Nat) : Word32 :=
  match off with
  | 0x00 => x.chstat n
  | 0x04 => loW x.h
  | 0x08 => loW x.t
  | 0x0C => loW x.f
  | 0x10 => x.xfer
  | 0x14 => word [(16, x.ign.toNat), (0, x.disc.toNat)]
  | 0x18 => x.wdr
  | _ => 0

/-- CORE_THDRn_0 to CORE_THDRn_3 and CORE_TEXPn (R203). -/
def Tile.reg (t : Tile) (off : Nat) : Word32 :=
  if off < 16 then (t.hdr >>> (8 * (off / 4 * 4))).truncate 32 else if off = 16 then t.texp else 0

/-- WYM_VALn and WYM_LASTn (R272). -/
def Waymark.valReg (w : Waymark) : Word32 := word [(31, b2n w.desig), (16, w.level.toNat), (0, w.shown.toNat)]
def Waymark.lastReg (w : Waymark) : Word32 := word [(30, w.eng.toNat), (29, b2n w.dbg), (28, b2n w.any), (0, w.pc.toNat)]

/-- PAS_CORE (R273): an arrival that waits for outbound slots is a wait on its Pass too (R153). -/
def Core.pasCore (k : Core) : Word32 :=
  let w := match k.status with
    | .parked (.pass i _ _) | .parked (.arrive i _ _ _ _ _) => [(29, 1), (26, idxPid i)]
    | _ => []
  word ([(31, b2n k.brk), (30, b2n k.povr), (8, (k.pview 0).o % 4)] ++ w ++ (List.range 4).map fun m => (2 * m, (k.pview (1 + m)).o % 4))

/-- BEAT as the window shows it (R148, R170): the beat in which the core stands, which a parked core has begun (R153). -/
def Core.beatShown (k : Core) : Nat := if k.isParked then Nat.max (Nat.max k.beat k.lastDone) (k.upto - 1) else k.now

/-- The word at an offset of the register page of a core as it stands. -/
def Core.pageOf (k : Core) (off : Nat) : Word32 :=
  if 0x400 ≤ off ∧ off < 0x440 then k.clip ((off - 0x400) / 4)
  else if 0x580 ≤ off ∧ off < 0x600 then
    let t := sget 0 k.tables ((off - 0x580) / 8)
    if off % 8 = 0 then lo32 t else hi32 t
  else if 0x600 ≤ off ∧ off < 0x800 then (k.tile ((off - 0x600) / 32)).reg (off % 32)
  else if 0x800 ≤ off ∧ off < 0xA00 then
    let v := k.sc (Fin.ofNat 64 ((off - 0x800) / 8))
    if off % 8 = 0 then lo32 v else hi32 v
  else if 0xA00 ≤ off ∧ off < 0xAC0 then (k.chanNow ((off - 0xA00) / 32)).reg ((off - 0xA00) / 32) (off % 32)
  else if 0xC00 ≤ off ∧ off < 0xC80 then (k.wm ((off - 0xC00) / 4)).valReg
  else if 0xC80 ≤ off ∧ off < 0xD00 then (k.wm ((off - 0xC80) / 4)).lastReg
  else match off with
  | 0x440 => k.mmstat
  | 0x444 => k.mmbusy - BitVec.ofNat 32 (k.mmRest k.now)
  | 0x448 => k.mmwait + BitVec.ofNat 32 (k.mmWaiting k.now)
  | 0x480 => k.vestat
  | 0x484 => k.vebusy - BitVec.ofNat 32 (k.veRest k.now)
  | 0x500 => k.ccstat
  | 0x504 => word [(0, k.pc.toNat)]
  | 0x508 => loW k.beatShown
  | 0x50C => hiW k.beatShown
  | 0x510 => k.parkt
  | 0x520 => k.sramrep
  | 0x540 => k.xstat
  | 0x544 => k.xfills
  | 0x548 => k.xopen
  | 0x54C => k.xftile
  | 0xAC0 => k.stmFault
  | 0xAC4 => word [(0, k.stmFaultPc.toNat)]
  | 0xD00 => k.wymWait
  | 0xD08 => word [(0, b2n k.fence)]
  | 0xD10 => k.pasCore
  | _ => 0

/-- The word at an offset of the register page: the core is brought forward to the beat in which it stands (log entry 131). -/
def Core.pageWord (k : Core) (off : Nat) : Word32 := k.atNow.pageOf off

/-! ### Module registers of chapters 7 to 12 -/

/-- LND_ registers (R245, R401). -/
def State.lndReg (s : State) (off : Nat) : Word32 :=
  if off < 0x100 then
    let p := s.part (off / 16)
    match off % 16 with
    | 0 => loW p.step
    | 4 => hiW p.step
    | 8 => p.ovr
    | _ => 0
  else if off < 0x140 then (s.part ((off - 0x100) / 4)).spare
  else 0

/-- The first three registers of a Pass (R274). -/
def Pass.stat (x : Pass) : Word32 :=
  word [(31, b2n x.brk), (30, b2n x.ovr), (29, b2n x.gen), (28, b2n x.ring), (27, b2n x.l), (12, x.next % 4096), (0, x.arr % 4096)]

/-- PAS_PLASTp and PAS_MLASTm: the latest arrival, modulo the width of the field. -/
def Pass.lastReg (x : Pass) (n : Nat) : Word32 :=
  match x.last with
  | some c => word [(31, 1), (0, c.val % n)]
  | none => 0

/-- PAS_ registers (R274). -/
def State.pasReg (s : State) (off : Nat) : Word32 :=
  if off < 0x200 then
    let p := off / 32
    let x := s.pass p
    match off % 32 with
    | 0x00 => x.stat
    | 0x04 => x.lastReg 128
    | 0x08 => (x.cur >>> (128 * p)).truncate 32
    | 0x0C => (x.cur >>> (128 * p + 32)).truncate 32
    | 0x10 => (x.cur >>> (128 * p + 64)).truncate 32
    | 0x14 => (x.cur >>> (128 * p + 96)).truncate 32
    | _ => 0
  else if off < 0x240 then
    let x := s.pass (16 + (off - 0x200) / 16)
    match off % 16 with
    | 0 => x.stat
    | 4 => x.lastReg 2048
    | 8 => word ((List.range s.nparts).map fun p => (p, b2n (decide ((x.cur >>> (128 * p)).truncate 128 = BitVec.allOnes 128))))
    | _ => 0
  else 0

/-- |θ| is at most 1/16 step (R346, R373). -/
def Port.locked (p : Port) : Bool := decide (p.theta ≤ 4096) && decide (-4096 ≤ p.theta)

/-- MST_ALIGN.LOCK (R346): 0, its reset value (R374), while no port is in ALIGN or READY. -/
def State.alignLock (s : State) : Bool := !s.steerPorts.isEmpty && s.steerPorts.all fun q => (s.port q).locked

/-- MST_ and SPN_ registers (R299, R374). -/
def State.mstReg (s : State) (off : Nat) : Word32 :=
  let r := s.ring
  match off with
  | 0x00 => loW r.ms
  | 0x04 => hiW r.ms
  | 0x08 => loW r.base
  | 0x0C => hiW r.base
  | 0x10 => r.rx
  | 0x14 => r.tx
  | 0x18 => r.hdrdrop
  | 0x1C => r.rfault
  | 0x20 => r.rfrec
  | 0x24 => loW r.rfstep
  | 0x28 => hiW r.rfstep
  | 0x40 => word [(31, b2n s.alignLock), (30, b2n s.links.skew), (29, b2n s.links.jump), (0, patt 16 s.links.steer)]
  | 0x44 => word [(0, s.links.dres)]
  | _ => 0

/-- HKP_CTXSTATc (R329). -/
def Ctx.statReg (k : Ctx) : Word32 :=
  if k.opened then
    word [(31, 1), (30, b2n (k.slotIn .live).isSome), (29, b2n (k.slotIn .pending).isSome), (27, (k.slotIn .live).getD 0),
      (25, (k.slotIn .pending).getD 0), (23, k.eslots - 1), (0, k.easize / unit64 % 65536)]
  else 0

/-- HKP_ED registers (R328). -/
def State.edReg (s : State) (off : Nat) : Word32 :=
  let x := (s.ctx (off / 64)).slot (off / 16 % 4)
  match off % 16 with
  | 0 => word [(29, x.st.code), (28, b2n x.dmg), (27, b2n x.keep), (0, x.pin % 65536)]
  | 4 => x.edition
  | 8 => word [(16, x.bad.length % 65536), (0, x.bad.headD 0)]
  | _ => 0

/-- HKP_CTX registers (R329). -/
def State.ctxReg (s : State) (off : Nat) : Word32 :=
  let k := s.ctx (off / 16)
  match off % 16 with
  | 0 => k.statReg
  | 4 => loW k.at_
  | 8 => hiW k.at_
  | _ => k.split

/-- DIG_SCRUB registers (R330). -/
def State.scrubReg (s : State) (off : Nat) : Word32 :=
  let x := s.scrub
  match off with
  | 0 => x.cfg
  | 4 => word [(31, b2n x.run), (30, b2n x.late), (24, x.ctx), (22, x.slot), (0, x.shard)]
  | 8 => x.cnt
  | 12 => x.err
  | _ => 0

/-- Port states as PSTAT.STATE (R341). -/
def PortState.code : PortState → Nat
  | .down => 0 | .train => 1 | .align => 2 | .skewed => 3 | .held => 4 | .ready => 5

/-- The registers of a port (R373). LOCKP is 0, its reset value, until the port has trained. OFFSET and DELAY show the low 16 bits of a θ beyond ±8
steps and of a delay of one step or more (DESIGN CHOICE, log entry 148: R373 gives the widths alone). -/
def State.portReg (s : State) (q off : Nat) : Word32 :=
  let p := s.port q
  let cm := match s.links.plan with
    | some pl => pl.cmode
    | none => false
  let ser : Word64 := match p.ident with
    | some i => i.modser
    | none => 0
  match off with
  | 0x00 => word [(29, p.st.code), (25, p.cause.toNat), (24, b2n (s.inUse q)), (23, b2n cm),
      (22, b2n (p.trained && p.locked))]
  | 0x04 => p.insvc.truncate 32
  | 0x08 => p.good.truncate 32
  | 0x0C => word [(2, p.good.toNat / 2 ^ 32), (0, p.insvc.toNat / 2 ^ 32)]
  | 0x10 => word [(16, patt 16 (p.theta / 16)), (0, p.delay % 65536)]
  | 0x14 => p.feccor
  | 0x18 => p.fecunc
  | 0x1C => p.cwdrop
  | 0x20 => p.tagdrop
  | 0x24 => p.prx
  | 0x28 => p.ptx
  | 0x2C => p.dtdrop
  | 0x30 => lo32 ser
  | 0x34 => hi32 ser
  | 0x38 => match p.ident with
    | some i => word [(31, 1), (14, i.port.toNat), (6, i.idx.toNat), (0, i.pos.toNat)]
    | none => 0
  | _ => 0

/-- HKP_CPLAN and HKP_CPLANID (R374). -/
def State.planReg (s : State) (off : Nat) : Word32 :=
  match s.links.plan, off with
  | some p, 0 => word [(31, 1), (30, b2n p.cmode), (18, p.ringlen - 1), (12, p.rings - 1), (6, p.idx), (0, p.pos)]
  | some p, 4 => p.planid
  | _, _ => 0

/-- A word of the routing table (R375). -/
def State.routeWord (s : State) (off : Nat) : Word32 :=
  let e := s.route (off / 32)
  wordAt (leBytes 8 e.w0.toNat ++ leBytes 8 e.w1.toNat ++ leBytes 8 e.w2.toNat ++ leBytes 8 e.w3.toNat) (off / 4 % 8)

/-- LPD_ registers (R399, R400). -/
def State.lpdReg (s : State) (off : Nat) : Word32 :=
  let l := s.lpd
  if off < 0x100 then
    match off with
    | 0 => word [(31, b2n l.run), (10, l.rd), (5, l.wr), (0, l.rm)]
    | 4 => l.confv
    | 8 => loW (l.confa.getD 0)
    | 12 => word [(31, b2n l.confa.isSome), (0, l.confa.getD 0 / 2 ^ 32 % 4096)]
    | _ => 0
  else if off < 0x400 then
    let n := (off - 0x100) / 64
    let c := s.lctl n
    match off % 64 with
    | 0x00 => word [(30, c.st.toNat), (29, n / 6), (16, c.tref.toNat), (8, c.pprh.toNat), (0, c.pprs.toNat)]
    | 0x04 => c.trd
    | 0x08 => c.twr
    | 0x0C => c.trm
    | 0x10 => word [(16, c.unc.toNat), (0, c.cor.toNat)]
    | _ => 0
  else match off with
  | 0x400 => s.boot.rep0
  | 0x404 => s.boot.rep1
  | 0x408 => s.boot.rep2
  | _ => 0

/-! ### Registers of chapters 13 to 17 -/

/-- Core count of the ordering code (R1). -/
def Grade.cores : Grade → Nat
  | .a1920 => 1920
  | _ => 2048

/-- Device ID (R403). -/
def Grade.devid : Grade → Nat
  | .a2048 => 0x2048 | .a1920 => 0x1920 | .e2048 => 0x2049

/-- GLB_STRAPS (R459). -/
def strapsReg (x : Straps) : Word32 :=
  word [(7, b2n x.coord), (6, b2n x.expert), (5, b2n x.cool), (3, x.hostw.toNat), (2, b2n x.cold), (1, b2n x.strict)]

/-- GLB_DEGRADE (R459). -/
def State.degrade (s : State) : Word32 :=
  let b := s.boot
  word [(31, b2n (b.ready && decide (b.cores < s.keep.grade.cores))), (30, b2n !b.retired.isEmpty), (29, b2n b.dgDig), (28, b2n b.dgPort),
    (27, b2n b.oos), (0, Nat.min b.retired.length 0xFFFF)]

/-- GLB_START (R459). -/
def State.startReg (s : State) : Word32 :=
  word [(30, s.boot.path.toNat), (27, s.boot.tok.toNat), (23, s.boot.phase.toNat), (16, s.boot.repeats.toNat), (0, s.boot.elapsed.toNat)]

/-- The fused floor (R483): the largest value burned. -/
def Persist.floor (k : Persist) : Nat := k.floors.foldl (fun m f => Nat.max m f.toNat) 0

/-- Whether a presence-class command waits (GLB_PRES.WAIT). -/
def Job.waitsPress (j : Job) : Bool :=
  match j.phase with
  | .presence _ => true
  | _ => false

/-- Number of sponge lanes in service (R495). -/
def State.spongeLanes (s : State) : Nat := ((List.range 4).filter fun i => s.trust.lanesIn.getLsbD i).length

/-- SHARE as it acts (R330): 1 to 25, other values act as 25. -/
def shareOf (cfg : Word32) : Nat := let n := cfg.toNat % 256; if 1 ≤ n ∧ n ≤ 25 then n else 25

/-- The division of a round among the classes that have work now (R496): identity, scrubber, loads; REGEN_IDENTITY takes every slice (R490). The
8 bits of ID stop at 255 (log entry 145). -/
def State.digRound (s : State) : Word32 :=
  let l := s.spongeLanes
  let t := s.trust
  let regen := s.jobs.any Job.takesLanes
  let want := if regen then 100 * l
    else if !t.idrdy then (if t.seeds.isSome then 100 else 0)
    else if t.attGo || t.smcReq.isSome || t.building then 25 else 0
  let ident := Nat.min want (100 * l)
  let scr := if s.scrub.run && !regen then Nat.min (l * shareOf s.scrub.active) (100 * l - ident) else 0
  let n := (s.jobs.filter Job.digests).length + s.redigests.length
  word [(24, Nat.min ident 255), (16, scr), (0, Nat.min (100 * l - ident - scr) (100 * n))]

/-- Hottest reading of a list of sensors (R524), signed, as a pattern of 16 bits. -/
def hottest (l : List (BitVec 16)) : BitVec 16 :=
  match l with
  | [] => 0
  | a :: r => r.foldl (fun m x => if m.toInt < x.toInt then x else m) a

/-- Sensors of a die (R15). -/
def State.dieTj (s : State) (b : Bool) : List (BitVec 16) := if b then s.phys.tj.drop 128 else s.phys.tj.take 128

/-- GLB_COOL.COOLOK (R517): the -A grades report against 15 to 40 °C whatever COOL is. -/
def State.coolOk (s : State) : Bool :=
  let top := if s.boot.straps.cool && decide (s.keep.grade = .e2048) then 50 else 40
  decide (15 * 16 ≤ s.phys.tin.toNat) && decide (s.phys.tin.toNat ≤ top * 16)

/-- GLB_SMCSTAT (R524). -/
def State.smcstat (s : State) : Word32 :=
  word [(31, b2n s.phys.eid.isSome), (24, s.phys.smcq.length), (16, (s.phys.eid.getD 0).toNat), (0, s.phys.smcDrop.toNat)]

/-- The global registers at offsets below 0x2000 (R406, R459, R479, R503, R504, R524). GLB_PRES shows the debounced levels from the first sample
after a module reset on, and its reset values before (DEDUCED, log entry 156). -/
def State.glbReg (s : State) (off : Nat) : Word32 :=
  let b := s.boot
  let h := s.host
  let e := s.err
  let t := s.trust
  if 0x320 ≤ off ∧ off < 0x340 then wordAt t.nonce ((off - 0x320) / 4)
  else match off with
  | 0x00 => word [(16, s.keep.grade.devid), (8, 1)]
  | 0x04 => loW (if b.ready then b.cores else 0)
  | 0x08 => loW s.glbState
  | 0x0C => strapsReg b.straps
  | 0x10 => word [(31, b2n h.lock), (30, b2n h.expert)]
  | 0x14 => match h.window with
    | some (c, g) => word [(31, 1), (25, c.val), (0, g)]
    | none => 0
  | 0x18 => h.bar2v
  | 0x1C => word [(24, h.misLast.toNat), (16, h.misMbx.toNat), (0, h.misCount.toNat)]
  | 0x100 => lo32 b.fwhost
  | 0x104 => hi32 b.fwhost
  | 0x108 => b.fwlen
  | 0x10C => word [(1, b2n b.discard), (0, b2n b.go)]
  | 0x110 => word [(28, b.fwstate.toNat), (20, b.fwcode.toNat), (12, b.att.toNat)]
  | 0x114 => s.startReg
  | 0x118 => word [(16, s.keep.fuseOff.toNat), (0, b.enabled.toNat)]
  | 0x11C => s.degrade
  | 0x200 => e.errsum
  | 0x204 => word [(31, b2n e.busy), (28, if e.busy then (match e.queue with
      | r :: _ => r.cls.toNat
      | [] => 0) else 0), (16, e.queue.length), (0, e.peak)]
  | 0x208 => if e.seq = 0 then 0xFFFFFFFF else loW (e.seq - 1)
  | 0x20C => word [(0, b2n e.logsel)]
  | 0x210 => e.logbase
  | 0x214 => if s.keep.pseq = 0 then 0xFFFFFFFF else loW (s.keep.pseq - 1)
  | 0x218 => word [(16, e.lostCode.toNat), (0, e.lostCount.toNat)]
  | 0x21C => word [(0, e.haltCode.toNat)]
  | 0x220 => e.haltSeq
  | 0x300 => word [(12, s.keep.floor), (7, s.keep.floors.length), (2, s.keep.idgen), (1, b2n t.dbg), (0, b2n t.idrdy)]
  | 0x304 => word [(31, b2n (t.sampled && t.pres)), (30, b2n t.stuck), (29, b2n (t.sampled && t.jumper)), (28, b2n (t.sampled && t.sealed)), (27, b2n (s.jobs.any Job.waitsPress)),
      (0, t.presses.toNat)]
  | 0x308 => s.keep.sealcnt
  | 0x30C => if t.idrdy then loW t.next else 0
  | 0x310 => if t.idrdy then word [(0, t.next / 2 ^ 32 % 256)] else 0
  | 0x314 => word [(31, b2n t.attGo), (0, t.attCtx.toNat)]
  | 0x318 => word [(30, t.attState.toNat), (16, t.attCode.toNat), (0, t.attCount.toNat)]
  | 0x340 => word [(4, t.lanesEx.toNat), (0, t.lanesIn.toNat)]
  | 0x344 => t.round
  | 0x400 => s.phys.pwrctl
  | 0x404 => word [(16, s.phys.vin.toNat), (0, s.phys.pin.toNat)]
  | 0x408 => word [(16, s.phys.slim), (0, s.phys.plim)]
  | 0x40C => word [(16, s.phys.va), (0, s.phys.vb)]
  | 0x410 => word [(16, (hottest (s.dieTj false)).toNat), (0, (hottest (s.dieTj true)).toNat)]
  | 0x414 => word [(31, b2n s.coolOk), (30, b2n (decide (4800 ≤ s.phys.vin.toNat) && decide (s.phys.vin.toNat ≤ 5400))),
      (12, s.phys.tin.toNat), (0, s.phys.tout.toNat)]
  | 0x418 => s.smcstat
  | 0x1000 => word [(28, h.rate.toNat), (24, h.width.toNat), (23, b2n h.flit)]
  | 0x1004 => word [(16, h.ur.toNat), (0, h.ca.toNat)]
  | _ => 0

/-- Kept MARGINs of a cluster's positions as the end of the start-up has set them (R458, R460): position and margin. -/
def State.margins (s : State) (q : Nat) : List (Nat × Nat) :=
  (List.range 9).filterMap fun j => match sget 0 s.boot.wearShown (q * 9 + j) with
    | 0 => none
    | n + 1 => some (j, n)

/-- HKP_WEARq (R460). -/
def State.wearReg (s : State) (q : Nat) : Word32 :=
  match s.margins q with
  | [] => 0
  | a :: l =>
    let w := l.foldl (fun m x => if x.2 < m.2 then x else m) a
    word [(31, b2n (decide (w.2 < 30))), (30, b2n (decide (w.2 < 80))), (26, w.1), (0, w.2 % 1024)]

/-- Excluded positions of a cluster (R442). -/
def State.exclIn (s : State) (q : Nat) : List Nat := (List.range 9).filter fun j => s.boot.excl.contains (q * 9 + j)

/-- The position that serves logical core k of a cluster (R443, R460): 15 for none, as when its core-local SRAM cannot be served. -/
def State.servedBy (s : State) (q k : Nat) : Nat :=
  let x := s.exclIn q
  if s.boot.sramBad.contains (8 * q + k) then 15 else if !x.contains k then k else if x = [k] then 8 else 15

/-- GLB_CMAPq and GLB_CBADq (R460). -/
def State.mapReg (s : State) (off : Nat) : Word32 :=
  let q := off / 8
  let bits (l : List Nat) : Nat := ((List.range 9).map fun j => if l.contains (q * 9 + j) then 2 ^ j else 0).sum
  if off % 8 = 0 then word ((List.range 8).map fun k => (4 * k, s.servedBy q k))
  else word [(18, bits s.boot.excl), (9, bits s.boot.flash), (0, bits s.boot.testBad)]

/-- The 64 bytes of an event record (R462). -/
def EvRec.bytes (r : EvRec) : List Byte :=
  leBytes 4 r.seq ++ leBytes 2 r.code.toNat
    ++ leBytes 1 (r.cls.toNat + 8 * b2n r.sec + 16 * b2n r.remote + 32 * b2n r.esc) ++ leBytes 1 r.count ++ leBytes 8 r.time.toNat
    ++ leBytes 8 r.ms.toNat ++ leBytes 4 r.runid.toNat ++ [r.ctx, r.opos, r.oidx, r.cyc] ++ leBytes 4 r.unit.toNat
    ++ leBytes 2 r.layer.toNat ++ leBytes 2 r.pc.toNat ++ leBytes 8 r.step.toNat ++ leBytes 4 r.arg0.toNat ++ leBytes 4 r.arg1.toNat
    ++ leBytes 4 r.arg2.toNat ++ leBytes 4 r.arg3.toNat

/-- The record that slot j of the log window shows (R476, R477). -/
def State.logSlot (s : State) (j : Nat) : Option EvRec :=
  if s.err.logsel then s.keep.plog.find? fun r => decide (r.seq = s.err.logbase.toNat + j)
  else s.err.vlog.find? fun r => decide (r.seq % 4096 = j)

/-- A word of the log window (R477). -/
def State.logWord (s : State) (off : Nat) : Word32 :=
  match s.logSlot (off / 64) with
  | some r => wordAt r.bytes (off / 4 % 16)
  | none => 0

/-- A register of a mailbox (R409). -/
def State.mbxReg (s : State) (m off : Nat) : Word32 :=
  let x := s.mbox m
  match off with
  | 0x00 => word [(31, b2n x.armed), (30, b2n (s.expertLevel m)), (29, b2n (decide (m = 0))), (0, s.inprog m)]
  | 0x04 => lo32 x.mask
  | 0x08 => hi32 x.mask
  | 0x10 => word [(0, x.chead.toNat)]
  | 0x14 => word [(0, x.ctail.toNat)]
  | 0x18 => word [(0, x.rtail.toNat)]
  | 0x1C => word [(0, x.rhead.toNat)]
  | 0x20 => word [(0, x.ntail.toNat)]
  | 0x24 => word [(0, x.nhead.toNat)]
  | 0x28 => word [(24, x.errLast.toNat), (0, x.errCount.toNat)]
  | 0x2C => word [(0, x.nlost.toNat)]
  | _ => 0

/-- A word of the MSI-X table (R407): the mask bit of a vector is stored inverted (`State.msixMasked`). -/
def State.msixWord (s : State) (off : Nat) : Word32 :=
  let w := memWord s.host.msix off
  if off % 16 = 12 then w ^^^ 1 else w

/-- Record 0 of the identity chain (R491): the vendor's certificate of the generation-0 key, which no rule gives, behind its length; a free value
(log entry 154). -/
def vendorRecord : List Byte := let c := Config.vendorCert.take 65536; leBytes 4 c.length ++ c

/-- Offsets that are served before GLB_STATE.READY (R436). -/
def earlyReg (off : Nat) : Bool := off == 0 || off == 8 || off == 0xC || (decide (0x100 ≤ off) && decide (off ≤ 0x110))

/-- What a read of the word at a BAR0 offset outside the debug window returns. -/
def State.bar0 (s : State) (off : Nat) : Word32 :=
  if !s.boot.ready && !earlyReg off then 0
  else if off < 0x2000 then s.glbReg off
  else if off < 0x30000 then 0
  else if off < 0x31000 then s.lndReg (off - 0x30000)
  else if off < 0x32000 then s.pasReg (off - 0x31000)
  else if off < 0x33000 then s.mstReg (off - 0x32000)
  else if off < 0x34000 then 0
  else if off < 0x35000 then s.edReg (off - 0x34000)
  else if off < 0x35400 then s.ctxReg (off - 0x35000)
  else if off < 0x36000 then 0
  else if off < 0x37000 then s.scrubReg (off - 0x36000)
  else if off < 0x38000 then 0
  else if off < 0x38400 then s.portReg ((off - 0x38000) / 0x100) (off % 0x100)
  else if off < 0x39000 then s.planReg (off - 0x38400)
  else if off < 0x3A000 then s.lpdReg (off - 0x39000)
  else if off < 0x3A400 then s.wearReg ((off - 0x3A000) / 4)
  else if off < 0x3B000 then 0
  else if off < 0x3B800 then s.mapReg (off - 0x3B000)
  else if off < 0x40000 then 0
  else if off < 0x60000 then s.routeWord (off - 0x40000)
  else if off < 0xA0000 then s.logWord (off - 0x60000)
  else if off < 0xA2000 then wordAt s.trust.report ((off - 0xA0000) / 4)
  else if off < 0xE0000 then wordAt (vendorRecord ++ s.keep.chain) ((off - 0xA2000) / 4)
  else if off < 0xE8000 then s.msixWord (off - 0xE0000)
  else if off < 0xE8100 then (s.host.pba >>> (8 * (off - 0xE8000))).truncate 32
  else if off < 0x100000 then 0
  else if off < 0x200000 then
    let m := (off - 0x100000) / 0x10000
    let o := off % 0x10000
    if o < 0x1000 then s.mbxReg m o else if o < 0xF000 then memWord (s.mbox m).page o else 0
  else 0

end Sys2Proof.Machine
end

