-- ==== Sys2Proof/Machine/ResetOps.lean ====
section
/-! DEFINITION. Resets below module level, and the reset generations that let stale responses be absorbed (R267, R268, R453 to
R456); the messages to the SMC (R474, R521, R522). -/
namespace Sys2Proof.Machine

/-! ### The units of a reset -/

/-- Physical positions (p × 16 + c) × 9 + j that a unit contains (R453). -/
def unitCores : RstUnit → List Nat
  | .core p c j => [(p.val * 16 + c.val) * 9 + j.val]
  | .cluster p c => (List.range 9).map (· + (p.val * 16 + c.val) * 9)
  | .partition p => (List.range 144).map (· + p.val * 144)

/-- Keys of the reset generations that a reset of a unit advances (R455): cores, cluster ports, ramps. -/
def unitGens : RstUnit → List Nat
  | .core p c j => [(p.val * 16 + c.val) * 9 + j.val]
  | .cluster p c => unitCores (.cluster p c) ++ [4096 + 16 * p.val + c.val]
  | .partition p => unitCores (.partition p) ++ (List.range 16).map (· + 4096 + 16 * p.val) ++ [8192 + p.val]

/-- Advance reset generations by one; 15 wraps to 0 (R455). -/
def State.bumpGens (s : State) (l : List Nat) : State :=
  { s with rgen := l.foldl (fun m k => sset 0 m k (sget 0 m k + 1)) s.rgen }

/-- The entry of `State.cores` that a physical position stands for: the logical core that it serves (R16, R443), or its own. -/
def State.coreAt (s : State) (n : Nat) : Nat :=
  let p := n / 144
  let c := n / 9 % 16
  if s.boot.enabled.getLsbD p then
    match (List.range 8).find? fun k => decide (physPos s.boot.excl p c k = n % 9) with
    | some k => logPart s.boot.enabled p * 128 + c * 8 + k
    | none => 2048 + n
  else 2048 + n

/-- The reset generation of a physical position. -/
def State.posGen (s : State) (n : Nat) : BitVec 4 := s.gen n

/-- Fills of a core in flight. -/
def Core.fills (k : Core) : List SlotFill := (List.range 4).flatMap fun n => (k.chan n).fills

/-- Outbound slots of a core whose writes were issued before its last reset (R456). -/
def Core.issued (k : Core) : List (BitVec 4) := ((k.chan 4).outs ++ (k.chan 5).outs).filterMap fun w => w.old.map (·.1)

/-- Whether a reset of a unit may begin: no outstanding request carries the RGEN that it would produce (R455). -/
def State.mayReset (s : State) (u : RstUnit) : Bool :=
  !s.resets.contains u && (unitCores u).all fun n =>
    let k := s.core (s.coreAt n)
    (k.fills.all fun f => decide (f.rgen ≠ s.posGen n + 1)) && !k.issued.contains (s.posGen n + 1)

/-- Whether a run holds a core that a unit contains (R453). -/
def State.runHoldsUnit (s : State) (u : RstUnit) : Bool :=
  s.runHolds && (unitCores u).any fun n => decide (s.coreAt n < 2048)

/-- The writes of an outbound channel that are issued when its core is reset (R456): those of its oldest slot, with what they hold and the RGEN
that they carry; slots behind it have not been issued and are gone. -/
def Core.kept (k : Core) (ch : Nat) (g : BitVec 4) : List OutSlot :=
  let x := k.chan ch
  (x.outs.take 1).map fun w =>
    { w with old := some (w.old.getD (g, w.grains.map fun e => k.slotBytes ch x.geo (x.ringSlot w.n) e.2 64)) }

/-- A core in its reset state (R454): what it has outstanding stays outstanding (R455, R456), and the substitutions stay in force. -/
def Core.cleared (k : Core) (g : BitVec 4) : Core :=
  { chans := (List.range 6).foldl (fun m n => sset {} m n
      { fills := (k.chan n).fills.map fun (f : SlotFill) => { f with old := true }, outs := if n < 4 then [] else k.kept n g }) []
    sramrep := k.sramrep }

/-- Every Pass in which a core participates breaks when it is reset during a job (R267). -/
def State.breakOf (s : State) (c : Nat) : State :=
  if s.runHolds ∧ c < 2048 then s.breakPasses (c / 128 :: [16, 17, 18, 19]) (s.coreUnit c) else s

/-- Reset one physical position. -/
def State.resetPos (s : State) (n : Nat) : State :=
  let c := s.coreAt n
  (s.breakOf c).modCore c fun k => k.cleared (s.posGen n)

/-- A partition Pass in its initial state (R9, R268); a broken one stays broken until a program starts (R267). -/
def Pass.initial (x : Pass) : Pass := { brk := x.brk, by_ := x.by_ }

/-- What a partition reset does beside its cores (R9, R268, R454): LND_OVR is cleared too, since its Meaning keeps it across no reset
(DEDUCED, log entry 35). -/
def State.resetPartition (s : State) (p : Nat) : State :=
  if s.boot.enabled.getLsbD p then
    let l := logPart s.boot.enabled p
    (s.modPart l fun x => { x with landing := [], step := 0, ovr := 0 }).modPass l Pass.initial
  else s

/-- A reset begins (R454, R455): generations advance and the units take their reset state. -/
def State.beginReset (s : State) (u : RstUnit) : State :=
  let s1 := ((unitCores u).foldl State.resetPos s).bumpGens (unitGens u)
  let s2 := match u with
    | .partition p => s1.resetPartition p.val
    | _ => s1
  { s2 with resets := s2.resets ++ [u] }

/-- Every commanded reset that waits and may now begin does so (R455). -/
def State.startResets (s : State) : State :=
  s.jobs.foldl (fun s j => match j.phase with
    | .resetting u => if s.mayReset u then s.beginReset u else s
    | _ => s) s

/-- Whether a command in progress is the reset of a unit. -/
def Job.resets (j : Job) (u : RstUnit) : Bool :=
  match j.phase with
  | .resetting v => decide (v = u)
  | _ => false

/-- A commanded reset: refused while a run holds a core that it contains (R453), else it begins when it may. -/
def State.commandReset (s : State) (j : Job) (u : RstUnit) : State :=
  if s.runHoldsUnit u then s.reply j 7 0x45 [] else (s.pushJob { j with phase := .resetting u }).startResets

/-- Whether everything that a reset of a unit drains has been acknowledged (R456). -/
def State.drained (s : State) (u : RstUnit) : Bool := (unitCores u).all fun n => (s.core (s.coreAt n)).issued.isEmpty

/-- RESET_COMPLETE (R453, R456): once everything that the level drains has been acknowledged. -/
def execResetComplete (u : RstUnit) (s : State) : Host.Outcome State Fault Refusal :=
  if s.resets.contains u && s.drained u then
    let s1 := { s with resets := s.resets.erase u }
    let s2 := match s1.jobs.find? fun j => j.resets u with
      | some j => s1.complete j 0 0 []
      | none => s1
    .next s2.startResets
  else .next s

/-- A response of the first fill of a core whose reset generation is old returns. -/
def Core.absorb (k : Core) (g : BitVec 4) : Core :=
  match (List.range 4).find? fun n => (k.chan n).fills.any fun f => decide (f.rgen ≠ g) with
  | some n => k.modChan n fun x => x.absorb fun f => decide (f.rgen ≠ g)
  | none => k

/-- STALE_RESPONSE_ABSORBED (R455): a response to a unit that carries an old RGEN writes nothing and returns its credit; a release
notice with an old RGEN is absorbed likewise. -/
def execStaleResponseAbsorbed (u : RstUnit) (s : State) : Host.Outcome State Fault Refusal :=
  let old (n : Nat) : Bool := (s.core (s.coreAt n)).fills.any fun f => decide (f.rgen ≠ s.posGen n)
  match (unitCores u).find? old with
  | some n => .next ((s.modCore (s.coreAt n) fun k => k.absorb (s.posGen n)).startResets)
  | none =>
    let stale (x : Notice) : Bool := unitHolds u (s.keyPos x.core.val) && decide (x.rgen ≠ s.coreGen x.core.val)
    match s.notices.find? stale with
    | some x => .next { s with notices := s.notices.erase x }
    | none => .next s

/-- STALE_FILL_ABSORBED (R227, R455): the response of a transaction of a cancelled fill returns; it writes nothing and its credit is
free; a reset that has waited for it begins. -/
def execStaleFillAbsorbed (c : CoreId) (ch : Fin 4) (s : State) : Host.Outcome State Fault Refusal :=
  .next (s.modCore c.val fun k => k.modChan ch.val fun x => x.absorb fun f => !x.isLive f).startResets

/-! ### The SMC sideband -/

/-- The module's 7-bit SMBus address (R520), from the address pins latched at power-good (R518). -/
def State.smbAddress (s : State) : BitVec 7 := 0x60 + s.boot.smbAdr.zeroExtend 7

/-- Send an MCTP message as SMBus master, from the module's address (R520). -/
def State.sendMctp (s : State) (b : List Byte) : State := s.emit (.mctp s.smbAddress b)

/-- A vendor-defined MCTP message of the module (R474): message type, vendor ID, kind, body. -/
def mctpMsg (kind : Nat) (body : List Byte) : List Byte := [0x7E#8, 0x1F#8, 0x4C#8] ++ leBytes 2 kind ++ body

/-- The module queues an event message; one that finds 64 waiting is counted in DROP (R474, R522). -/
def State.smcEvent (s : State) (r : EvRec) : State :=
  if s.phys.smcq.length < 64 then { s with phys := { s.phys with smcq := s.phys.smcq ++ [mctpMsg 0x0001 r.bytes] } }
  else { s with phys := { s.phys with smcDrop := sat16 s.phys.smcDrop 1 } }

/-- Acknowledge a request of the SMC (R475, R521). -/
def State.smcAck (s : State) (tag : Word32) (status reason : Byte) : State := s.emit (.smcAck tag status reason)

end Sys2Proof.Machine
end

