-- ==== Sys2Proof/Machine/Spares.lean ====
section
/-! DEFINITION. The spares of the bonded SRAM and of the ports, and their resolution (R331, R335, R376, R377, R395, R396, R398, R401,
R444): from the units that are marked bad, which rows and banks are served by spares and which cannot be served. -/
namespace Sys2Proof.Machine

/-! ### What the spec provides (R395) -/

/-- First Landing, first BOT and first housekeeping bank in the numbering of `SpareUnit`, and the end of it. -/
def landingBank0 : Nat := 32768
def botBank0 : Nat := 33792
def hkBank0 : Nat := 33856
def bankEnd : Nat := 33920

/-- Rows of 1 KiB that a bank has of its own: 256 KiB core-local, 512 KiB Landing, 1 MiB BOT and housekeeping. -/
def ownRows (b : Nat) : Nat := if b < landingBank0 then 256 else if b < botBank0 then 512 else 1024

/-- Spare rows of a bank (R395): BOT and housekeeping banks have none (R396). -/
def spareRows (b : Nat) : Nat := if b < landingBank0 then 4 else if b < botBank0 then 16 else 0

/-- The pool of spare banks that serves a bank (R395): its cluster's, its Landing buffer's, the BOT's or the housekeeping SRAM's. -/
def bankPool (b : Nat) : Nat :=
  if b < landingBank0 then b / 128 else if b < botBank0 then 256 + (b - landingBank0) / 64 else if b < hkBank0 then 272 else 273

/-- Spare banks of a pool (R395). -/
def poolSize (p : Nat) : Nat := if p < 256 then 2 else if p < 272 then 12 else 8

/-- The physical partition of a bank, for a core-local or a Landing bank. -/
def bankPart (b : Nat) : Option Nat :=
  if b < landingBank0 then some (b / 2048) else if b < botBank0 then some ((b - landingBank0) / 64) else none

/-! ### Resolution (R396) -/

/-- The bank in which a unit lies. -/
def SpareUnit.bankOf : SpareUnit → Option Nat
  | .row b _ => some b
  | .bank b => some b
  | _ => none

/-- Own rows of a bank that are marked, each once. -/
def failedRows (f : List SpareUnit) (b : Nat) : List Nat :=
  (f.filterMap fun u => match u with
    | .row c r => if c = b ∧ r < ownRows b then some r else none
    | _ => none).eraseDups

/-- Spare rows of a bank that are not marked. -/
def goodSpareRows (f : List SpareUnit) (b : Nat) : Nat :=
  ((List.range (spareRows b)).filter fun i => !f.contains (.row b (ownRows b + i))).length

/-- Whether a bank must be replaced whole: it is marked, or it has more failed rows than spare rows (R396). -/
def bankFailed (f : List SpareUnit) (b : Nat) : Bool := f.contains (.bank b) || decide (goodSpareRows f b < (failedRows f b).length)

/-- The banks that must be replaced whole, in the order in which their marks stand: fuses first, then the keeping flash (log entry 113). -/
def failedBanks (f : List SpareUnit) : List Nat := (f.filterMap SpareUnit.bankOf).eraseDups.filter fun b => decide (b < bankEnd) && bankFailed f b

/-- Spare banks of a pool that are not marked. -/
def goodSpares (f : List SpareUnit) (p : Nat) : Nat := ((List.range (poolSize p)).filter fun i => !f.contains (.spare p i)).length

/-- Split the failed banks into those that a spare bank serves and those that none serves, given the spares that each pool has used. -/
def serveBanks (f : List SpareUnit) : List Nat → Sparse Nat → List Nat × List Nat
  | [], _ => ([], [])
  | b :: l, used =>
    let p := bankPool b
    let n := sget 0 used p
    if n < goodSpares f p then
      let x := serveBanks f l (sset 0 used p (n + 1))
      (b :: x.1, x.2)
    else
      let x := serveBanks f l used
      (x.1, b :: x.2)

/-- Banks that a spare bank serves, and banks that cannot be served (R398). -/
def bankService (f : List SpareUnit) : List Nat × List Nat := serveBanks f (failedBanks f) []

/-- Rows that spare rows serve, as bank and row: those of the banks that are not replaced whole. -/
def servedRows (f : List SpareUnit) : List (Nat × Nat) :=
  ((f.filterMap SpareUnit.bankOf).eraseDups.filter fun b => decide (b < botBank0) && !bankFailed f b).flatMap fun b =>
    (failedRows f b).map fun r => (b, r)

/-- Positions (p × 16 + c) × 8 + k whose core-local SRAM cannot be served (R398). -/
def sramLost (f : List SpareUnit) : List Nat := ((bankService f).2.filter fun b => decide (b < landingBank0)).map (· / 16)

/-- Physical partitions whose Landing buffer cannot be served (R398). -/
def landingLost (f : List SpareUnit) : List Nat :=
  ((bankService f).2.filter fun b => decide (landingBank0 ≤ b) && decide (b < botBank0)).map fun b => (b - landingBank0) / 64

/-- Whether a BOT or housekeeping bank cannot be served (R446). -/
def hkLost (f : List SpareUnit) : Bool := (bankService f).2.any fun b => decide (botBank0 ≤ b)

/-- The lanes of a port that no mark puts out of use (R335, R444). -/
def goodLanes (f : List SpareUnit) (q : PortId) : BitVec 34 :=
  portLanes q.val (BitVec.ofNat 34 ((List.range 34).map fun i => if f.contains (.lane q (Fin.ofNat 34 i)) then 0 else 2 ^ i).sum)

/-! ### What the registers show (R401) -/

/-- The marks in force: those of the fuses, then those of the keeping flash (R442). -/
def Persist.units (k : Persist) : List SpareUnit := k.fuseUnits ++ k.pendUnits.filter fun u => !k.fuseUnits.contains u

/-- Whether a bank lies in an enabled partition, or in none. -/
def bankEnabled (en : BitVec 16) (b : Nat) : Bool :=
  match bankPart b with
  | some p => en.getLsbD p
  | none => true

/-- GLB_SRAMREP0 to GLB_SRAMREP2: rows and banks in use, of enabled partitions alone (R377). -/
def sramReps (f : List SpareUnit) (en : BitVec 16) : Word32 × Word32 × Word32 :=
  let rows := (servedRows f).filter fun x => bankEnabled en x.1
  let banks := (bankService f).1.filter (bankEnabled en)
  let cl (b : Nat) : Bool := decide (b < landingBank0)
  let ld (b : Nat) : Bool := decide (landingBank0 ≤ b) && decide (b < botBank0)
  (loW (rows.filter fun x => cl x.1).length,
   word [(16, (rows.filter fun x => ld x.1).length % 65536), (0, (banks.filter cl).length % 1024)],
   word [(8, (banks.filter fun b => decide (botBank0 ≤ b)).length % 32), (0, (banks.filter ld).length % 256)])

/-- CORE_SRAMREP of a position (p × 16 + c) × 8 + k. -/
def sramRepWord (f : List SpareUnit) (pos : Nat) : Word32 :=
  let mask := (List.range 16).map fun i => if (bankService f).1.contains (16 * pos + i) then 2 ^ i else 0
  word [(16, ((servedRows f).filter fun x => decide (x.1 / 16 = pos)).length % 128), (0, mask.sum)]

/-- LND_SPARE of a physical partition. -/
def lndSpareWord (f : List SpareUnit) (p : Nat) : Word32 :=
  let here (b : Nat) : Bool := decide (landingBank0 ≤ b) && decide (bankPart b = some p)
  word [(28, ((bankService f).1.filter here).length % 16), (0, ((servedRows f).filter fun x => here x.1).length % 2048)]

/-! ### Events -/

/-- UNIT of a spare unit (R463): a port for a lane, else its bank; a spare bank has the numbers after the last bank (log entry 114). -/
def SpareUnit.unit : SpareUnit → Word32
  | .lane q _ => portUnit q.val
  | .row b _ => BitVec.ofNat 32 (0x90000000 + b % 65536)
  | .bank b => BitVec.ofNat 32 (0x90000000 + b % 65536)
  | .spare p i =>
    let base := if p < 256 then 2 * p else if p < 272 then 512 + 12 * (p - 256) else 704 + 8 * (p - 272)
    BitVec.ofNat 32 (0x90000000 + (bankEnd + base + i) % 65536)

/-- The address that Spare Exhausted gives for a bank (log entry 115): the region 0x0 offset of a core-local bank, the module address of a
BOT bank, and none for a Landing bank, whose bytes are interleaved over the banks (R233), or for a housekeeping bank. -/
def bankAddr (b : Nat) : Option Nat :=
  if b < landingBank0 then some (b % 16 * 0x40000)
  else if botBank0 ≤ b ∧ b < hkBank0 then some (3 * 2 ^ 44 + (b - botBank0) * 2 ^ 20)
  else none

end Sys2Proof.Machine
end

