-- ==== Sys2Proof/Machine/Expert.lean ====
section
/-! DEFINITION. The commands at the expert level (R426 to R428, R453, R457, R490, R500, R501) and the presence inputs that authorise
three of them (R498, R499, R502). -/
namespace Sys2Proof.Machine

/-! ### CORE_CTRL and the debug map -/

/-- OP of CORE_CTRL. -/
def ctrlOp (a : List Byte) : Nat := leAt a 3 1

/-- p, c and k of a command are in range: k = 8 is the spare position. -/
def posArgs (a : List Byte) : Bool := decide (leAt a 0 1 < 16) && decide (leAt a 1 1 < 16) && decide (leAt a 2 1 ≤ 8)

/-- CORE_CTRL with an OP that a row stands for. -/
def ctrlCmd (ops : Nat → Bool) : Cmd := ⟨0x8003, .expert, [(0, 4)], fun a => posArgs a && ops (ctrlOp a)⟩

/-- The physical partition, cluster and position of a command (R426); p is logical and must be enabled. -/
def State.needPos (s : State) (j : Job) (f : Fin 16 → Fin 16 → Fin 9 → State) : State :=
  let p := leAt j.args 0 1
  if p < s.nparts then f (Fin.ofNat 16 (physPart s.boot.enabled p)) (Fin.ofNat 16 (leAt j.args 1 1)) (Fin.ofNat 9 (leAt j.args 2 1))
  else s.reply j 3 0x40 []

/-- The entry of `State.cores` at a physical position. -/
def State.coreOf (s : State) (p c : Fin 16) (k : Fin 9) : Nat := s.coreAt ((p.val * 16 + c.val) * 9 + k.val)

/-- CORE_HALT (R197, R426): CORE_CTRL OP 0x01; an OP that R426 does not assign is a bad argument. -/
def execCoreHalt (m : MbxId) (s : State) : Host.Outcome State Fault Refusal :=
  .next (s.startCmd m (ctrlCmd fun o => decide (o = 1)) (fun a => decide (ctrlOp a ≤ 1) || decide (5 ≤ ctrlOp a)) fun s j =>
    s.needPos j fun p c k => (s.modCore (s.coreOf p c k) Core.stopNow).reply j 0 0 [])

/-- CORE_RESET (R453): CORE_CTRL OP 0x02. -/
def execCoreReset (m : MbxId) (s : State) : Host.Outcome State Fault Refusal :=
  .next (s.startCmd m (ctrlCmd fun o => decide (o = 2)) (fun a => decide (ctrlOp a = 2)) fun s j =>
    s.needPos j fun p c k => s.commandReset j (.core p c k))

/-- CLUSTER_RESET (R453): CORE_CTRL OP 0x03. -/
def execClusterReset (m : MbxId) (s : State) : Host.Outcome State Fault Refusal :=
  .next (s.startCmd m (ctrlCmd fun o => decide (o = 3)) (fun a => decide (ctrlOp a = 3)) fun s j =>
    s.needPos j fun p c _ => s.commandReset j (.cluster p c))

/-- PARTITION_RESET (R453): CORE_CTRL OP 0x04. -/
def execPartitionReset (m : MbxId) (s : State) : Host.Outcome State Fault Refusal :=
  .next (s.startCmd m (ctrlCmd fun o => decide (o = 4)) (fun a => decide (ctrlOp a = 4)) fun s j =>
    s.needPos j fun p _ _ => s.commandReset j (.partition p))

/-- The key that DEBUG_MAP holds for a core of a logical partition that the module does not have: its registers read as zero and writes to
them are dropped (R2). No core has this key. -/
def absentCore : Nat := 4352

/-- The core that p, c and k of DEBUG_MAP name; a partition beyond the enabled ones is absent (R2, log entry 117). -/
def State.mapKey (s : State) (a : List Byte) : Nat :=
  let p := leAt a 0 1
  if p < s.nparts then
    s.coreOf (Fin.ofNat 16 (physPart s.boot.enabled p)) (Fin.ofNat 16 (leAt a 1 1)) (Fin.ofNat 9 (leAt a 2 1))
  else absentCore

/-- DEBUG_MAP (R2, R426, R427, R430). -/
def execDebugMap (m : MbxId) (s : State) : Host.Outcome State Fault Refusal :=
  .next (s.startCmd m ⟨0x8001, .expert, [(0, 3)], posArgs⟩ anyArgs fun s j =>
    ({ s with host := { s.host with mapped := some (s.mapKey j.args, m) } }).reply j 0 0 [])

/-- DEBUG_UNMAP (R426). -/
def execDebugUnmap (m : MbxId) (s : State) : Host.Outcome State Fault Refusal :=
  .next (s.startCmd m ⟨0x8002, .expert, [], noArgs⟩ anyArgs fun s j =>
    ({ s with host := { s.host with mapped := none } }).reply j 0 0 [])

/-! ### RAW_XFER and RAW_DESC -/

/-- A module address of RAW_XFER: region and offset (R384). -/
def rawRegion (a : Nat) : Nat := a / 2 ^ 44
def rawOff (a : Nat) : Nat := a % 2 ^ 44

/-- Contexts of a mailbox's mask. -/
def State.maskCtxs (s : State) (m : Nat) : List Ctx := ((List.range 64).filter fun x => (s.mbox m).mask.getLsbD x).map fun x => s.ctx x

/-- BOT byte ranges of a context's reservations. -/
def Ctx.botAreas (k : Ctx) : List (Nat × Nat) := if k.opened then k.bots.map fun b => (4 * b, 4 * k.botq) else []

/-- BOT byte ranges of the runs that a slot's edition uses (R190). -/
def Slot.botRuns (x : Slot) : List (Nat × Nat) :=
  match x.man with
  | some man => (x.botFirst.zip man.runs).map fun r => (4 * r.1, 4 * r.2.1)
  | none => []

/-- BOT byte ranges of a context that resident editions use: no command changes them (R190). -/
def Ctx.botUsed (k : Ctx) : List (Nat × Nat) := (List.range 4).flatMap fun e => (k.slot e).botRuns

/-- Whether two ranges have a byte in common. -/
def overlaps (a n b m : Nat) : Bool := decide (a < b + m) && decide (b < a + n)

/-- Whether RAW_XFER may read or write a range (R426): LPDDR and BOT within the contexts of the mask, SRAM of the mapped core; the BOT entries
of a resident edition are not written (R190). -/
def State.rawOk (s : State) (m a n : Nat) (write : Bool) : Bool :=
  let o := rawOff a
  let ks := s.maskCtxs m
  match rawRegion a with
  | 0 => s.host.mapped.isSome && decide (o + n ≤ sramSize)
  | 2 => covered (ks.flatMap fun k => if write then k.writeAreas else k.readAreas) o n
  | 3 => covered (ks.flatMap Ctx.botAreas) o n && !(write && ks.any fun k => k.botUsed.any fun r => overlaps o n r.1 r.2)
  | _ => false

/-- The mapped entry of `State.cores`. -/
def State.mappedKey (s : State) : Nat :=
  match s.host.mapped with
  | some (c, _) => c
  | none => 0

/-- The turns that RAW_XFER takes of the LPDDR controllers: the HKP's traffic is of the remote class (R390, log entry 118). -/
def State.rawTurns (s : State) (a n : Nat) : State := if rawRegion a = 2 then s.useTurns .remote (rawOff a) n else s

/-- The bytes of a source of RAW_XFER. -/
def State.rawRead (s : State) (a n : Nat) : List Byte :=
  let o := rawOff a
  match rawRegion a with
  | 0 => rdBytes (s.core s.mappedKey).sram o n
  | 2 => rdBytes s.lpddr o n
  | _ => (List.range n).map fun i => botByte s.bot (o + i)

/-- Write one byte of the BOT. -/
def putBotByte (t : Sparse Word32) (a : Nat) (b : Byte) : Sparse Word32 :=
  sset 0 t (a / 4) (BitVec.ofNat 32 (leNat (putBytes (leBytes 4 (sget 0 t (a / 4)).toNat) (a % 4) [b])))

/-- Write bytes into the BOT. -/
def putBot (t : Sparse Word32) (a : Nat) : List Byte → Sparse Word32
  | [] => t
  | b :: l => putBot (putBotByte t a b) (a + 1) l

/-- Write the destination of RAW_XFER; a position that serves no logical core has no SRAM (R376). -/
def State.rawWrite (s : State) (a : Nat) (d : List Byte) : State :=
  let o := rawOff a
  match rawRegion a with
  | 0 => if s.mappedKey < 2048 then s.modCore s.mappedKey fun k => { k with sram := wrBytes k.sram o d } else s
  | 2 => { s with lpddr := wrBytes s.lpddr o d }
  | _ => { s with bot := putBot s.bot o d }

/-- RAW_XFER (R426). -/
def execRawXfer (m : MbxId) (s : State) : Host.Outcome State Fault Refusal :=
  .next (s.startCmd m ⟨0x8004, .expert, [(0, 24)], fun a => decide (leAt a 16 8 % 64 = 0)⟩ anyArgs fun s j =>
    let (a, b, n) := (leAt j.args 0 8, leAt j.args 8 8, leAt j.args 16 8)
    if s.rawOk m.val a n false && s.rawOk m.val b n true then (((s.rawWrite b (s.rawRead a n)).rawTurns a n).rawTurns b n).reply j 0 0 []
    else s.reply j 3 0x40 [])

/-- Arm a descriptor on a core without a program (R212 to R214, R426). -/
def State.rawArm (s : State) (c ch : Nat) (b : List Byte) : State :=
  let k := s.core c
  let x := k.chan ch
  if x.active.isSome then s.modCore c fun k => k.modChan ch fun y => { y with ign := sat16 y.ign 1 }
  else
    let d := parseDesc b k.lstep 0 0
    let r := descCheck k b (inboundCh ch) d
    let r := if r = 0 ∧ x.h ≠ x.t ∧ d.geo ≠ x.geo then 7 else r
    if r ≠ 0 then
      let s1 := s.modCore c fun k => k.noteStream ch r 0
      s1.coreFault c k.now 0x0103 0xFFFF (s1.core c).stmFault 0xFFFFFFFF 0xFFFFFFFF (BitVec.ofNat 32 k.now)
    else s.modCore c fun k => k.modChan ch fun y => y.activate ch d

/-- RAW_DESC (R426): the mapped core must hold no program; an absent one (R2) holds no descriptor. -/
def execRawDesc (m : MbxId) (s : State) : Host.Outcome State Fault Refusal :=
  .next (s.startCmd m ⟨0x8005, .expert, [(0, 1), (8, 104)], fun a => decide (leAt a 0 1 < 6)⟩ anyArgs fun s j =>
    match s.host.mapped with
    | some (c, _) =>
      if (s.core c).status = .none ∧ c ≠ absentCore then (s.rawArm c (leAt j.args 0 1) ((j.args.drop 8).take 104 ++ zeros 24)).reply j 0 0 []
      else s.reply j 7 0x45 []
    | none => s.reply j 7 0x45 [])

/-! ### The presence class (R428, R499, R500) -/

/-- A presence-class command waits for a press from its start. -/
def State.waitPress (s : State) (j : Job) : State := s.pushJob { j with phase := .presence s.keep.ticks }

/-- UNLOCK_DEBUG (R501). -/
def execUnlockDebug (m : MbxId) (s : State) : Host.Outcome State Fault Refusal :=
  .next (s.startCmd m ⟨0x8010, .expert, [], noArgs⟩ anyArgs fun s j => s.waitPress j)

/-- COMMIT_SPARES (R457): refused while a run holds a core. -/
def execCommitSpares (m : MbxId) (s : State) : Host.Outcome State Fault Refusal :=
  .next (s.startCmd m ⟨0x8011, .expert, [], noArgs⟩ anyArgs fun s j => if s.runHolds then s.reply j 7 0x45 [] else s.waitPress j)

/-- Whether a command is a REGEN_IDENTITY whose press has come (R490). -/
def Job.regens (j : Job) : Bool :=
  match j.phase with
  | .regen _ _ => true
  | _ => false

/-- Status and reason with which REGEN_IDENTITY is refused now (R490), or none. -/
def State.regenRefusal (s : State) : Option (Nat × Nat) :=
  if s.runHolds then some (7, 0x45)
  else if s.trust.regened || s.jobs.any Job.regens then some (7, 0x48)
  else if 16 ≤ s.keep.idgen then some (8, 0)
  else none

/-- REGEN_IDENTITY (R490). -/
def execRegenIdentity (m : MbxId) (s : State) : Host.Outcome State Fault Refusal :=
  .next (s.startCmd m ⟨0x8012, .expert, [], noArgs⟩ anyArgs fun s j => match s.regenRefusal with
    | some (st, r) => s.reply j st r []
    | none => s.waitPress j)

/-- A mark of the fuse map as bytes: the map has no layout in the spec, and each mark has bytes of its own. -/
def SpareUnit.bytes : SpareUnit → List Byte
  | .row b r => 1 :: (leBytes 4 b ++ leBytes 4 r)
  | .bank b => 2 :: leBytes 8 b
  | .spare p i => 3 :: (leBytes 4 p ++ leBytes 4 i)
  | .lane q i => 4 :: (leBytes 4 q.val ++ leBytes 4 i.val)

/-- The digest of the fuse map that the token holds (R449). -/
def Persist.mapDigest (k : Persist) : List Byte :=
  (digest512 (leBytes 2 k.fuseOff.toNat ++ leBytes 1 k.fuseDig.toNat ++ k.fuseMarks.flatMap (leBytes 2)
    ++ k.fuseRows.flatMap (leBytes 8) ++ k.fuseUnits.flatMap SpareUnit.bytes ++ k.fuseLost.flatMap (leBytes 8))).take 16

/-! The tests-valid token (R449) -/

/-- MAGIC, FORMAT and VALID of a token. -/
def tokenHead : List Byte := [0x54#8, 0x56#8, 0x54#8, 0x4B#8, 1, 0, 1, 0]

/-- The 64 bytes of a token written at a count of powered seconds (R449): CHECK is over the bytes before it. -/
def Persist.tokenAt (k : Persist) (written : Nat) : List Byte :=
  let b := tokenHead ++ leBytes 8 k.modser.toNat ++ k.mapDigest ++ leBytes 4 k.spseq ++ leBytes 8 written ++ zeros 4
  b ++ shake256 b 16

/-- Fields of the token that the keeping flash holds. -/
def Persist.tokValid (k : Persist) : Bool := decide (k.token.getD 6 0 = 1)
def Persist.tokModser (k : Persist) : Nat := leAt k.token 8 8
def Persist.tokFuses (k : Persist) : List Byte := (k.token.drop 16).take 16
def Persist.tokSpseq (k : Persist) : Nat := leAt k.token 0x20 4
def Persist.tokWritten (k : Persist) : Nat := leAt k.token 0x24 8

/-- Whether MAGIC, FORMAT and CHECK of the token are correct (R450). CHECK stands for the token as it was written, VALID being 0x01: clearing VALID
rewrites no other byte (R451; DESIGN CHOICE, log entry 132). -/
def Persist.tokIntact (k : Persist) : Bool :=
  let t := k.token.set 6 1
  decide (t.length = 64) && decide (t.take 6 = tokenHead.take 6) && decide (shake256 (t.take 48) 16 = t.drop 48)

/-- Fuse records that a commit needs (R457): one for each pending mark but that of an LPDDR row that a repair in the package serves (DEDUCED, log
entries 84 and 155). -/
def Persist.commitNeeds (k : Persist) : Nat :=
  k.pend.length + ((List.range 4).filter fun i => k.pendDig.getLsbD i).length + k.pendUnits.length + k.pendLost.length

/-- The keeping flash and the fuses after a commit (R452, R457): a valid token is rewritten for the new fuse map and stays valid. -/
def Persist.commit (k : Persist) : Persist :=
  let k1 := { k with
    fuseMarks := k.fuseMarks ++ (k.pend.map fun (x : Nat × Nat) => x.1).filter fun n => !k.fuseMarks.contains n
    fuseDig := k.fuseDig ||| k.pendDig, fuseRows := k.fuseRows ++ k.pendRows, fuseLost := k.fuseLost ++ k.pendLost
    fuseUnits := k.units, fuseFree := k.fuseFree - k.commitNeeds, pend := [], pendDig := 0, pendRows := [], pendLost := [], pendUnits := []
    spseq := k.spseq + 1 }
  if k.tokValid && k.tokIntact then { k1 with token := k1.tokenAt k.tokWritten } else k1

/-- Commit the pending marks (R457): nothing is committed when the free records do not suffice. -/
def State.commitSpares (s : State) (j : Job) : State :=
  if s.runHolds then s.complete j 7 0x45 []
  else if s.keep.fuseFree < s.keep.commitNeeds then s.complete j 8 0 []
  else
    let s1 := s.keep.pendRows.foldl (fun s a => s.modLctl ((lpdPlace a).1) fun c => { c with pprh := c.pprh + 1 }) s
    ({ s1 with keep := s1.keep.commit }).complete j 0 0 []

/-- The link record of a new generation (R491): the public key of the new seeds, signed by the old key when it can sign. -/
def State.linkRecord (s : State) (g : Nat) (seeds : List Byte) : List Byte :=
  let head (flag : Byte) : List Byte := [BitVec.ofNat 8 g, flag] ++ (identityKey seeds ++ zeros 68).take 68
  let sig : Option (List Byte) := match s.trust.seeds with
    | some old =>
      if s.trust.idrdy ∧ s.trust.next < idKeys then some ((identitySign old s.trust.next (head 1) ++ zeros 5605).take 5605) else none
    | none => none
  leBytes 4 5675 ++ match sig with
    | some b => head 1 ++ b
    | none => head 0 ++ zeros 5605

/-- A REGEN_IDENTITY takes its next step (R490). -/
def State.regenPhase (s : State) (j : Job) (n : Nat) (seeds : List Byte) : State :=
  { s with jobs := replaceFirst (fun k => decide (k = j)) (fun _ => { j with phase := .regen n seeds }) s.jobs }

/-- The press serves REGEN_IDENTITY (R490): it now waits for the lanes. -/
def State.regenIdentity (s : State) (j : Job) : State :=
  match s.regenRefusal with
  | some (st, r) => s.complete j st r []
  | none => s.regenPhase j 0 []

/-- Steps 1 and 2 of REGEN_IDENTITY (R490): once no digest of another class is on a lane all lanes are taken, and new seeds are drawn from the
entropy source. -/
def State.regenDraw (s : State) (j : Job) : State :=
  if s.jobs.any Job.digests || !s.redigests.isEmpty then s else ({ s with free := s.free + 1 }).regenPhase j 1 (seedsOf s.free)

/-- Step 3 of REGEN_IDENTITY (R487, R490, R491): the trees are built; the key record sealed under K_N is written as pending, and the link record
with it, which the old key signs with an index that has been reserved. -/
def State.regenPending (s : State) (j : Job) (seeds : List Byte) : State :=
  let s1 := if s.trust.seeds.isSome && s.needsReserve then s.reserve else s
  let g := s1.keep.idgen + 1
  ({ s1 with
      free := s1.free + 1
      keep := { s1.keep with
        idPend := some (sealRecord (s1.trust.kn.getD []) (nonceOf s1.free) (keyPlain g seeds)), chain := s1.keep.chain ++ s1.linkRecord g seeds }
      trust := if s1.trust.idrdy then s1.trust.useIndex else s1.trust }).regenPhase j 2 seeds

/-- Step 4 of REGEN_IDENTITY (R490): the next IDGEN bit is burned. -/
def State.regenBurn (s : State) (j : Job) (seeds : List Byte) : State :=
  ({ s with keep := { s.keep with idgen := s.keep.idgen + 1 } }).regenPhase j 3 seeds

/-- Step 5 of REGEN_IDENTITY (R490): the pending record becomes current, with LIM = 4,096 and a next index of 0. -/
def State.regenDone (s : State) (j : Job) (seeds : List Byte) : State :=
  ({ s with
      free := s.free + 1
      keep := { s.keep with
        idKey := s.keep.idPend, idPend := none, idLim := some (sealRecord (s.trust.kn.getD []) (nonceOf s.free) (leBytes 8 4096)) }
      trust := { s.trust with
        regened := true, idrdy := true, next := 0, lim := 4096, seeds := some seeds, building := false, built := false } }).complete j 0 0 []

/-- The next step of a REGEN_IDENTITY: steps 1 and 2, 3, 4, 5 (R490). -/
def State.regenStep (s : State) (j : Job) (n : Nat) (seeds : List Byte) : State :=
  match n with
  | 0 => s.regenDraw j
  | 1 => s.regenPending j seeds
  | 2 => s.regenBurn j seeds
  | _ => s.regenDone j seeds

/-- Unlock core debug until the next module reset (R501). -/
def State.unlock (s : State) (j : Job) : State :=
  ({ s with trust := { s.trust with dbg := true }, keep := { s.keep with dbgcnt := s.keep.dbgcnt + 1 } }).complete j 0 0 []

/-- A press serves a command (R500): the inputs that it needs must stand at the moment of the press. -/
def State.servePress (s : State) (j : Job) : State :=
  if j.opc = 0x8010 then (if s.trust.jumper then s.unlock j else s.complete j 6 0x51 [])
  else if j.opc = 0x8011 then s.commitSpares j
  else if s.trust.sealed then s.regenIdentity j else s.complete j 6 0x52 []

/-- PRESENCE_PRESS (R498, R499): a debounced press is counted and serves the oldest presence-class command that waits; the input gives no press
while it is stuck. -/
def execPresencePress (s : State) : Host.Outcome State Fault Refusal :=
  if s.boot.power && !s.trust.pres then
    let s1 := { s with trust := { s.trust with pres := true, sampled := true, presses := sat16 s.trust.presses 1 } }
    match s1.jobs.find? Job.waitsPress with
    | some j => .next (s1.servePress j)
    | none => .next s1
  else .next s

/-- PRESENCE_TIMEOUT (R428, R500): the oldest presence-class command has waited 30 s without a press. -/
def execPresenceTimeout (s : State) : Host.Outcome State Fault Refusal :=
  match s.jobs.find? Job.waitsPress with
  | some j => .next (s.complete j 6 0x50 [])
  | none => .next s

/-- PRESENCE_STUCK (R499): PRESENCE_N has stayed asserted for 30 s; raised once. -/
def execPresenceStuck (s : State) : Host.Outcome State Fault Refusal :=
  if s.trust.pres && !s.trust.stuck then
    .next (({ s with trust := { s.trust with stuck := true } }).raise { code := 0x0805 })
  else .next s

/-- PRESENCE_RELEASE (R499): PRESENCE_N has been released for 20 ms, which clears STUCK. -/
def execPresenceRelease (s : State) : Host.Outcome State Fault Refusal :=
  .next { s with trust := { s.trust with pres := false, stuck := false, sampled := true } }

/-- The debounced SEAL loop opens (R502): SEALCNT counts it. -/
def State.openSeal (s : State) : State :=
  { s with trust := { s.trust with sealed := false, sealedN := 0, sampled := true }, keep := { s.keep with sealcnt := s.keep.sealcnt + 1 } }

/-- SEAL_OPEN (R502): the debounced SEAL loop opens. -/
def execSealOpen (s : State) : Host.Outcome State Fault Refusal :=
  .next (if s.boot.power && s.trust.sealed then s.openSeal else s)

/-- Samples in a row that give an input a new debounced level (R498). -/
def debounceN : Nat := 20

/-- One 1 ms sample of STRAP_EXPERT and the SEAL loop (R498, R518): a level that 20 samples in a row have shown becomes the debounced one. -/
def State.sampleInputs (s : State) (expert sealed : Bool) : State :=
  let t := s.trust
  let a := if expert = t.jumper then 0 else t.jumperN + 1
  let b := if sealed = t.sealed then 0 else t.sealedN + 1
  let s1 := { s with trust := { t with
    sampled := true, jumper := if a = debounceN then expert else t.jumper, jumperN := if a = debounceN then 0 else a, sealedN := b } }
  if b = debounceN then
    if sealed then { s1 with trust := { s1.trust with sealed := true, sealedN := 0 } } else s1.openSeal
  else s1

end Sys2Proof.Machine
end

