-- ==== Sys2Proof/Machine/Reset.lean ====
section
/-! DEFINITION. Power-good, module resets, the mask ROM and the load of the firmware (R347, R405, R435 to R439, R453, R456, R476,
R482 to R484, R508 to R510). -/
namespace Sys2Proof.Machine

/-! ### The persistent log (R476) -/

/-- Write a record to the persistent log: its SEQ becomes PSEQ and byte 0x1F the power-cycle count; the ring holds 262,144. -/
def Persist.log (k : Persist) (r : EvRec) : Persist :=
  let l := k.plog ++ [{ r with seq := k.pseq, cyc := BitVec.ofNat 8 k.cycles }]
  { k with plog := l.drop (l.length - 262144), pseq := k.pseq + 1 }

/-- The keeping flash after every persistent write that is scheduled. -/
def State.flushed (s : State) : Persist := s.err.ppend.foldl Persist.log s.keep

/-! ### What a module reset does at once -/

/-- Keys of every reset generation (R455). -/
def allGens : List Nat := List.range 2304 ++ (List.range 256).map (· + 4096) ++ (List.range 16).map (· + 8192)

/-- The STOP words of a module reset (R456): one on every READY port of the slice in each of n steps, which the ports' frames carry. -/
def stopSteps : Nat → Nat → List Byte → State → State
  | 0, _, _, s => s
  | n + 1, tag, b, s => stopSteps n tag b (s.sendSlice 3 tag b).nextStep

/-- STOP for a running job, or what remains of its repeats (R369, R456). -/
def State.stopForReset (s : State) : State :=
  if s.runBound then
    stopSteps 64 s.runTag (stopBody s.run.runid 0 s.myPos s.myIdx s.schedStep) s
  else stopSteps s.run.stopLeft s.run.stopTag s.run.stopWord s

/-- The keeping flash as a module reset finds it: an event that calls for the cold path has invalidated the token, whether or not its record was
handled (R451, R478, R515). -/
def State.keepAtReset (s : State) : Persist :=
  let k := s.flushed
  if s.err.tokDue then { k with token := k.token.set 6 0 } else k

/-- The state that a module reset leaves before the mask ROM runs (R453): the fuses, the keeping flash, the inputs of the carrier with their
debounced levels (R498), the resident firmware unless DISCARD was set (R439), LPDDR (R440) and the results of the last tests stay (log entry
70). -/
def State.resetBase (s : State) (st : Straps) : State :=
  { pending := s.pending, sent := s.sent, free := s.free
    keep := s.keepAtReset
    lpddr := s.lpddr
    rgen := (s.bumpGens allGens).rgen
    host := { expert := st.expert }
    boot := { power := s.boot.power, perst := s.boot.perst, romOk := s.boot.romOk, straps := st, smbAdr := s.boot.smbAdr
              fw := if s.boot.discard then none else s.boot.fw, results := s.boot.results }
    trust := { pres := s.trust.pres, jumper := s.trust.jumper, sealed := s.trust.sealed, jumperN := s.trust.jumperN, sealedN := s.trust.sealedN } }

/-- The values of configuration space that a function reset or a Hot Reset keeps, and the rest at reset (R405): the AER status and the ECRC
enables are sticky (PRESUMED, the base specification; log entry 119). -/
def ConfigSpace.sticky (c : ConfigSpace) : ConfigSpace :=
  { aerMalformed := c.aerMalformed, aerPoisoned := c.aerPoisoned, aerUnsupported := c.aerUnsupported, aerAbort := c.aerAbort
    aerEcrc := c.aerEcrc, ecrcGen := c.ecrcGen, ecrcCheck := c.ecrcCheck }

/-- A reset that leaves the sticky values of configuration space as they stood. -/
def State.keepSticky (s : State) (c : ConfigSpace) : State := { s with host := { s.host with cfg := c.sticky } }

/-- The host link trains (R402, R436): rate, width within STRAP_HOSTW and FLIT mode are the outcome of training, free values. -/
def State.trainHost (s : State) : State :=
  let x := (Config.freeWord64 s.free).toNat
  let w := Nat.min (3 - s.boot.straps.hostw.toNat) (x / 8 % 4)
  let r := x % 8 % 6 + 1
  { s with
    free := s.free + 1
    host := { s.host with rate := BitVec.ofNat 4 r, width := BitVec.ofNat 4 (2 ^ w), flit := decide (r = 6) || bitOf x 5 } }

/-- The mask ROM derives the sealing keys from UDS, passes them to the firmware and locks UDS (R481). -/
def Trust.derive (t : Trust) (k : Persist) : Trust :=
  if t.udsLocked then t
  else { t with kf := sealKey k.uds k.idgen, kn := if k.idgen < 16 then some (sealKey k.uds (k.idgen + 1)) else none, udsLocked := true }

/-- The resident firmware restarts only if its digest is the one recorded beside it (R439). -/
def Firmware.intact (f : Firmware) : Bool := decide (digest512 f.image = f.digest)

/-- Whether the ROM test passes (R436, R437, R495): with no sponge lane that passes it fails. -/
def romPasses (r : RomTest) : Bool := r.ok && decide (r.lanes ≠ 0xF)

/-- The mask ROM (R436, R437, R439, R481, R495): a failed test stands until the next power-good; a sponge lane that fails is excluded; an intact
resident firmware restarts, or the ROM discards what it holds and waits for a load. -/
def State.romRun (s : State) (r : RomTest) : State :=
  let good := s.boot.romOk && romPasses r
  let s1 := { s with boot := { s.boot with romOk := good, romDig := r.lanes }, trust := s.trust.derive s.keep }
  if !good then { s1 with boot := { s1.boot with fwstate := 0xF } }
  else match s1.boot.fw with
  | some f =>
    if f.intact then { s1 with boot := { s1.boot with fwstate := 4, phase := 2 } }
    else { s1 with boot := { s1.boot with fw := none, fwstate := 1, phase := 1 } }
  | none => { s1 with boot := { s1.boot with fwstate := 1, phase := 1 } }

/-- A module reset (R453): STOP goes out, everything takes its reset state, the link trains unless it stays up (R405), the ROM runs. -/
def State.moduleReset (s : State) (st : Straps) (rom : RomTest) (keepLink : Bool) : State :=
  let s1 := s.stopForReset.resetBase st
  let s2 := if keepLink then { s1 with host := { s1.host with rate := s.host.rate, width := s.host.width, flit := s.host.flit } }
    else s1.trainHost
  s2.romRun rom

/-! ### The commands that start a module reset -/

/-- POWER_GOOD (R435, R436, R450, R508): everything volatile has been lost; the straps and the SMBus address are latched. -/
def execPowerGood (st : Straps) (rom : RomTest) (s : State) : Host.Outcome State Fault Refusal :=
  if s.boot.power then .next s
  else
    let s0 := { s with
      lpddr := [], err := {}, run := {}
      keep := { s.keep with ticks := 0, cycles := s.keep.cycles + 1 }
      boot := { s.boot with power := true, romOk := true, smbAdr := st.smbAdr, fw := none, results := none } }
    let s1 := s0.resetBase st
    .next (if s.boot.perst then s1 else s1.trainHost.romRun rom)

/-- POWER_GOOD_DROP (R508): a power loss. Only the fuses and the keeping flash persist; scheduled persistent writes are lost (R476). -/
def execPowerGoodDrop (s : State) : Host.Outcome State Fault Refusal :=
  if s.boot.power then
    .next { pending := s.pending, sent := s.sent, free := s.free, keep := s.keep, boot := { perst := s.boot.perst } }
  else .next s

/-- PERST_ASSERT (R453, R510): a module reset begins and holds. -/
def execPerstAssert (st : Straps) (s : State) : Host.Outcome State Fault Refusal :=
  if s.boot.perst then .next s
  else
    let s1 := if s.boot.power then s.stopForReset.resetBase st else s
    .next { s1 with boot := { s1.boot with perst := true } }

/-- PERST_DEASSERT (R436, R510): the mask ROM begins. -/
def execPerstDeassert (rom : RomTest) (s : State) : Host.Outcome State Fault Refusal :=
  if s.boot.perst then
    let s1 := { s with boot := { s.boot with perst := false } }
    .next (if s.boot.power then s1.trainHost.romRun rom else s1)
  else .next s

/-- FUNCTION_LEVEL_RESET (R405): a module reset with the link up. -/
def execFunctionLevelReset (st : Straps) (rom : RomTest) (s : State) : Host.Outcome State Fault Refusal :=
  .next (if s.alive then (s.moduleReset st rom true).keepSticky s.host.cfg else s)

/-- HOT_RESET (R453). -/
def execHotReset (st : Straps) (rom : RomTest) (s : State) : Host.Outcome State Fault Refusal :=
  .next (if s.alive then (s.moduleReset st rom false).keepSticky s.host.cfg else s)

/-- MODULE_RESET (R453). -/
def execModuleReset (st : Straps) (rom : RomTest) (s : State) : Host.Outcome State Fault Refusal :=
  .next (if s.alive then s.moduleReset st rom false else s)

/-- WATCHDOG (R451, R453, R476): the expiry goes to the persistent log alone and invalidates the token before the reset begins. -/
def execWatchdog (st : Straps) (rom : RomTest) (s : State) : Host.Outcome State Fault Refusal :=
  if s.alive && decide (s.boot.fwstate = 4) then
    let r := s.mkRecord { code := 0x0604, a0 := BitVec.ofNat 32 s.boot.phase.toNat }
    let s1 := { s with free := s.free + 1, keep := s.flushed.log r, err := { s.err with ppend := [] } }
    .next (s1.dropToken.moduleReset st rom false)
  else .next s

/-! ### The load of the firmware -/

/-- Largest firmware image (R438). -/
def fwMax : Nat := 8 * 2 ^ 20

/-- A load ends in failure (R438): its code is recorded and the ROM waits again. -/
def State.fwFailed (s : State) (code : Byte) : State :=
  { s with boot := { s.boot with fwcode := code, fwstate := 1, fwImg := [], go := false } }

/-- A write of GLB_FWCTRL (R13, R438, R439, R459): DISCARD is stored; GO starts a load when the ROM waits for one, and reads 1 until the load
ends, a load that its length fails included. -/
def State.fwCtrl (s : State) (v : Word32) : State :=
  if s.alive then
    let s1 := { s with boot := { s.boot with discard := v.getLsbD 1 } }
    if v.getLsbD 0 && decide (s.boot.fwstate = 1) then
      { s1 with boot := { s1.boot with att := BitVec.ofNat 8 (Nat.min (s.boot.att.toNat + 1) 0xFF), fwstate := 2, go := true } }
    else s1
  else s

/-- FW_LOAD_GO (R438, R459). -/
def execFwLoadGo (v : Word32) (s : State) : Host.Outcome State Fault Refusal := .next (s.fwCtrl v)

/-- Check 0x01 of R483: the length under R438. -/
def fwLenOk (n : Nat) : Bool := decide (n ≠ 0) && decide (n % 64 = 0) && decide (n ≤ fwMax)

/-- Check 0x03 of R483: the image header of R482. RELEASE lies in 1 to 1,048,575 there, and an image that breaks this is refused under the same
code (DESIGN CHOICE, log entry 135: R483 does not name it). -/
def fwHeaderOk (b : List Byte) : Bool :=
  let body := leAt b 0x10 8
  decide (b.take 4 = [0x51#8, 0x46#8, 0x57#8, 0x49#8]) && decide (leAt b 4 2 = 1) && zeroAt b 6 2 && zeroAt b 0x18 40 && zeroAt b 0x80 128
    && decide (1 ≤ leAt b 8 4) && decide (leAt b 8 4 < 2 ^ 20)
    && decide (leAt b 12 4 ≤ leAt b 8 4) && decide (0x100 + body + 2820 ≤ b.length) && decide (b.length - (0x100 + body + 2820) < 64)

/-- VKEY as its 64 bytes: XMSS root, then public seed (R480). -/
def Persist.vkeyBytes (k : Persist) : List Byte := leBytes 64 k.vkey.toNat

/-- Check 0x04 of R483: the digest of the body, and the XMSS signature over the header under VKEY (R482). -/
def fwSigned (vkey b : List Byte) : Bool :=
  let body := leAt b 0x10 8
  decide (digest512 ((b.drop 0x100).take body) = (b.drop 0x40).take 64)
    && xmssVerify 20 vkey (b.take 0x100) ((b.drop (0x100 + body)).take 2820)

/-- R484: a larger FLOOR is burned while an entry is free. -/
def Persist.raiseFloor (k : Persist) (floor : Nat) : Persist :=
  if k.floor < floor ∧ k.floors.length < 16 then { k with floors := k.floors ++ [BitVec.ofNat 20 floor] } else k

/-- Powered seconds (R450). -/
def Persist.powered (k : Persist) : Nat := k.ticks / 10000

/-- GLB_START.TOK: 0 when the warm path may use the token, else why not (R447, R450, R459). After a power-good no results are held. -/
def State.tokCode (s : State) : BitVec 3 :=
  let k := s.keep
  if k.token.isEmpty then 1
  else if !k.tokIntact || decide (k.tokModser ≠ k.modser.toNat) then 2
  else if k.tokFuses ≠ k.mapDigest then 3
  else if k.powered < k.tokWritten ∨ k.tokWritten + 604800 ≤ k.powered ∨ s.boot.results = none then 4
  else if !k.tokValid then 5
  else if s.boot.straps.cold = true ∨ s.boot.att ≠ 0 then 6
  else 0

/-- The cold path is taken (R440, R447): its tests begin. -/
def State.goCold (s : State) : State := { s with boot := { s.boot with path := 1, tok := s.tokCode, phase := 3 } }

/-- The pulled image passes (R439, R440, R483, R484): the floor may rise, its digest is kept, and it starts; a firmware that the host has loaded
takes the cold path. -/
def State.fwStart (s : State) (b : List Byte) : State :=
  State.goCold { s with
    keep := s.keep.raiseFloor (leAt b 12 4)
    boot := { s.boot with fw := some ⟨b, digest512 b, leAt b 8 4⟩, fwstate := 4, fwImg := [], go := false } }

/-- The verdict on the image that the ROM holds (R483). -/
def State.fwVerdict (s : State) (b : List Byte) : State :=
  if !fwHeaderOk b then s.fwFailed 3
  else if !fwSigned s.keep.vkeyBytes b then s.fwFailed 4
  else if leAt b 8 4 < s.keep.floor then s.fwFailed 5
  else s.fwStart b

/-- FIRMWARE_VERIFIED (R438, R459, R483, R484): in STATE 0x2 the transfer ends, for its length, with a failed host request or with the bytes of the
image, which the ROM then verifies in STATE 0x3; in STATE 0x3 it has verified them (log entry 146). -/
def execFirmwareVerified (img : Option (List Byte)) (s : State) : Host.Outcome State Fault Refusal :=
  if s.boot.fwstate = 3 then .next (s.fwVerdict s.boot.fwImg)
  else if s.boot.fwstate ≠ 2 then .next s
  else if !fwLenOk s.boot.fwlen.toNat then .next (s.fwFailed 1)
  else match img with
  | none => .next (s.fwFailed 2)
  | some l =>
    let n := s.boot.fwlen.toNat
    .next { s with boot := { s.boot with fwstate := 3, fwImg := (l ++ zeros n).take n } }

end Sys2Proof.Machine
end

