-- ==== Sys2Proof/Machine/Startup.lean ====
section
/-! DEFINITION. The cold and the warm path of a start-up, the resolution of exclusions, the tests-valid token and the wear monitors
(R391, R397, R398, R401, R440 to R452, R458, R487). -/
namespace Sys2Proof.Machine

/-! ### Resolution (R442 to R446) -/

/-- Physical positions that the fuses, the keeping flash or a test mark bad (R442). -/
def Persist.exclWith (k : Persist) (bad : List Nat) : List Nat :=
  (List.range 2304).filter fun n => k.fuseMarks.contains n || (k.pend.any fun x => decide (x.1 = n)) || bad.contains n

/-- Whether cluster q = 16p + c can field its 8 logical cores (R443). -/
def clusterFields (excl sramLost : List Nat) (q : Nat) : Bool :=
  decide (((List.range 9).filter fun j => excl.contains (q * 9 + j)).length ≤ 1) && (List.range 8).all fun k => !sramLost.contains (q * 8 + k)

/-- The enabled physical partitions (R445), from the excluded positions and the marked units. -/
def enabledMask (off : BitVec 16) (excl : List Nat) (f : List SpareUnit) : BitVec 16 :=
  BitVec.ofNat 16 ((List.range 16).map fun p =>
    if !off.getLsbD p && !(landingLost f).contains p && (List.range 16).all (fun c => clusterFields excl (sramLost f) (p * 16 + c))
    then 2 ^ p else 0).sum

/-- Number of partitions of a mask. -/
def maskCount (m : BitVec 16) : Nat := ((List.range 16).filter fun p => m.getLsbD p).length

/-- The empty test results: nothing failed. -/
def noFailures : TestResults := { cores := [], units := [], lpdFailed := [], lpdRows := [], lpdLost := [], digest := 0 }

/-- The units that only the test marks bad (R442): cores, LPDDR rows, those that no repair serves, sponge lanes, and rows, banks, spares and lanes. -/
structure NewMarks where
  cores : List Nat
  rows : List Nat
  lost : List Nat
  dig : BitVec 4
  units : List SpareUnit
  deriving DecidableEq, Repr

/-- No unit is newly marked. -/
def NewMarks.isEmpty (m : NewMarks) : Bool := m.cores.isEmpty && m.rows.isEmpty && m.lost.isEmpty && decide (m.dig = 0) && m.units.isEmpty

/-- What the resolution of a start-up adds to the keeping flash: a pending mark for each unit that only the test marks bad (R442). -/
def Persist.markNew (k : Persist) (m : NewMarks) : Persist :=
  if m.isEmpty then k
  else { k with
    spseq := k.spseq + 1, pend := k.pend ++ m.cores.map fun n => (n, k.spseq + 1), pendRows := k.pendRows ++ m.rows, pendLost := k.pendLost ++ m.lost
    pendDig := k.pendDig ||| m.dig, pendUnits := k.pendUnits ++ m.units }

/-- Positions that only the test marks bad. -/
def Persist.newCores (k : Persist) (t : TestResults) : List Nat :=
  (List.range 2304).filter fun n => t.cores.contains n && !k.fuseMarks.contains n && !(k.pend.any fun x => decide (x.1 = n))

/-- LPDDR rows that only the test marks bad. -/
def Persist.newRows (k : Persist) (t : TestResults) : List Nat :=
  t.lpdRows.eraseDups.filter fun a => !k.fuseRows.contains a && !k.pendRows.contains a

/-- LPDDR rows beyond repair that only the test marks bad (R442, R446). -/
def Persist.newLost (k : Persist) (t : TestResults) : List Nat :=
  t.lpdLost.eraseDups.filter fun a => !k.fuseLost.contains a && !k.pendLost.contains a

/-- Sponge lanes that only the test marks bad. -/
def Persist.newDig (k : Persist) (t : TestResults) : BitVec 4 := t.digest &&& ~~~(k.fuseDig ||| k.pendDig)

/-- Rows, banks, spares and link lanes that only the test marks bad. -/
def Persist.newUnits (k : Persist) (t : TestResults) : List SpareUnit :=
  t.units.eraseDups.filter fun u => !k.fuseUnits.contains u && !k.pendUnits.contains u

/-- Everything that only the test marks bad. -/
def Persist.newMarks (k : Persist) (t : TestResults) : NewMarks := ⟨k.newCores t, k.newRows t, k.newLost t, k.newDig t, k.newUnits t⟩

/-- The 64 MiB ranges that hold a byte of a row beyond repair (R442, R446): a row that any source marks stays out of use. -/
def Persist.retired (k : Persist) (t : TestResults) : List Nat := ((k.fuseLost ++ k.pendLost ++ t.lpdLost).map fun a => a / 2 ^ 26).eraseDups

/-- Apply exclusions: the enabled partitions and what is out of service (R445, R446). -/
def State.applyExcl (s : State) (excl : List Nat) (t : TestResults) (lpdFailed : List Nat) : State :=
  let en := enabledMask s.keep.fuseOff excl s.keep.units
  let oos := hkLost s.keep.units || !lpdFailed.isEmpty || decide (en = 0)
  { s with boot := { s.boot with
    excl := excl, enabled := en, oos := oos, cores := if oos then 0 else 128 * maskCount en, retired := s.keep.retired t
    sramBad := sramLost s.keep.units } }

/-- Log one Start-up Exclusion (R442). -/
def State.logExclusion (s : State) (unit : Word32) : State := s.raise { code := 0x0402, unit := unit }

/-- Log the exclusions that are new (R442): cores, LPDDR rows, sponge lanes, then rows, banks, spares and link lanes. -/
def State.logNew (s : State) (m : NewMarks) : State :=
  let s1 := m.cores.foldl (fun (s : State) n => s.logExclusion (s.coreUnit (2048 + n))) s
  let s2 := m.rows.foldl (fun (s : State) a => s.logExclusion (BitVec.ofNat 32 (0x40000000 + (lpdPlace a).1))) s1
  let s2 := m.lost.foldl (fun (s : State) a => s.logExclusion (BitVec.ofNat 32 (0x40000000 + (lpdPlace a).1))) s2
  let s3 := ((List.range 4).filter fun i => m.dig.getLsbD i).foldl (fun (s : State) i => s.logExclusion (BitVec.ofNat 32 (0x50000000 + i))) s2
  m.units.foldl (fun (s : State) u => s.logExclusion (SpareUnit.unit u)) s3

/-- Raise Spare Exhausted (R398, R445). -/
def State.raiseSpare (s : State) (unit : Word32) (addr : Option Nat) : State :=
  s.raise { code := 0x0401, unit := unit
            a0 := match addr with
              | some a => loW a
              | none => 0xFFFFFFFF
            a1 := match addr with
              | some a => hiW a
              | none => 0xFFFFFFFF
            a2 := BitVec.ofNat 32 s.boot.cores }

/-- Raise Spare Exhausted for each partition lost that `had` did not already count as lost (R445). -/
def State.raiseLost (s : State) (had : BitVec 16) : State :=
  ((List.range 16).filter fun p => had.getLsbD p && !s.boot.enabled.getLsbD p).foldl
    (fun (s : State) p => s.raiseSpare (BitVec.ofNat 32 (0x20000000 + p)) none) s

/-- Banks that no spare serves, of partitions that the fuses leave on (R377, R398). -/
def Persist.unserved (k : Persist) : List Nat := (bankService k.units).2.filter (bankEnabled (~~~k.fuseOff))

/-- Raise Spare Exhausted for each bank that no spare serves and that `had` does not name (R398). -/
def State.raiseBanks (s : State) (had : List Nat) : State :=
  (s.keep.unserved.filter fun b => !had.contains b).foldl
    (fun (s : State) b => s.raiseSpare (BitVec.ofNat 32 (0x90000000 + b % 65536)) (bankAddr b)) s

/-- Raise Spare Exhausted for the LPDDR rows of a test that the package's PPR resources do not serve (R398). -/
def State.raiseRows (s : State) (t : TestResults) : State :=
  t.lpdLost.foldl (fun (s : State) a => s.raiseSpare (BitVec.ofNat 32 (0x40000000 + (lpdPlace a).1)) (some a)) s

/-- Resolve the results of a test (R442 to R446): new pending marks, exclusions in force, their log entries, and Spare Exhausted for every
partition of `had` that is lost and every bank that is newly without a spare. -/
def State.resolve (s : State) (t : TestResults) (had : BitVec 16) (hadBanks : List Nat) : State :=
  let m := s.keep.newMarks t
  let s1 := { s with keep := s.keep.markNew m }
  (((s1.applyExcl (s1.keep.exclWith t.cores) t t.lpdFailed).logNew m).raiseLost had).raiseBanks hadBanks

/-! ### The end of a start-up -/

/-- The SRAM repair state at the end of start-up (R401), from the marks in force. -/
def State.setRepairs (s : State) : State :=
  let f := s.keep.units
  let en := s.boot.enabled
  let (r0, r1, r2) := sramReps f en
  let s1 := { s with boot := { s.boot with rep0 := r0, rep1 := r1, rep2 := r2 } }
  let s2 := (List.range s.boot.cores).foldl (fun (s : State) c =>
    match sramRepWord f ((physPart en (c / 128) * 16 + c / 8 % 16) * 8 + c % 8) with
    | 0 => s
    | w => s.modCore c fun k => { k with sramrep := w }) s1
  (List.range 16).foldl (fun (s : State) p =>
    match lndSpareWord f p with
    | 0 => s
    | w => if en.getLsbD p then s.modPart (logPart en p) fun x => { x with spare := w } else s) s2

/-- The controllers read the refresh-rate codes of their packages (R392, R400): free values. -/
def State.readTref (s : State) : State :=
  (List.range 12).foldl (fun (s : State) n =>
    if (s.lctl n).st = 2 then
      ({ s with free := s.free + 1 }).modLctl n fun c => { c with tref := (Config.freeWord64 s.free).truncate 8 }
    else s) s

/-- The LPDDR controllers at the end of start-up: trained or failed, with the repairs in effect (R392, R397, R400). -/
def State.setLpddr (s : State) (lpdFailed : List Nat) : State :=
  State.readTref <| (List.range 12).foldl (fun (s : State) n => s.modLctl n fun c =>
    { c with
      st := if lpdFailed.contains n then 3 else 2
      pprs := BitVec.ofNat 8 (s.keep.pendRows.filter fun a => decide ((lpdPlace a).1 = n)).length
      pprh := BitVec.ofNat 8 (s.keep.fuseRows.filter fun a => decide ((lpdPlace a).1 = n)).length }) s

/-- Port lanes and sponge lanes at the end of start-up (R335, R444, R495). -/
def State.setLanes (s : State) : State :=
  let good (q : Nat) : BitVec 34 := goodLanes s.keep.units (Fin.ofNat 4 q)
  let bad := s.keep.fuseDig ||| s.keep.pendDig ||| s.boot.romDig
  let s1 := (List.range 4).foldl (fun (s : State) q => s.modPort q fun p => { p with base := good q, good := good q }) s
  { s1 with
    trust := { s1.trust with lanesEx := bad, lanesIn := ~~~bad }
    boot := { s1.boot with
      dgDig := decide (1 < ((List.range 4).filter fun i => bad.getLsbD i).length)
      dgPort := (List.range 4).any fun q => decide (laneCount (good q) < activeLanes q) } }

/-- The records of the identity at start-up (R486, R487, R490): a pending record of the fused generation becomes current with LIM = 4,096, one
of a later generation is discarded, one whose tag fails is ignored. `draw` numbers the nonce of a record written. -/
def Persist.settleKeys (k : Persist) (t : Trust) (draw : Nat) : Persist :=
  if (keySeeds t.kf k.idgen k.idPend).isSome then
    { k with idKey := k.idPend, idPend := none, idLim := some (sealRecord t.kf (nonceOf draw) (leBytes 8 4096)) }
  else if (keySeeds (t.kn.getD []) (k.idgen + 1) k.idPend).isSome then { k with idPend := none }
  else k

/-- The identity at start-up (R487, R490): the seeds of the key record whose generation is the fused one, and the next index at LIM. Without a
key record or an index record that opens there is no identity (log entry 120). -/
def State.openIdentity (s : State) : State :=
  let k := s.keep.settleKeys s.trust s.free
  match keySeeds s.trust.kf k.idgen k.idKey, limOf s.trust.kf k.idLim with
  | some x, some n => { s with free := s.free + 1, keep := k, trust := { s.trust with seeds := some x, lim := n, next := n } }
  | _, _ => { s with free := s.free + 1, keep := k, trust := { s.trust with seeds := none } }

/-- What GLB_CBADq.FLASH and HKP_WEARq are set to at the end of start-up (R460). -/
def State.setWear (s : State) : State :=
  { s with boot := { s.boot with flash := s.keep.pend.map fun x => x.1, wearShown := s.keep.wear } }

/-- The start-up ends (R440, R447): the registers are set, strict mode takes its strap (R159), the next identity index is LIM (R487), the
marks are applied (R458), and READY becomes 1. -/
def State.finishStart (s : State) (t : TestResults) (lpdFailed : List Nat) (elapsed : BitVec 16) : State :=
  let s1 := ((s.setRepairs.setLpddr lpdFailed).setLanes).openIdentity.setWear
  { s1 with boot := { s1.boot with
      ready := true, strict := s1.boot.straps.strict, phase := 6, elapsed := elapsed, wearCrit := false, results := some t } }

/-- The end of a cold path: the token is written (R449), which vouches for what earlier events have shaped (R451); the duration is a free value,
since the host's load is part of it (R440). -/
def State.finishCold (s : State) (t : TestResults) : State :=
  let s1 := { s with
    keep := { s.keep with token := s.keep.tokenAt s.keep.powered }, free := s.free + 1, boot := { s.boot with tokSeq := s.err.seq }
    err := { s.err with tokDue := false } }
  s1.finishStart t t.lpdFailed ((Config.freeWord64 s.free).truncate 16)

/-! ### The paths (R440, R447) -/

/-- Whether the firmware runs and its start-up has not yet chosen a path. -/
def State.awaitsPath (s : State) : Bool :=
  s.alive && decide (s.boot.fwstate = 4) && !s.boot.ready && decide (s.boot.path = 0)

/-- Whether a start-up stands in a phase of a path. -/
def State.onPath (s : State) (path : BitVec 2) (phase : BitVec 4) : Bool :=
  s.alive && !s.boot.ready && decide (s.boot.path = path) && decide (s.boot.phase = phase)

/-- Partitions that the fuses leave on. -/
def Persist.fused (k : Persist) : BitVec 16 := ~~~k.fuseOff

/-- The tests of phase 0x3 are done (R440): their results are held, with the sponge lanes that the ROM test found bad (R495); the LPDDR test leaves
no contents. -/
def State.holdTests (s : State) (t : TestResults) : State :=
  { s with lpddr := [], boot := { s.boot with
      phase := 4, testBad := t.cores, results := some { t with digest := t.digest ||| s.boot.romDig } } }

/-- COLD_PATH (R440, R442 to R446): the next phase of the cold path begins: the tests, for a resident firmware whose token does not serve; with
their results the resolution; and after it the second test of what has come into service (log entry 146). -/
def execColdPath (t : TestResults) (s : State) : Host.Outcome State Fault Refusal :=
  if s.awaitsPath then .next (if s.tokCode = 0 then s else s.goCold)
  else if s.onPath 1 3 then .next (s.holdTests t)
  else if s.onPath 1 4 then
    match s.boot.results with
    | none => .next s
    | some r => .next ((State.resolve { s with boot := { s.boot with phase := 5 } } r s.keep.fused []).raiseRows r)
  else .next s

/-- The results of a phase 0x5 test added to what stands: units that fail now are excluded too. -/
def plusResults (t x : TestResults) : TestResults :=
  { cores := t.cores ++ x.cores, units := t.units ++ x.units, lpdFailed := t.lpdFailed ++ x.lpdFailed, lpdRows := t.lpdRows ++ x.lpdRows
    lpdLost := t.lpdLost ++ x.lpdLost, digest := t.digest ||| x.digest }

/-- Whether a phase 0x5 test fails a unit that is not excluded already (R441). -/
def Persist.addsResults (k : Persist) (t x : TestResults) : Bool :=
  !(k.newMarks x).isEmpty || x.lpdFailed.any (fun n => !t.lpdFailed.contains n) || x.lpdLost.any (fun a => !t.lpdLost.contains a)

/-- STARTUP_RETEST (R441): every unit brought into service has been tested again. A failure is resolved and the phase repeats; without one the
token is written and the module is ready. -/
def execStartupRetest (x : TestResults) (s : State) : Host.Outcome State Fault Refusal :=
  if s.onPath 1 5 then
    match s.boot.results with
    | none => .next s
    | some t =>
      if s.keep.addsResults t x then
        let t1 := plusResults t x
        let s1 := { s with boot := { s.boot with
          testBad := t1.cores, results := some t1, repeats := BitVec.ofNat 7 (Nat.min (s.boot.repeats.toNat + 1) 127) } }
        .next ((s1.resolve t1 s.boot.enabled s.keep.unserved).raiseRows x)
      else .next (s.finishCold t)
  else .next s

/-- Positions that the token vouches for (R449): those of the fuse map and of the pending marks up to SPSEQ. -/
def Persist.vouched (k : Persist) : List Nat :=
  { k with pend := k.pend.filter fun x => decide (x.2 ≤ k.tokSpseq) }.exclWith []

/-- WARM_PATH (R442 to R448): no unit is tested. The token is checked; the LPDDR controllers are trained; the exclusions, the token's with every
pending mark since, are resolved anew, and the start-up ends (log entry 146). -/
def execWarmPath (lpdFailed : List Nat) (s : State) : Host.Outcome State Fault Refusal :=
  if s.awaitsPath then
    .next (if s.tokCode = 0 then { s with boot := { s.boot with path := 2, tok := 0, phase := 7, testBad := [] } } else s)
  else if s.onPath 2 7 then .next { s with boot := { s.boot with phase := 4, lpdBad := lpdFailed } }
  else if s.onPath 2 4 then
    match s.boot.results with
    | some t =>
      let had := enabledMask s.keep.fuseOff s.keep.vouched s.keep.units
      .next (((s.applyExcl (s.keep.exclWith []) t s.boot.lpdBad).raiseLost had).finishStart t s.boot.lpdBad 120)
    | none => .next s
  else .next s

/-! ### Wear (R458) -/

/-- UNIT of a cluster for a physical position n = (p × 16 + c) × 9 + j (R463). -/
def wearUnit (n : Nat) : Word32 := BitVec.ofNat 32 (0x80000000 + n % 9 * 256 + n / 9 % 256)

/-- The kept MARGIN of a position, if it has ever been sampled. -/
def Persist.margin (k : Persist) (n : Nat) : Option Nat :=
  match sget 0 k.wear n with
  | 0 => none
  | m + 1 => some m

/-- Whether a kept MARGIN falls below a bound with a new sample. -/
def crosses (old : Option Nat) (new bound : Nat) : Bool :=
  decide (new < bound) && match old with
    | some m => decide (bound ≤ m)
    | none => true

/-- A pending mark for a worn position, unless it is marked already. -/
def Persist.markWorn (k : Persist) (n : Nat) : Persist :=
  if k.fuseMarks.contains n || k.pend.any (fun x => decide (x.1 = n)) then k
  else { k with spseq := k.spseq + 1, pend := k.pend ++ [(n, k.spseq + 1)] }

/-- Whether the spare of a cluster is in service, so that the loss of another position costs the partition (R458). -/
def State.spareServes (s : State) (q : Nat) : Bool := !(s.exclIn q).isEmpty

/-- The event of a worn position (R458, R464). A Wear Notice for a cluster whose spare is already in service states that the next start-up will
lose the partition: ARG1 names the partition as a UNIT; R464 gives that statement no argument (DESIGN CHOICE, log entry 133). -/
def State.wearEvent (s : State) (code : BitVec 16) (n m : Nat) : Ev :=
  { code := code, unit := wearUnit n, a0 := BitVec.ofNat 32 m
    a1 := if code = 0x0601 ∧ s.spareServes (n / 9) = true then BitVec.ofNat 32 (0x20000000 + n / 144) else 0xFFFFFFFF }

/-- One sample of a position (R458): the lowest value is kept, and falling below 8.0 % or 3.0 % takes its action; the refusal of batches comes with
the handling of Wear Critical (R468). -/
def State.wearOf (s : State) (n m : Nat) : State :=
  let old := s.keep.margin n
  let new := match old with
    | some o => Nat.min o m
    | none => m
  let s1 := { s with keep := { s.keep with wear := sset 0 s.keep.wear n (new + 1) } }
  let s2 := if crosses old new 80 then ({ s1 with keep := s1.keep.markWorn n }).raise (s1.wearEvent 0x0601 n new) else s1
  if crosses old new 30 then
    ({ s2 with err := { s2.err with acts := s2.err.acts ++ [(0x0602, CondAct.wear n)] } }).raise (s2.wearEvent 0x0602 n new)
  else s2

/-- WEAR_SAMPLE (R458): once in each period of 2^20 steps, the monitors' MARGINs, as (physical position, margin in 0.1 %). The periods are those
of the Milestone (DESIGN CHOICE, log entry 157). -/
def execWearSample (margins : List (Nat × Nat)) (s : State) : Host.Outcome State Fault Refusal :=
  let period := s.ring.ms / 2 ^ 20
  if s.boot.ready && decide (s.boot.wearAt ≤ period) then
    .next (margins.foldl (fun (s : State) (x : Nat × Nat) => if x.1 < 2304 then s.wearOf x.1 (Nat.min x.2 1023) else s)
      { s with boot := { s.boot with wearAt := period + 1 } })
  else .next s

end Sys2Proof.Machine
end

