-- ==== Sys2Proof/Machine/Faults.lean ====
section
/-! DEFINITION. The error queue as the firmware handles it, the logs, events of units outside the other rows, the SMC's halt and
reset requests and LPDDR link errors (R393, R451, R462 to R478). -/
namespace Sys2Proof.Machine

/-! ### Handling a record (R468) -/

/-- Write a record to the volatile log: record SEQ in slot SEQ mod 4,096 (R476). -/
def putVlog (l : List EvRec) (r : EvRec) : List EvRec := (l.filter fun x => decide (x.seq % 4096 ≠ r.seq % 4096)) ++ [r]

/-- Handling of the head begins: the record goes to the volatile log. -/
def State.beginHandling (s : State) (r : EvRec) : State :=
  { s with err := { s.err with busy := true, vlog := putVlog s.err.vlog r } }

/-- Whether a record accounts for the stop of the run, whose RUN_BATCH its handling completes. -/
def State.accounts (s : State) (r : EvRec) : Bool :=
  s.run.stopped && decide (r.runid = s.run.runid) && (decide (r.cls = clsJob) || decide (r.cls = clsModule))

/-- Whether a record is of an event of this module that invalidates the token when it is handled (R451). -/
def EvRec.dropsToken (r : EvRec) : Bool :=
  !r.remote && (decide (r.code = 0x0401) || decide (r.code = 0x0205) || decide (r.code = 0x0602) || decide (r.code = 0x0603)
    || decide (r.code = 0x0804))

/-- R451 for a handled record: one raised before the token was written leaves it valid. -/
def State.tokenStep (s : State) (r : EvRec) : State := if r.dropsToken && decide (s.boot.tokSeq ≤ r.seq) then s.dropToken else s

/-- One action of a CONDITION (R468): the damaged slot is marked (R325); batches are refused until a start-up has applied the mark of the worn
position (R458). -/
def State.condAct (s : State) : CondAct → State
  | .damage x e i ed => s.markDamage x e i ed
  | .wear n => if s.boot.excl.contains n then s else { s with boot := { s.boot with wearCrit := true } }

/-- The actions that a record's handling takes (R468): those of its code; Lost Errors takes them for the records that were lost (R470). -/
def State.condStep (s : State) (r : EvRec) : State :=
  let mine (a : BitVec 16 × CondAct) : Bool := decide (a.1 = r.code) || decide (r.code = 0x0802)
  (s.err.acts.filter mine).foldl (fun s a => s.condAct a.2) { s with err := { s.err with acts := s.err.acts.filter fun a => !mine a } }

/-- The slots that the run of a record has bound, that of the record's own context first (log entry 107): none when another run has followed. -/
def State.boundOf (s : State) (r : EvRec) : List (Nat × Nat) :=
  if r.runid ≠ s.run.runid ∨ s.run.runid = 0 then []
  else
    let own := (s.run.ctx.val, s.run.slot)
    match s.run.pctx with
    | some p => if r.ctx.toNat = p.val then [(p.val, s.run.pslot), own] else [own, (p.val, s.run.pslot)]
    | none => [own]

/-- The re-digest that a failed fill of this module starts (R198), with the slots that its run had bound; a halted module makes none (R471). -/
def State.redigestStep (s : State) (r : EvRec) (bound : List (Nat × Nat)) : State :=
  if (decide (r.code = 0x0101) || decide (r.code = 0x0102)) && !r.remote && !s.boot.halt then
    { s with redigests := s.redigests ++ [⟨r.arg0, r.arg1, bound⟩] }
  else s

/-- The data of an EVENT notice (R473). -/
def EvRec.notice (r : EvRec) : List Byte :=
  leBytes 2 r.code.toNat ++ [byteAt r.bytes 6] ++ leBytes 1 r.count ++ leBytes 4 r.seq ++ leBytes 4 r.runid.toNat

/-- Whether a record has an EVENT notice (R473) and goes to the persistent log (R476): not INFO and not HOST. -/
def EvRec.noted (r : EvRec) : Bool := decide (r.cls ≠ clsInfo) && decide (r.cls ≠ clsHost)

/-- Whether a record has an SMC message (R474). -/
def EvRec.forSmc (r : EvRec) : Bool :=
  decide (r.cls = clsCond) || decide (r.cls = clsModule) || (decide (r.cls = clsJob) && !r.sec && !r.remote)

/-- The steps that every class shares (R468): the notice, the SMC message, the persistent write scheduled. -/
def State.noteRecord (s : State) (r : EvRec) : State :=
  let s1 := if r.noted then s.notify 0x0001 (if r.ctx.toNat < 64 then some r.ctx.toNat else none) r.notice else s
  let s2 := if r.forSmc then s1.smcEvent r else s1
  if r.noted then { s2 with err := { s2.err with ppend := s2.err.ppend ++ [r] } } else s2

/-- Handling of the head ends: the record leaves the queue. -/
def State.endHandling (s : State) (r : EvRec) : State :=
  let s1 := if s.accounts r then s.completeStopped else s
  let s2 := (((s1.condStep r).redigestStep r (s.boundOf r)).tokenStep r).noteRecord r
  ({ s2 with err := { s2.err with busy := false, queue := s2.err.queue.drop 1 } }).queueLost

/-- RECORD_HANDLING (R468, R473, R474): the firmware takes the head record, or ends its handling; a record of the stopped run waits until the
64 repeats of STOP are made. -/
def execRecordHandling (s : State) : Host.Outcome State Fault Refusal :=
  if s.alive && decide (s.boot.fwstate = 4) then
    match s.err.queue with
    | [] => .next s
    | r :: _ =>
      if !s.err.busy then .next (s.beginHandling r)
      else if s.accounts r && decide (s.run.stopLeft ≠ 0) then .next s
      else .next (s.endHandling r)
  else .next s

/-- PERSISTENT_LOG_WRITE (R476): the oldest scheduled record is written. -/
def execPersistentLogWrite (s : State) : Host.Outcome State Fault Refusal :=
  match s.err.ppend with
  | [] => .next s
  | r :: l => .next { s with keep := s.keep.log r, err := { s.err with ppend := l } }

/-! ### Events of other units -/

/-- The logical core that a UNIT names (R463). -/
def unitCore (u : Word32) : Nat := u.toNat / 256 % 16 * 128 + u.toNat / 16 % 16 * 8 + u.toNat % 8

/-- EVENT_RAISE (R465): the raising rule's immediate action, a core halt for the codes 0x01xx, then the class's, and the record. A
Watchdog never enters the queue (R476). -/
def execEventRaise (e : EvReq) (s : State) : Host.Outcome State Fault Refusal :=
  if s.alive && eventKnown e.code && decide (e.code ≠ 0x0604) then
    let s1 := if e.code.toNat / 256 = 1 ∧ e.unit.toNat / 2 ^ 28 = 1 then s.modCore (unitCore e.unit) Core.stopNow else s
    .next (s1.raise { code := e.code, unit := e.unit, layer := e.layer, pc := e.pc
                      ctx := match e.ctx with
                        | some x => BitVec.ofNat 8 x.val
                        | none => 0xFF
                      a0 := e.arg0, a1 := e.arg1, a2 := e.arg2, a3 := e.arg3 })
  else .next s

/-- LPDDR_LINK_ERROR (R393, R400): corrected ones are counted; an uncorrectable one raises LPDDR Link Error. -/
def execLpddrLinkError (n : Fin 12) (off : Nat) (chan : Fin 4) (corrected : Bool) (s : State) : Host.Outcome State Fault Refusal :=
  if !s.alive then .next s
  else if corrected then .next (s.modLctl n.val fun c => { c with cor := sat16 c.cor 1 })
  else .next ((s.modLctl n.val fun c => { c with unc := sat16 c.unc 1 }).raise
    { code := 0x0205, unit := BitVec.ofNat 32 (0x40000000 + n.val), a0 := loW off, a1 := hiW off, a2 := BitVec.ofNat 32 chan.val })

/-! ### The SMC's requests (R475) -/

/-- SMC_HALT (R475): a second halt request is acknowledged and raises no event. -/
def execSmcHalt (tag : Word32) (s : State) : Host.Outcome State Fault Refusal :=
  if !s.serves then .next s
  else .next ((if s.boot.halt then s else s.raise { code := 0x0803, a0 := tag }).smcAck tag 0 0)

/-- SMC_RESET (R453, R475): acknowledged, then a module reset. -/
def execSmcReset (tag : Word32) (st : Straps) (rom : RomTest) (s : State) : Host.Outcome State Fault Refusal :=
  .next (if s.serves then (s.smcAck tag 0 0).moduleReset st rom false else s)

end Sys2Proof.Machine
end

