-- ==== Sys2Proof/Machine/Trust.lean ====
section
/-! DEFINITION. Attestation, the identity and the test access port (R485 to R494, R502). -/
namespace Sys2Proof.Machine

/-! ### Requests (R492) -/

/-- Samples of 100 µs in 10 ms. -/
def attGap : Nat := 100

/-- Whether a source's next request may start: none in progress, and 10 ms since its previous one (R492). -/
def attFree (busy : Bool) (last : Option Nat) (now : Nat) : Bool :=
  !busy && match last with
    | some t => decide (t + attGap ≤ now)
    | none => true

/-- The host sets GO (R492, R503): nonce and context are latched; a request that breaks a rule is refused with code 0x01. A request that is refused in
the access that sets GO leaves GO at 1 (R13) until the firmware ends it. -/
def State.hostAttest (s : State) : State :=
  let t := s.trust
  if t.attGo then { s with trust := { t with attCode := 1 } }
  else if attFree false t.hostLast s.keep.ticks then
    { s with trust := { t with
        attGo := true, attState := 1, attCode := 0, report := [], hostReq := some ((t.nonce ++ zeros 32).take 32, t.attCtx)
        hostLast := some s.keep.ticks } }
  else { s with trust := { t with attGo := true, attState := 3, attCode := 1, report := [], hostReq := none } }

/-- A write of HKP_ATTCTRL (R492, R503): CTX is stored; GO starts a request. -/
def State.attCtrl (s : State) (v : Word32) : State :=
  if s.boot.ready then
    let s1 := { s with trust := { s.trust with attCtx := v.truncate 8 } }
    if v.getLsbD 31 then s1.hostAttest else s1
  else s

/-- ATTESTATION_GO (R492). -/
def execAttestationGo (v : Word32) (s : State) : Host.Outcome State Fault Refusal := .next (s.attCtrl v)

/-- A report message to the SMC (R492, R521): kind 0x0005, tag, status, report. -/
def State.smcReport (s : State) (tag : Word32) (status : Byte) (report : List Byte) : State :=
  s.sendMctp (mctpMsg 0x0005 (leBytes 4 tag.toNat ++ [status] ++ report))

/-- SMC_ATTESTATION_REQUEST (R475, R492): acknowledged; refused with code 0x01 when it breaks a rule of R492. -/
def execSmcAttestationRequest (tag : Word32) (nonce : List Byte) (ctx : Byte) (s : State) : Host.Outcome State Fault Refusal :=
  if !s.serves then .next s
  else if nonce.length ≠ 32 then .next (s.smcAck tag 3 0)
  else
    let s1 := s.smcAck tag 0 0
    if attFree s.trust.smcReq.isSome s.trust.smcLast s.keep.ticks then
      .next { s1 with trust := { s1.trust with smcReq := some (tag, nonce, ctx), smcLast := some s.keep.ticks } }
    else .next (s1.smcReport tag 1 [])

/-! ### Reports (R493) -/

/-- STATE of a report. Coordinate mode is what STRAP_COORD has latched (R354). -/
def State.attBits (s : State) : Nat :=
  b2n s.boot.strict + 2 * b2n s.boot.halt + 4 * b2n s.trust.dbg + 8 * b2n s.trust.sealed + 16 * b2n s.trust.jumper + 32 * b2n s.host.expert
    + 64 * b2n s.host.lock + 128 * b2n s.boot.straps.coord + 256 * b2n (decide (s.boot.path = 2))

/-- The 80 bytes of a slot in a report. -/
def slotReport (x : Slot) : List Byte :=
  if x.st = .empty then zeros 80
  else leBytes 1 x.st.code ++ leBytes 1 (b2n x.dmg + 2 * b2n x.keep) ++ zeros 2 ++ leBytes 4 x.edition.toNat ++ zeros 8
    ++ (match x.man with
      | some m => (m.digest ++ zeros 64).take 64
      | none => zeros 64)

/-- Bytes 0x100 to 0x3FF of a report: zero when CTX names no open context. -/
def State.ctxReport (s : State) (ctx : Byte) : List Byte :=
  let k := s.ctx ctx.toNat
  if ctx = 0xFF ∨ k.opened = false then zeros 768
  else
    let (d, p) := match k.loaded with
      | some im => ((im.digest ++ zeros 64).take 64, (im.planDigest ++ zeros 64).take 64)
      | none => (zeros 64, zeros 64)
    leBytes 4 (k.statReg.toNat / 2 ^ 23) ++ zeros 4 ++ d ++ p ++ zeros 8 ++ (List.range 4).flatMap (fun e => slotReport (k.slot e)) ++ zeros 304

/-- The 1,024-byte body of a report. -/
def State.reportBody (s : State) (smc : Bool) (nonce : List Byte) (ctx : Byte) : List Byte :=
  let (rel, dig) := match s.boot.fw with
    | some f => (f.release, (f.digest ++ zeros 64).take 64)
    | none => (0, zeros 64)
  let pid := match s.links.plan with
    | some p => p.planid.toNat
    | none => 0
  [0x51#8, 0x41#8, 0x54#8, 0x52#8] ++ leBytes 2 1 ++ leBytes 1 (b2n smc) ++ [ctx] ++ leBytes 8 s.keep.modser.toNat ++ (nonce ++ zeros 32).take 32
    ++ leBytes 4 rel ++ leBytes 4 s.keep.floor ++ dig ++ leBytes 1 s.keep.idgen ++ zeros 1 ++ leBytes 2 s.attBits
    ++ leBytes 4 (if s.boot.ready then s.boot.cores else 0) ++ leBytes 4 s.degrade.toNat ++ leBytes 4 (strapsReg s.boot.straps).toNat
    ++ leBytes 4 s.keep.sealcnt.toNat ++ leBytes 4 s.keep.dbgcnt.toNat ++ leBytes 8 s.ring.ms ++ leBytes 8 s.keep.powered ++ leBytes 4 pid
    ++ zeros 92 ++ s.ctxReport ctx

/-- The check that fails for a request now (R494), 0 for none. -/
def State.attCheck (s : State) (ctx : Byte) : Nat :=
  if 64 ≤ ctx.toNat ∧ ctx ≠ 0xFF then 5
  else if !s.trust.idrdy then 2
  else if idKeys ≤ s.trust.next then 3
  else 0

/-- The report with its signature (R485, R493). -/
def State.signedReport (s : State) (smc : Bool) (nonce : List Byte) (ctx : Byte) : List Byte :=
  let b := s.reportBody smc nonce ctx
  b ++ (identitySign (s.trust.seeds.getD []) s.trust.next b ++ zeros 5605).take 5605

/-- A host request ends refused (R494). -/
def State.hostRefused (s : State) (code : Byte) : State :=
  { s with trust := { s.trust with attGo := false, attState := 3, attCode := code, report := [], hostReq := none } }

/-- An SMC request ends refused (R494). -/
def State.smcRefused (s : State) (tag : Word32) (code : Byte) : State :=
  ({ s with trust := { s.trust with smcReq := none } }).smcReport tag code []

/-- Produce or refuse the host's report. -/
def State.hostReport (s : State) (nonce : List Byte) (ctx : Byte) : State :=
  let c := s.attCheck ctx
  if c ≠ 0 then s.hostRefused (BitVec.ofNat 8 c)
  else if s.needsReserve then s
  else { s with trust := { s.trust.useIndex with
      attGo := false, attState := 2, attCode := 0, attCount := sat16 s.trust.attCount 1, report := s.signedReport false nonce ctx
      hostReq := none } }

/-- Produce or refuse the SMC's report. -/
def State.smcAttest (s : State) (tag : Word32) (nonce : List Byte) (ctx : Byte) : State :=
  let c := s.attCheck ctx
  if c ≠ 0 then s.smcRefused tag (BitVec.ofNat 8 c)
  else if s.needsReserve then s
  else ({ s with trust := { s.trust.useIndex with smcReq := none } }).smcReport tag 0 (s.signedReport true nonce ctx)

/-- ATTESTATION_REPORT (R487, R492 to R494): the request of a source ends; one that needs an index not yet reserved waits. A host
request that was refused as it was made ends here too (R13). -/
def execAttestationReport (smc : Bool) (s : State) : Host.Outcome State Fault Refusal :=
  if smc then
    match s.trust.smcReq with
    | some (tag, nonce, ctx) => .next (s.smcAttest tag nonce ctx)
    | none => .next s
  else
    match s.trust.hostReq with
    | some (nonce, ctx) => .next (s.hostReport nonce ctx)
    | none => .next { s with trust := { s.trust with attGo := false } }

/-- Whether a request waits for a reservation. -/
def State.reserveWanted (s : State) : Bool :=
  let waits (c : Byte) : Bool := decide (s.attCheck c = 0)
  s.needsReserve && ((match s.trust.hostReq with
    | some (_, c) => waits c
    | none => false) || match s.trust.smcReq with
    | some (_, _, c) => waits c
    | none => false)

/-- A failed reservation refuses the requests that wait for it (R494). -/
def State.reserveFailed (s : State) : State :=
  let s1 := match s.trust.hostReq with
    | some (_, c) => if s.attCheck c = 0 then s.hostRefused 4 else s
    | none => s
  match s1.trust.smcReq with
  | some (tag, _, c) => if s.attCheck c = 0 then s1.smcRefused tag 4 else s1
  | none => s1

/-- IDENTITY_RESERVE (R487): the new limit is written to the keeping flash, or the write fails. -/
def execIdentityReserve (ok : Bool) (s : State) : Host.Outcome State Fault Refusal :=
  if s.reserveWanted then .next (if ok then s.reserve else s.reserveFailed) else .next s

/-- TREE_BUILD_DONE (R487, R488, R490): a step of REGEN_IDENTITY ends (DESIGN CHOICE, log entry 152), or the signing state has been rebuilt from
the seeds and the identity is ready, or the build of the next lower tree ends. -/
def execTreeBuildDone (s : State) : Host.Outcome State Fault Refusal :=
  match s.jobs.find? Job.regens with
  | some j => match j.phase with
    | .regen n seeds => .next (s.regenStep j n seeds)
    | _ => .next s
  | none =>
    if s.boot.ready && !s.trust.idrdy && s.trust.seeds.isSome then .next { s with trust := { s.trust with idrdy := true, building := false } }
    else if s.trust.building then .next { s with trust := { s.trust with building := false, built := true } }
    else .next s

/-- TEST_ACCESS_PORT_INSTRUCTION (R502): BYPASS, IDCODE and SAMPLE at all times; any other only while core debug is unlocked and the SEAL loop
is open. -/
def execTestAccessPortInstruction (basic : Bool) (s : State) : Host.Outcome State Fault Refusal :=
  .next (s.emit (.tap (basic || (s.trust.dbg && !s.trust.sealed))))

end Sys2Proof.Machine
end

