-- ==== Sys2Proof/Machine/Physical.lean ====
section
/-! DEFINITION. Sensors, rails, power and thermal floors, and the SMC sideband (R349, R350, R354, R358, R364, R379, R507 to R524). -/
namespace Sys2Proof.Machine

/-! ### Sensors (R514, R515, R524) -/

/-- Rail voltages in mV: the floor of a run, the ceiling, and the setting after a Junction Trip. -/
def railMin : Nat := 650
def railTrip : Nat := 550

/-- 95 °C, 93 °C, 100 °C and 105 °C in 1/16 °C. -/
def t95 : Int := 1520
def t93 : Int := 1488
def t100 : Int := 1600
def t105 : Int := 1680

/-- The junction of physical cluster q; a missing reading is 0. -/
def junction (tj : List (BitVec 16)) (q : Nat) : BitVec 16 := tj.getD q 0

/-- The rail of a cluster's die in mV: die A holds clusters 0 to 127. -/
def Phys.rail (x : Phys) (q : Nat) : Nat := if q < 128 then x.va else x.vb

/-- The effective limit acts on PLIM (R511). -/
def boundLimit (n : Nat) : Nat := Nat.max 800 (Nat.min n 1500)

/-- HLIM and VMAX as GLB_PWRCTL holds them. -/
def Phys.hlim (x : Phys) : Nat := x.pwrctl.toNat % 2048
def Phys.vmax (x : Phys) : Nat := railMin + 10 * Nat.min (x.pwrctl.toNat / 2 ^ 16 % 32) 20

/-- UNIT of a physical cluster (R463). -/
def clusterUnit (q : Nat) : Word32 := BitVec.ofNat 32 (0x80000000 + q)

/-- Update a count of consecutive samples: one more, or zero. -/
def runCount (m : Sparse Nat) (k : Nat) (on : Bool) : Sparse Nat := sset 0 m k (if on then sget 0 m k + 1 else 0)

/-- The key of `Phys.hot` that counts samples with both rails at 0.65 V. -/
def lowKey : Nat := 256

/-- The conditions of R514 after a sample: each cluster's, and the rails'. -/
def Phys.countHot (x : Phys) : Phys :=
  let m := (List.range 256).foldl (fun m q =>
    runCount m q (decide (t95 < (junction x.tj q).toInt) && decide (x.rail q = railMin))) x.hot
  { x with hot := runCount m lowKey (decide (x.va = railMin) && decide (x.vb = railMin)) }

/-- The 1 ms window of the input power (R511, R514): ten samples make an average. -/
def Phys.window (x : Phys) (pin : BitVec 16) : Phys :=
  let w := x.pwin ++ [pin.toNat]
  if w.length < 10 then { x with pwin := w }
  else
    let avg := w.sum / w.length
    { x with pwin := [], pin := BitVec.ofNat 16 avg, powerOver := if x.plim < avg then x.powerOver + 10 else 0 }

/-- The readings of a sample, and the counts that follow from them. -/
def Phys.sample (x : Phys) (r : Sensors) : Phys :=
  ({ x with tj := r.tj.take 256, vin := r.vin, tin := r.tin, tout := r.tout }.window r.pin).countHot

/-- Raise Junction Trip for a cluster and lower both rails (R515). -/
def State.junctionTrip (s : State) (q : Nat) : State :=
  let s1 := s.raise { code := 0x0603, unit := clusterUnit q, a0 := BitVec.ofInt 32 (junction s.phys.tj q).toInt }
  { s1 with phys := { s1.phys with va := railTrip, vb := railTrip } }

/-- Clusters that read 105 °C or more. -/
def Phys.tripped (x : Phys) : List Nat := (List.range 256).filter fun q => decide (t105 ≤ (junction x.tj q).toInt)

/-- What falls every 1 ms: the presence inputs are sampled (R498), and a round of the digest engine ends, whose division DIG_ROUND shows from then
on (R496, R504). -/
def State.everyMs (s : State) (expert sealed : Bool) : State :=
  let s1 := s.sampleInputs expert sealed
  { s1 with trust := { s1.trust with round := if s1.boot.ready then s1.digRound else 0 } }

/-- JUNCTION_SAMPLE (R450, R498, R504, R515, R524): one reading of all sensors, 100 µs after the one before; the refresh-rate codes of the packages are read
with it (R400, log entry 122), and every tenth one is of the presence inputs too. -/
def execJunctionSample (x : Sensors) (s : State) : Host.Outcome State Fault Refusal :=
  if s.boot.power then
    let s1 := State.readTref { s with keep := { s.keep with ticks := s.keep.ticks + 1 }, phys := s.phys.sample x }
    let s1 := if s1.keep.ticks % 10 = 0 then s1.everyMs x.expert x.sealed else s1
    .next (s1.phys.tripped.foldl (fun (s : State) q => s.junctionTrip q) s1)
  else .next s

/-- SMB_ALERT_N (R518): asserted while the module is halted or a junction reads 100 °C or more. -/
def State.smbAlert (s : State) : Bool := s.boot.halt || s.phys.tj.any fun t => decide (t100 ≤ t.toInt)

/-! ### The rails (R511, R512) -/

/-- PLIM of the present settings. -/
def Phys.limit (x : Phys) : Nat :=
  let h := Nat.min 1500 (boundLimit x.hlim)
  if x.slim = 0 then h else Nat.min h (boundLimit x.slim)

/-- A rail one step down, not below 0.65 V. -/
def railDown (v : Nat) : Nat := Nat.max railMin (v - 10)

/-- One step of a die's rail (R512); a rail above VMAX steps down. -/
def railStep (v vmax avg plim : Nat) (hot : Int) : Nat :=
  if v = railTrip then v
  else if plim < avg then railDown v
  else if t95 < hot then railDown v
  else if vmax < v then railDown v
  else if hot ≤ t93 ∧ avg + 50 ≤ plim ∧ v < vmax then v + 10
  else v

/-- The rails that the firmware first sets after a start: within range and VMAX, otherwise free (the spec gives no first setting). -/
def State.firstRails (s : State) : State :=
  if s.phys.va = 0 then
    let x := (Config.freeWord64 s.free).toNat
    let n := (s.phys.vmax - railMin) / 10 + 1
    { s with free := s.free + 1
             phys := { s.phys with va := railMin + 10 * (x % 2 ^ 32 % n), vb := railMin + 10 * (x / 2 ^ 32 % n) } }
  else s

/-- The rails after one control interval. -/
def Phys.step (x : Phys) (a b : BitVec 16) : Phys :=
  let l := x.limit
  { x with
    plim := l
    va := railStep x.va x.vmax x.pin.toNat l a.toInt
    vb := railStep x.vb x.vmax x.pin.toNat l b.toInt }

/-- VCORE_STEP (R511, R512). -/
def execVcoreStep (s : State) : Host.Outcome State Fault Refusal :=
  if s.alive && decide (s.boot.fwstate = 4) then
    let s1 := s.firstRails
    .next { s1 with phys := s1.phys.step (hottest (s1.dieTj false)) (hottest (s1.dieTj true)) }
  else .next s

/-- POWER_FLOOR (R514). -/
def execPowerFloor (s : State) : Host.Outcome State Fault Refusal :=
  if s.runHolds && decide (100 ≤ s.phys.powerOver) && decide (100 ≤ sget 0 s.phys.hot lowKey) then
    .next (s.raise { code := 0x0206, ctx := BitVec.ofNat 8 s.run.ctx.val
                     a0 := BitVec.ofNat 32 s.phys.pin.toNat, a1 := BitVec.ofNat 32 s.phys.va })
  else .next s

/-- THERMAL_FLOOR (R514, R515): not raised in a sample that raises Junction Trip. -/
def execThermalFloor (q : Fin 256) (s : State) : Host.Outcome State Fault Refusal :=
  if s.runHolds && decide (100 ≤ sget 0 s.phys.hot q.val) && s.phys.tripped.isEmpty then
    .next (s.raise { code := 0x0207, unit := clusterUnit q.val, ctx := BitVec.ofNat 8 s.run.ctx.val
                     a0 := BitVec.ofInt 32 (junction s.phys.tj q.val).toInt })
  else .next s

/-- A write of GLB_PWRCTL (R511, R524). -/
def State.pwrctlWrite (s : State) (v : Word32) : State :=
  if s.boot.ready then { s with phys := { s.phys with pwrctl := v &&& 0x1F07FF } } else s

/-- GLB_PWRCTL_WRITE (R511, R524). -/
def execGlbPwrctlWrite (v : Word32) (s : State) : Host.Outcome State Fault Refusal := .next (s.pwrctlWrite v)

/-- SMC_POWER_LIMIT (R511, R521): 0 removes the limit. -/
def execSmcPowerLimit (tag : Word32) (limit : BitVec 16) (s : State) : Host.Outcome State Fault Refusal :=
  .next (if s.serves then ({ s with phys := { s.phys with slim := limit.toNat } }).smcAck tag 0 0 else s)

/-! ### Plans (R349, R350, R354) -/

/-- A port record of a cabling plan. -/
def parsePlanPort (b : List Byte) : PlanPort :=
  { use := decide (leAt b 0 1 = 1), peerPort := BitVec.ofNat 2 (leAt b 1 1), peerSer := BitVec.ofNat 64 (leAt b 8 8), cableSn := (b.drop 16).take 16 }

/-- A port record obeys R350. -/
def planPortOk (b : List Byte) : Bool := decide (leAt b 0 1 ≤ 1) && decide (leAt b 1 1 ≤ 3) && zeroAt b 2 6 && zeroAt b 32 16

/-- The four port records. -/
def planRecords (b : List Byte) : List (List Byte) := (List.range 4).map fun i => (b.drop (32 + 48 * i)).take 48

/-- The shape of an installation and the place in it (R350). -/
def shapeOk (ringlen rings pos idx : Nat) : Bool :=
  decide (4 ≤ ringlen) && decide (ringlen ≤ 64) && decide (1 ≤ rings) && decide (rings ≤ 64) && decide (pos < ringlen) && decide (idx < rings)

/-- A plan obeys R350. -/
def planOk (b : List Byte) : Bool :=
  decide (b.take 4 = [0x52#8, 0x43#8, 0x42#8, 0x50#8]) && decide (leAt b 4 2 = 1) && decide (leAt b 6 1 ≤ 4) && decide (leAt b 7 1 ≤ 1)
    && shapeOk (leAt b 12 1) (leAt b 13 1) (leAt b 14 1) (leAt b 15 1) && zeroAt b 0x18 8 && (planRecords b).all planPortOk

/-- The plan that 224 bytes spell. -/
def parsePlan (b : List Byte) : CPlan :=
  { cmode := false, dres := leAt b 6 1, xwrap := bitOf (leAt b 7 1) 0, planid := BitVec.ofNat 32 (leAt b 8 4), ringlen := leAt b 12 1
    rings := leAt b 13 1, pos := leAt b 14 1, idx := leAt b 15 1, ports := (planRecords b).map parsePlanPort }

/-! ### The routing table (R356 to R358, R364, R379) -/

/-- An entry as 32 bytes spell it, reserved bits zero (R357). -/
def parseRoute (b : List Byte) : Route :=
  { w0 := BitVec.ofNat 64 (leAt b 0 8) &&& 0xFFC0FFFF00000000, w1 := BitVec.ofNat 64 (leAt b 8 8)
    w2 := BitVec.ofNat 64 (leAt b 16 8) &&& 0xFFFFFF0FFF000000, w3 := 0 }

/-- The Spine lanes not reserved for Detours (R360): lanes 15 − DRES down to 0. -/
def State.freeLanes (s : State) : Nat := 2 ^ (16 - s.links.dres) - 1

/-- Whether an entry's SPINE breaks R358. -/
def State.spineBad (s : State) (e : Route) : Bool :=
  (e.member && decide (e.spine ≠ s.freeLanes)) || (e.transit && (decide (e.spine = 0) || decide (e.spine &&& s.freeLanes ≠ 0)))

/-- Whether an entry's SPHASE overlaps another valid entry's on some port, one of the two being a transit entry (R358). -/
def State.phaseBad (s : State) (tag : Nat) (e : Route) : Bool :=
  s.links.routes.any fun x => decide (x.1 ≠ tag) && x.2.valid && (e.transit || x.2.transit) && e.valid && decide (e.w1 &&& x.2.w1 ≠ 0)

/-- The first reason of R358 for which a write is refused, or 0. -/
def State.routeCheck (s : State) (slice : BitVec 16) (e : Route) : Nat :=
  if s.run.phase ≠ .idle ∧ s.runTag = slice.toNat then 0x10
  else if s.spineBad e then 0x11
  else if s.phaseBad slice.toNat e then 0x12
  else if slice = 0 ∨ 4096 ≤ slice.toNat then 0x13
  else 0

/-- Detour buffer sets held (R379). -/
def State.setsHeld (s : State) : Nat := (s.links.detours.filter fun e => e.2.held).length

/-- Give free Detour buffer sets to transit entries that wait for one, lowest tag first (R379). -/
def State.grantSets (s : State) : State :=
  (s.links.routes.filter fun e => e.2.transit && !(s.detour e.1).held).foldl (fun (s : State) (e : Nat × Route) =>
    if s.setsHeld < 16 then s.modDetour e.1 fun d => { d with held := true } else s) s

/-- Write an entry (R356, R364, R379): a changed one ends the bindings of its tag, and an entry that is no longer transit gives back its
buffer set. -/
def State.writeRoute (s : State) (tag : Nat) (e : Route) : State :=
  let changed := decide (s.route tag ≠ e)
  let s1 := { s with
    links := { s.links with routes := sset {} s.links.routes tag e }
    ctxs := if changed then s.ctxs.map fun (x : Nat × Ctx) =>
      (x.1, if x.2.tag = some (BitVec.ofNat 12 tag) then { x.2 with tag := none } else x.2) else s.ctxs }
  (if e.transit then s1 else s1.modDetour tag fun _ => {}).grantSets

/-- ROUTING_ENTRY_WRITE (R356 to R358, R521). The fields of an entry that its kind does not use, INP and OUTP of a member entry, PORTS and word 2 of a
transit entry, are stored as written (DESIGN CHOICE, log entry 150: R358 names no check of them). -/
def execRoutingEntryWrite (tag : Word32) (slice : BitVec 16) (entry : List Byte) (s : State) : Host.Outcome State Fault Refusal :=
  if !s.serves then .next s
  else if entry.length ≠ 32 then .next (s.smcAck tag 3 0)
  else
    let e := parseRoute entry
    let r := s.routeCheck slice e
    if r ≠ 0 then .next (s.smcAck tag 1 (BitVec.ofNat 8 r)) else .next ((s.writeRoute slice.toNat e).smcAck tag 0 0)

/-! ### Holding a plan (R349, R354, R360) -/

/-- A transit entry is valid only while the Spine lanes that it grants are reserved (R18, R360): one that the present DRES leaves without them
becomes invalid, as when its V is cleared (log entry 121). -/
def State.dropTransit (s : State) : State :=
  (s.links.routes.filter fun e => e.2.transit && s.spineBad e.2).foldl
    (fun (s : State) (e : Nat × Route) => s.writeRoute e.1 { e.2 with w0 := e.2.w0 &&& 0x7FFFFFFFFFFFFFFF }) s

/-- Hold a new plan (R349): it takes effect at once for every port that does not carry a running job's tag. -/
def State.takePlan (s : State) (p : CPlan) : State :=
  let s1 := { s with links := { s.links with
    plan := some p, dres := p.dres
    planOld := if s.runBound then (match s.links.planOld with
      | some o => some o
      | none => s.links.plan) else none } }
  (List.range 4).foldl (fun (s : State) q => if s.inUse q then s else s.checkPort q) s1.dropTransit

/-- CABLING_PLAN (R349, R350, R354, R521). -/
def execCablingPlan (tag : Word32) (plan : List Byte) (s : State) : Host.Outcome State Fault Refusal :=
  if !s.serves then .next s
  else if plan.length ≠ 224 then .next (s.smcAck tag 3 0)
  else if leAt plan 0x10 8 ≠ s.keep.modser.toNat then .next (s.smcAck tag 1 1)
  else if !planOk plan || s.boot.straps.coord then .next (s.smcAck tag 1 2)
  else .next ((s.takePlan (parsePlan plan)).smcAck tag 0 0)

/-- COORDINATE_MESSAGE (R354, R521). -/
def execCoordinateMessage (tag : Word32) (ringlen rings pos idx : Byte) (s : State) : Host.Outcome State Fault Refusal :=
  if !s.serves then .next s
  else if !s.boot.straps.coord then .next (s.smcAck tag 1 0x20)
  else if !shapeOk ringlen.toNat rings.toNat pos.toNat idx.toNat then .next (s.smcAck tag 1 2)
  else .next ((s.takePlan { cmode := true, dres := 1, xwrap := false, planid := 0, ringlen := ringlen.toNat, rings := rings.toNat, pos := pos.toNat
                            idx := idx.toNat, ports := [] }).smcAck tag 0 0)

/-! ### Telemetry and MCTP control (R520 to R523) -/

/-- The 48 bytes of a telemetry response (R523). -/
def State.telemetry (s : State) : List Byte :=
  (List.range 6).flatMap (fun i => leBytes 4 (s.glbReg (0x400 + 4 * i)).toNat) ++ leBytes 4 s.glbState ++ leBytes 4 s.err.errsum.toNat
    ++ leBytes 4 (s.glbReg 4).toNat ++ leBytes 8 s.ring.ms ++ leBytes 4 s.smcstat.toNat

/-- TELEMETRY_REQUEST (R521 to R523). -/
def execTelemetryRequest (tag : Word32) (s : State) : Host.Outcome State Fault Refusal :=
  .next (if s.serves then (s.smcAck tag 0 0).sendMctp (mctpMsg 0x0021 (leBytes 4 tag.toNat ++ s.telemetry)) else s)

/-- An MCTP control response (PRESUMED, DSP0236): message type 0x00, the byte that echoes the one of the request, which no row carries and which
is free therefore (log entry 147), command, completion code, data. -/
def State.control (s : State) (cmd cc : Byte) (data : List Byte) : State :=
  ({ s with free := s.free + 1 }).sendMctp ([0x00, (Config.freeWord64 s.free).truncate 8, cmd, cc] ++ data)

/-- SET_ENDPOINT_ID (R520): 0 and 0xFF are no endpoint IDs (PRESUMED, DSP0236). -/
def execSetEndpointId (eid : Byte) (s : State) : Host.Outcome State Fault Refusal :=
  if !s.serves then .next s
  else if eid = 0 ∨ eid = 0xFF then .next (s.control 0x01 0x02 [])
  else .next (({ s with phys := { s.phys with eid := some eid } }).control 0x01 0x00 [0x00, eid, 0x00])

/-- GET_ENDPOINT_ID (R520). -/
def execGetEndpointId (s : State) : Host.Outcome State Fault Refusal :=
  .next (if s.serves then s.control 0x02 0x00 [s.phys.eid.getD 0, 0x00, 0x00] else s)

/-- GET_MCTP_VERSION_SUPPORT (R520): version 1.3 of the base and of each supported message type (PRESUMED, DSP0236). -/
def execGetMctpVersionSupport (msgType : Byte) (s : State) : Host.Outcome State Fault Refusal :=
  if !s.serves then .next s
  else if msgType = 0xFF ∨ msgType = 0x00 ∨ msgType = 0x7E then .next (s.control 0x04 0x00 [0x01, 0xF1, 0xF3, 0xF0, 0x00])
  else .next (s.control 0x04 0x80 [])

/-- GET_MESSAGE_TYPE_SUPPORT (R520): types 0x00 and 0x7E. -/
def execGetMessageTypeSupport (s : State) : Host.Outcome State Fault Refusal :=
  .next (if s.serves then s.control 0x05 0x00 [0x02, 0x00, 0x7E] else s)

/-- GET_VENDOR_DEFINED_MESSAGE_SUPPORT (R520): one vendor ID, 0x1F4C, in PCI form. -/
def execGetVendorDefinedMessageSupport (sel : Byte) (s : State) : Host.Outcome State Fault Refusal :=
  if !s.serves then .next s
  else if sel = 0 then .next (s.control 0x06 0x00 [0xFF, 0x00, 0x1F, 0x4C, 0x00, 0x00])
  else .next (s.control 0x06 0x02 [])

/-- SMC_MESSAGE_SENT (R520, R522): the first queued message goes out once the SMC has set an endpoint ID. -/
def execSmcMessageSent (s : State) : Host.Outcome State Fault Refusal :=
  match s.phys.eid, s.phys.smcq with
  | some _, m :: l => .next (({ s with phys := { s.phys with smcq := l } }).sendMctp m)
  | _, _ => .next s

end Sys2Proof.Machine
end

