-- ==== Sys2Proof/Machine/HostRegs.lean ====
section
/-! DEFINITION. What the host reads and writes by PCI Express: BAR2, the debug window, BAR0 registers and the requests that are answered as
violations (R10 to R14, R59, R97, R137, R152, R171, R201, R249, R255, R272, R307, R330, R404 to R407, R412, R413, R426 to R436, R479, R524). -/
namespace Sys2Proof.Machine

/-! ### BAR2 (R412, R413) -/

/-- Bytes that BAR2 shows: 64 GiB. -/
def bar2Size : Nat := 2 ^ 36

/-- The window that BAR2 shows: none while the module is halted (R471). -/
def State.window (s : State) : Option (CtxId × Nat) := if s.boot.halt then none else s.host.window

/-- A BAR2 access answered under R413: counted, and logged once per SET_WINDOW while a window is in force. -/
def State.bar2Bad (s : State) (a : Nat) : State :=
  let s1 := { s with host := { s.host with bar2v := sat32 s.host.bar2v 1 } }
  match s.window with
  | some (c, _) =>
    if s.host.windowLogged then s1
    else ({ s1 with host := { s1.host with windowLogged := true } }).logEvent
      { code := 0x0703, unit := 0x60000000, a0 := loW a, a1 := hiW a, a2 := BitVec.ofNat 32 c.val }
  | none => s1

/-- The turns of the remote class that an access of [a, a + n) takes in the ranges that it reaches (R390, R412). -/
def State.areaTurns (s : State) (l : List (Nat × Nat)) (a n : Nat) : State :=
  l.foldl (fun s r =>
    let lo := Nat.max a r.1
    s.useTurns .remote lo (Nat.min (a + n) (r.1 + r.2) - lo)) s

/-- A read through BAR2: bytes outside the ranges of R413 read zero. -/
def State.bar2Read (s : State) (off n : Nat) : State :=
  match s.window with
  | none => (s.bar2Bad off).emit (.readData (zeros n))
  | some (c, g) =>
    let a := g * 2 ^ 30 + off
    let k := s.ctx c.val
    let s1 := match firstGap k.readAreas.length k.readAreas a n with
      | none => s
      | some b => s.bar2Bad b
    (s1.areaTurns k.readAreas a n).emit (.readData ((List.range n).map fun i => if k.mayRead (a + i) 1 then rdByte s.lpddr (a + i) else 0))

/-- A write through BAR2: bytes outside are dropped, which is counted once for the write (R413); what it loses in edition areas is logged for
each slot (R307). -/
def State.bar2Write (s : State) (off : Nat) (d : List Byte) : State :=
  match s.window with
  | none => s.bar2Bad off
  | some (c, g) =>
    let a := g * 2 ^ 30 + off
    let k := s.ctx c.val
    let s1 := State.areaTurns { s with lpddr := putAllowed k s.lpddr a d } k.writeAreas a d.length
    match firstGap k.writeAreas.length k.writeAreas a d.length with
    | none => s1
    | some b => (s1.bar2Bad b).logDropped c.val a d.length

/-- BAR2_ACCESS (R307, R412, R413). -/
def execBar2Access (a : HostAcc) (s : State) : Host.Outcome State Fault Refusal :=
  if !s.boot.ready then .next (match a with
    | .read _ n => s.emit (.readData (zeros n))
    | .write _ _ => s)
  else match a with
  | .read off n => .next (if off + n ≤ bar2Size then s.bar2Read off n else s)
  | .write off d => .next (if off + d.length ≤ bar2Size then s.bar2Write off d else s)

/-! ### Violations (R429, R430, R432) -/

/-- MALFORMED_TLP (R14, R402, R429, R432): malformed and poisoned TLPs are discarded and reported through AER, and so is one whose ECRC is wrong
while ECRC checking is enabled; while it is not, ECRC is not looked at. -/
def execMalformedTlp (k : BadTlp) (off : Word32) (rid : BitVec 16) (s : State) : Host.Outcome State Fault Refusal :=
  if !s.alive then .next s
  else match k with
  | .malformed => .next (({ s with host := { s.host with cfg := { s.host.cfg with aerMalformed := true } } }).logViolation off rid 0xFFFFFFFF)
  | .poisoned => .next (({ s with host := { s.host with cfg := { s.host.cfg with aerPoisoned := true } } }).logViolation off rid 0xFFFFFFFF)
  | .ecrc => .next (if s.host.cfg.ecrcCheck then
      ({ s with host := { s.host with cfg := { s.host.cfg with aerEcrc := true } } }).logViolation off rid 0xFFFFFFFF else s)
  | .noBar | .reservedBar0 | .notWholeWord => .next (s.unsupported off rid)

/-! ### The debug window (R426, R427, R430) -/

/-- BAR0 offset of the debug window. -/
def windowBase : Nat := 0x1000000

/-- The core that the window shows, while the level of the mailbox that mapped it is expert (R430). -/
def State.windowCore (s : State) : Option Nat :=
  match s.host.mapped with
  | some (c, m) => if s.expertLevel m.val then some c else none
  | none => none

/-- A request of the window with no core shown: counted in PCIE_VIOL.CA and logged (R430). -/
def State.windowDenied (s : State) (off : Nat) (rid : BitVec 16) : State :=
  ({ s with host := { s.host with ca := sat16 s.host.ca 1 } }).logViolation (loW (windowBase + off)) rid 1

/-- A write to the window: dropped before READY, refused with no core shown, dropped for an absent core (R2) and a unit in reset (R456). The
core is brought forward first: a write falls between the beat before that in which the core stands, as the last write of that beat (R131, R152,
R382), and the beat in which it stands, to which VALUE and the counters belong (R61, R249; log entry 131). -/
def State.windowWrite (s : State) (off : Nat) (rid : BitVec 16) (f : Nat → State → State) : State :=
  if !s.boot.ready then s
  else match s.windowCore with
  | none => s.windowDenied off rid
  | some c => if c = absentCore ∨ s.inReset c then s else f c (s.sync c ((s.core c).now - 1))

/-- What needs core debug unlocked is dropped while it is not (R171, R272, R427). -/
def State.unlocked (s : State) (f : State → State) : State := if s.trust.dbg then f s else s

/-- One debug signal on a Waymark in the beat in which the core stands (R249, R250, R255, R272). -/
def State.debugSignal (s : State) (c : Nat) (n : Fin 32) : State :=
  let b := (s.core c).now
  let s1 := (s.sync c (b - 1)).modCore c fun k => k.signalDbg n b
  if (s1.core c).tops b n then s1.wmOverflow c b else s1

/-- A debug write of a Waymark's VALUE (R249, R250, R272). -/
def State.writeWm (s : State) (c : Nat) (n : Fin 32) (v : Word32) : State :=
  let b := (s.core c).now
  let s1 := s.modCore c fun k => k.writeValue n (v.truncate 12) b
  if (s1.core c).tops b n then s1.wmOverflow c b else s1

/-- A debug write of one half of a scalar (R152, R171): it falls after the results that are available by the beat in which the core stands; s0
drops it. -/
def Core.writeHalf (k : Core) (n : Reg) (hi : Bool) (v : Word32) : Core :=
  let k1 := k.settleRes k.now
  let x := k1.sc n
  k1.setSc n (if hi then v ++ x.truncate 32 else (x >>> 32).truncate 32 ++ v)

/-- A debug write of a clip counter (R59): the additions of earlier beats stand in it, those of the beat in which the core stands are added to what
is written (R61). -/
def Core.writeClip (k : Core) (n : Nat) (v : Word32) : Core :=
  let k1 := k.settleClips k.now
  { k1 with clips := sset 0 k1.clips n (clipWrite (k1.clip n) v) }

/-- Whether a fill still holds a debug-window write of the core. -/
def Core.windowHeld (k : Core) : Bool :=
  k.held.any fun w => match w with
    | .window x => k.filling x.t
    | _ => false

/-- A fence is set (R255, R272): BUSY is W1S. -/
def Core.setFence (k : Core) (v : Word32) : Core := { k with fence := k.fence || v.getLsbD 0 }

/-- The fence of a core is over (R272): the window's writes of a fill that a halt abandoned have taken effect, BUSY reads zero. -/
def Core.endFence (k : Core) : Core :=
  let win (w : HeldWr) : Bool := match w with
    | .window _ => true
    | _ => false
  (k.held.filter win).foldl Core.applyHeld { k with fence := false, held := k.held.filter fun w => !win w }

/-- The fence is over when no fill holds a write of the window: the writes of WYM_SIGNAL that waited for it fall, in order (R255). -/
def State.fenceOver (s : State) (c : Nat) : State :=
  let k := s.core c
  if k.fence && !k.windowHeld then
    k.sigWait.foldl (fun s n => s.unlocked fun s => s.debugSignal c n) (s.setCore c { k.endFence with sigWait := [] })
  else s

/-- A write of WYM_SIGNAL (R255): it takes effect once a fence that is set first is over, which is at once when no fence is in progress and no
write of the window is held. -/
def State.writeSignal (s : State) (c : Nat) (n : Fin 32) : State :=
  let busy := (s.core c).fence
  let s1 := s.modCore c fun k => { k with fence := true, sigWait := k.sigWait ++ [n] }
  if busy then s1 else s1.fenceOver c

/-- WYM_SIGNAL (R255). -/
def execWymSignal (v : Word32) (rid : BitVec 16) (s : State) : Host.Outcome State Fault Refusal :=
  .next (s.windowWrite 0x400D04 rid fun c s => s.unlocked fun s => s.writeSignal c (Fin.ofNat 32 v.toNat))

/-- WYM_DBGFENCE (R255, R272). -/
def execWymDbgfence (v : Word32) (rid : BitVec 16) (s : State) : Host.Outcome State Fault Refusal :=
  .next (s.windowWrite 0x400D08 rid fun c s => s.modCore c fun k => k.setFence v)

/-- DEBUG_FENCE_DONE (R255, R272): BUSY reads zero on every core whose earlier window writes have all taken effect. -/
def execDebugFenceDone (s : State) : Host.Outcome State Fault Refusal :=
  .next ((s.cores.map (·.1)).foldl (fun s c => s.fenceOver c) s)

/-- WYM_VAL_WRITE (R249, R272). -/
def execWymValWrite (n : Fin 32) (v : Word32) (rid : BitVec 16) (s : State) : Host.Outcome State Fault Refusal :=
  .next (s.windowWrite (0x400C00 + 4 * n.val) rid fun c s => s.unlocked fun s => s.writeWm c n v)

/-- SCALAR_DEBUG_WRITE (R152, R171). -/
def execScalarDebugWrite (n : Reg) (hi : Bool) (v : Word32) (rid : BitVec 16) (s : State) : Host.Outcome State Fault Refusal :=
  .next (s.windowWrite (0x400800 + 8 * n.val + 4 * b2n hi) rid fun c s => s.unlocked fun s => s.modCore c fun k => k.writeHalf n hi v)

/-- First offset of the register page and of the tile registers in the window. -/
def pageBase : Nat := 0x400000
def tileBase : Nat := 0x800000

/-- Whether an access touches the register page. -/
def onPage (off n : Nat) : Bool := decide (off < pageBase + 0x10000) && decide (pageBase < off + n)

/-- One byte of the window as a read of a core as it stands returns it. -/
def Core.windowByte (k : Core) (off : Nat) : Byte :=
  if off < pageBase then rdByte k.sram off
  else if off < pageBase + 0x10000 then
    byteAt (leBytes 4 (k.pageOf ((off - pageBase) / 4 * 4)).toNat) (off % 4)
  else if tileBase ≤ off ∧ off < tileBase + 16 * 0x2000 ∧ off % 0x2000 < 5376 then
    rdByte (k.tile ((off - tileBase) / 0x2000)).bytes (off % 0x2000)
  else 0

/-- A read of the window (R2, R427, R430, R456): the Completer Abort that answers a request with no core shown is reported through AER too. -/
def State.windowRead (s : State) (off n : Nat) (rid : BitVec 16) : State :=
  if !s.boot.ready then s.emit (.readData (zeros n))
  else match s.windowCore with
  | none =>
    ((({ s with host := { s.host with cfg := { s.host.cfg with aerAbort := true } } }).windowDenied off rid)).emit .completerAbort
  | some c =>
    let k := (s.core c).atNow
    s.emit (.readData (if c = absentCore ∨ s.inReset c then zeros n else (List.range n).map fun i => k.windowByte (off + i)))

/-- A write of a word of the register page, under each register's Access; those that reach beyond the core are `State.pageWord`. -/
def Core.pageWrite (k : Core) (dbg : Bool) (off : Nat) (v : Word32) : Core :=
  if 0x400 ≤ off ∧ off < 0x440 then k.writeClip ((off - 0x400) / 4) v
  else if 0x800 ≤ off ∧ off < 0xA00 then
    if dbg then k.writeHalf (Fin.ofNat 64 ((off - 0x800) / 8)) (decide (off % 8 = 4)) v else k
  else match off with
  | 0x444 => { k with mmbusy := v + BitVec.ofNat 32 (k.mmRest k.now) }
  | 0x448 => { k with mmwait := v - BitVec.ofNat 32 (k.mmWaiting k.now) }
  | 0x484 => { k with vebusy := v + BitVec.ofNat 32 (k.veRest k.now) }
  | 0x544 => { k with xfills := v }
  | 0x548 => { k with xopen := v }
  | 0xD08 => k.setFence v
  | _ => k

/-- Write one byte of SRAM or of a tile register by the window. -/
def Core.windowPut (k : Core) (off : Nat) (b : Byte) : Core :=
  if off < pageBase then { k with sram := wrByte k.sram off b }
  else if tileBase ≤ off ∧ off < tileBase + 16 * 0x2000 ∧ off % 0x2000 < 5376 then
    k.putTile (.window ⟨Fin.ofNat 16 ((off - tileBase) / 0x2000), off % 0x2000, [b]⟩)
  else k

/-- Write bytes of SRAM and tile registers by the window; the SRAM of a position that serves no logical core is absent (R376). -/
def State.windowBytes (s : State) (c off : Nat) : List Byte → State
  | [] => s
  | b :: l =>
    State.windowBytes (if c < 2048 ∨ pageBase ≤ off then s.modCore c fun k => k.windowPut off b else s) c (off + 1) l

/-- A write of a word of the register page of a core, which may raise an event or wait for a fence (R250, R255). -/
def State.pageWord (s : State) (c off : Nat) (v : Word32) : State :=
  if off = 0xD04 then s.unlocked fun s => s.writeSignal c (Fin.ofNat 32 v.toNat)
  else if 0xC00 ≤ off ∧ off < 0xC80 then s.unlocked fun s => s.writeWm c (Fin.ofNat 32 ((off - 0xC00) / 4)) v
  else s.modCore c fun k => k.pageWrite s.trust.dbg off v

/-- Write words of the register page by the window, in ascending order. -/
def State.windowWords : Nat → State → Nat → Nat → List Byte → State
  | 0, s, _, _, _ => s
  | n + 1, s, c, off, d =>
    let o := off - pageBase
    let v := wordAt d 0
    State.windowWords n (s.pageWord c o v) c (off + 4) (d.drop 4)

/-- DEBUG_WINDOW_ACCESS (R14, R427, R430): a register access must be whole 32-bit words. -/
def execDebugWindowAccess (a : HostAcc) (rid : BitVec 16) (s : State) : Host.Outcome State Fault Refusal :=
  let (off, n) := match a with
    | .read o n => (o, n)
    | .write o d => (o, d.length)
  if !s.alive ∨ 0x1000000 < off + n then .next s
  else if onPage off n = true ∧ (off % 4 ≠ 0 ∨ n % 4 ≠ 0 ∨ off < pageBase ∨ pageBase + 0x10000 < off + n) then
    .next (s.unsupported (loW (windowBase + off)) rid)
  else match a with
  | .read o n => .next (s.windowRead o n rid)
  | .write o d =>
    .next (s.windowWrite o rid fun c s =>
      if onPage o d.length then State.windowWords (d.length / 4) s c o d else s.unlocked fun s => s.windowBytes c o d)

/-! ### Registers of BAR0 with behaviour of their own -/

/-- A write of GLB_ERRSUM (R11, R479): clearing LOST also clears HKP_LOST. -/
def State.errsumWrite (s : State) (v : Word32) : State :=
  if s.boot.ready then
    let e := s.err
    { s with err := { e with
        errsum := w1c e.errsum 0xC000001F v
        lostCode := if v.getLsbD 30 then 0 else e.lostCode
        lostCount := if v.getLsbD 30 then 0 else e.lostCount } }
  else s

/-- ERRSUM_CLEAR (R479). -/
def execErrsumClear (v : Word32) (s : State) : Host.Outcome State Fault Refusal := .next (s.errsumWrite v)

/-- A write of DIG_SCRUBCFG (R330): it acts from the next rotation. -/
def State.scrubcfgWrite (s : State) (v : Word32) : State :=
  if s.boot.ready then { s with scrub := { s.scrub with cfg := v &&& 0xFFFF00FF } } else s

/-- DIG_SCRUBCFG_WRITE (R330). -/
def execDigScrubcfgWrite (v : Word32) (s : State) : Host.Outcome State Fault Refusal := .next (s.scrubcfgWrite v)

/-- A write of an MSI-X table word (R407): a vector that becomes unmasked while pending is sent. The mask bit is stored inverted. -/
def State.msixWrite (s : State) (off : Nat) (v : Word32) : State :=
  let w := if off % 16 = 12 then (v &&& 1) ^^^ 1 else v
  let s1 := { s with host := { s.host with msix := wrBytes s.host.msix off (leBytes 4 w.toNat) } }
  let i := off / 16
  if s1.msixMasked i || !s1.host.pba.getLsbD i then s1
  else ({ s1 with host := { s1.host with pba := s1.host.pba &&& ~~~(BitVec.ofNat 2048 (2 ^ i)) } }).emit (.msix i)

/-- Registers that the ROM serves before READY (R436, R438). -/
def State.fwReg (s : State) (off : Nat) (v : Word32) : State :=
  match off with
  | 0x100 => { s with boot := { s.boot with fwhost := (s.boot.fwhost >>> 32).truncate 32 ++ v } }
  | 0x104 => { s with boot := { s.boot with fwhost := v ++ s.boot.fwhost.truncate 32 } }
  | 0x108 => { s with boot := { s.boot with fwlen := v } }
  | _ => s.fwCtrl v

/-- A nonce register (R503). -/
def State.nonceReg (s : State) (i : Nat) (v : Word32) : State :=
  { s with trust := { s.trust with nonce := putBytes ((s.trust.nonce ++ zeros 32).take 32) (4 * i) (leBytes 4 v.toNat) } }

/-- A write of a global register (R10, R406): a register that no rule lets the host write is not changed. -/
def State.glbWrite (s : State) (off : Nat) (v : Word32) : State :=
  if 0x320 ≤ off ∧ off < 0x340 then s.nonceReg ((off - 0x320) / 4) v
  else match off with
  | 0x200 => s.errsumWrite v
  | 0x20C => { s with err := { s.err with logsel := v.getLsbD 0 } }
  | 0x210 => { s with err := { s.err with logbase := v } }
  | 0x314 => s.attCtrl v
  | 0x400 => s.pwrctlWrite v
  | 0x32040 => { s with links := { s.links with
      skew := s.links.skew && !v.getLsbD 30, jump := s.links.jump && !v.getLsbD 29 } }
  | 0x36000 => s.scrubcfgWrite v
  | 0x36004 => { s with scrub := { s.scrub with late := s.scrub.late && !v.getLsbD 30 } }
  | _ => s

/-- A write of one 32-bit register below 0x10_0000 (R10, R406, R436): before READY only the registers of the firmware load take it. -/
def State.regWrite (s : State) (off : Nat) (v : Word32) : State :=
  if 0x100 ≤ off ∧ off < 0x110 then s.fwReg off v
  else if !s.boot.ready then s
  else if off < 0xE0000 then s.glbWrite off v
  else if off < 0xE8000 then s.msixWrite (off - 0xE0000) v
  else s

/-- REGISTER_WRITE (R10 to R14, R404, R406, R429): a write to BAR0. Registers take one or two whole words, in ascending order; the mailbox
pages and the debug window have their own rules; a write to a reserved range is answered with Unsupported Request. -/
def execRegisterWrite (off : Nat) (w : HostWrite) (s : State) : Host.Outcome State Fault Refusal :=
  if !s.alive then .next s
  else if off < 0x100000 then
    if wholeWords off w.bytes.length then .next ((regWords off w.bytes).foldl (fun s r => s.regWrite r.1 r.2) s)
    else .next (s.unsupported (loW off) w.rid)
  else if off < 0x200000 then
    execMailboxEntryWrite (Fin.ofNat 16 ((off - 0x100000) / 0x10000)) (BitVec.ofNat 16 (off % 0x10000)) w s
  else if windowBase ≤ off ∧ off < 2 * windowBase then execDebugWindowAccess (.write (off - windowBase) w.bytes) w.rid s
  else .next (s.unsupported (loW off) w.rid)

/-! ### Configuration space (R402 to R405) -/

/-- The standard header of configuration space: vendor and device ID, revision and class code, and the BARs, of which BAR0 to BAR3 hold two
64-bit addresses; BAR4, BAR5 and the expansion ROM BAR read zero (R403, R404). -/
def State.configWord (s : State) (off : Nat) : Word32 :=
  let c := s.host.cfg
  match off with
  | 0x00 => word [(16, s.keep.grade.devid), (0, 0x1F4C)]
  | 0x08 => word [(8, 0x120000), (0, 1)]
  | 0x10 => lo32 (c.bar0 &&& 0xFFFFFFFFFC000000) ||| 0x4
  | 0x14 => hi32 c.bar0
  | 0x18 => lo32 (c.bar2 &&& 0xFFFFFFF000000000) ||| 0xC
  | 0x1C => hi32 (c.bar2 &&& 0xFFFFFFF000000000)
  | _ => 0

end Sys2Proof.Machine
end

