-- ==== Sys2Proof/Machine/Matrix.lean ====
section
/-! DEFINITION. The matrix engine's compute and readout instructions (R75, R80 to R89): each is placed in the matrix queue with
its scalars; dispatch, start and completion are in Sys2Proof/Machine/Engines.lean and Completion.lean. -/
namespace Sys2Proof.Machine

/-- MM.B16 (R43, R80 to R86). -/
def execMmB16 (c : CoreId) (h : Hdr) (a : MmArgs) (s : State) : Host.Outcome State Fault Refusal :=
  .next (s.issueComp c.val h .b16 a)

/-- MM.F8 (R44, R45, R80 to R86). -/
def execMmF8 (c : CoreId) (h : Hdr) (wf opf : F8Fmt) (a : MmArgs) (s : State) : Host.Outcome State Fault Refusal :=
  .next (s.issueComp c.val h (.f8 wf opf) a)

/-- MM.F4 (R44, R45, R80 to R86). -/
def execMmF4 (c : CoreId) (h : Hdr) (a : MmArgs) (s : State) : Host.Outcome State Fault Refusal :=
  .next (s.issueComp c.val h .f4 a)

/-- MM.F4E with the escape side path (R39 to R41, R44, R80 to R86). -/
def execMmF4e (c : CoreId) (h : Hdr) (a : MmArgs) (s : State) : Host.Outcome State Fault Refusal :=
  .next (s.issueComp c.val h .f4e a)

/-- MM.N3 with the row codebook (R33, R44, R80 to R86). -/
def execMmN3 (c : CoreId) (h : Hdr) (a : MmArgs) (s : State) : Host.Outcome State Fault Refusal :=
  .next (s.issueComp c.val h .n3 a)

/-- MM.N2 and ternary (R34, R35, R46, R80 to R86). -/
def execMmN2 (c : CoreId) (h : Hdr) (ternary : Bool) (a : MmArgs) (s : State) : Host.Outcome State Fault Refusal :=
  .next (s.issueComp c.val h (.n2 ternary) a)

/-- MM.RD (R87, R88); RND must be zero under the 32-bit copy. -/
def execMmRd (c : CoreId) (h : Hdr) (acc : Fin 8) (col : Fin 64) (td : Tile16) (df : RdFmt) (rnd : Rnd) (st : Reg) (s : State) :
    Host.Outcome State Fault Refusal :=
  if (MmOp.rd acc col td df rnd st).legal then
    .next (s.issueMm c.val h (.rd acc col td df rnd st) (if rnd = .dsr then [st] else []))
  else .refused .reservedEncoding

/-- MM.LA (R89). -/
def execMmLa (c : CoreId) (h : Hdr) (acc : Fin 8) (col : Fin 64) (ts : Tile16) (s : State) : Host.Outcome State Fault Refusal :=
  .next (s.issueMm c.val h (.la acc col ts) [])

end Sys2Proof.Machine
end

