-- ==== Sys2Proof/Machine/RunAgree.lean ====
section
/-! DEFINITION. The run-start agreement, the start of the program and the end of a run (R317 to R320, R365, R366, R424). A RUN word
carries no sender, so READY, BOUND and DECLINE name it beside the word; every member relays each word of the agreement and repeats it once per
step, until the next OP (R340, R365). -/
namespace Sys2Proof.Machine

/-- A RUN word with a given OP for the batch in agreement (R340, R359, R365); another tag's is relayed or dropped. -/
def State.runIn (s : State) (q : Nat) (w : List Byte) (op : Nat) (f : List Byte → State → State) : State :=
  s.wordIn q w (some 5) none fun s =>
    let b := wordBody w
    if decide (s.run.phase ≠ .idle) && decide (wordTag w = s.runTag) then
      if leAt b 0 4 = s.run.runid.toNat ∧ leAt b 4 1 = op then f b s else s
    else s.foreignWord q w

/-- READY (R365, steps 1 and 2). -/
def execReady (q : PortId) (pos idx : Fin 64) (w : List Byte) (s : State) : Host.Outcome State Fault Refusal :=
  .next (s.runIn q.val w 1 fun b s =>
    if s.run.readys.any fun r => decide (r.pos = pos.val ∧ r.idx = idx.val) then s
    else
      let s1 := { s with run := { s.run with
        readys := s.run.readys ++ [Member.mk pos.val idx.val (leAt b 6 2) 0 ((b.drop 24).take 16)] } }
      (if s.run.phase = .ready then s1.sendRun b false else s1).readyCheck)

/-- FIX (R317, R365, step 3): the member has seen the OP after its READY and passes it on as its current word; it fixes B and binds, or waits
for B − 1,024, or declines. -/
def execFix (q : PortId) (w : List Byte) (s : State) : Host.Outcome State Fault Refusal :=
  .next (s.runIn q.val w 2 fun b s =>
    if s.run.phase = .ready then (s.sendRun b true).fixRun (leAt b 8 8) else s)

/-- BIND_AT (R317, R365, step 3): the Milestone has reached B − 1,024. -/
def execBindAt (s : State) : Host.Outcome State Fault Refusal :=
  .next (if s.run.phase = .fixed ∧ s.run.b ≤ s.ring.ms + 1024 then s.bindRun else s)

/-- BOUND (R365, step 4; R319). -/
def execBound (q : PortId) (pos idx : Fin 64) (w : List Byte) (s : State) : Host.Outcome State Fault Refusal :=
  .next (s.runIn q.val w 3 fun b s =>
    if s.run.bounds.any fun r => decide (r.pos = pos.val ∧ r.idx = idx.val) then s
    else
      let s1 := { s with run := { s.run with bounds := s.run.bounds ++ [Member.mk pos.val idx.val (leAt b 16 4) (leAt b 20 4) []] } }
      (s1.sendRun b false).boundCheck)

/-- GO (R365, steps 4 and 5). -/
def execGo (q : PortId) (w : List Byte) (s : State) : Host.Outcome State Fault Refusal :=
  .next (s.runIn q.val w 4 fun b s =>
    if s.run.phase = .bound then ({ s with run := { s.run with phase := .go } }).sendRun b true else s)

/-- DECLINE (R319, R366): the leader's completes RUN_BATCH with its STATUS, any other member's with DECLINED and that STATUS. -/
def execDecline (q : PortId) (pos idx : Fin 64) (w : List Byte) (s : State) : Host.Outcome State Fault Refusal :=
  .next (s.runIn q.val w 5 fun b s =>
    if s.run.phase = .running then s
    else
      let s1 := s.sendRun b true
      let st := leAt b 5 1
      if pos.val = 0 ∧ idx.val = 0 then s1.endAgreement st 0 b else s1.endAgreement 0x0E st b)

/-- RUN_TIMEOUT (R366): the leader has not collected every READY within 2^24 steps of the first. -/
def execRunTimeout (s : State) : Host.Outcome State Fault Refusal :=
  .next (if s.isLeader && decide (s.run.phase = .ready) && decide (s.run.firstReady + 2 ^ 24 ≤ s.ring.ms) then s.decline 0x0C else s)

/-- RUN_START (R151, R365, R366, R456): at Milestone B the program starts on every core, once the credits of the cores have returned; a member
without GO sends STOP. -/
def execRunStart (s : State) : Host.Outcome State Fault Refusal :=
  if s.ring.ms < s.run.b then .next s
  else match s.run.phase with
  | .go => match s.runImage with
    | some im => .next (if s.creditsBack then s.startRun im else s)
    | none => .next s
  | .fixed | .bound => .next (s.stopAll 0 s.myPos s.myIdx 0)
  | _ => .next s

/-- RUN_END (R229, R320, R424): every core has ended its program and sent its slots; pins are given back and RUN_BATCH completes.
A stopped run that no record accounts for completes after its 64 repeats of STOP. -/
def execRunEnd (s : State) : Host.Outcome State Fault Refusal :=
  if s.runHolds && s.coreList.all fun c => (s.core c).ended then
    .next ((s.unpinRun.jobEnded).finishRun 0 0 0 s.maxBeats)
  else if s.run.stopped && decide (s.run.stopLeft = 0) && !s.stopRecorded then .next s.completeStopped
  else .next s

end Sys2Proof.Machine
end

