-- ==== Sys2Proof/Machine/Vector.lean ====
section
/-! DEFINITION. The vector engine's instructions (R103 to R135): each is placed in the vector queue with its scalars; what it
computes, beat by beat, is `VeItem.readBeat` and `Core.applyOut` of Sys2Proof/Machine/VectorOps.lean. -/
namespace Sys2Proof.Machine

/-- VE.ALU (R111, R112). -/
def execVeAlu (c : CoreId) (h : Hdr) (fn : AluFn) (ty : Ty) (rnd : Rnd) (vd va : Tile16) (b : OpB) (n : CountSrc) (s : State) :
    Host.Outcome State Fault Refusal :=
  if (VeOp.alu fn ty rnd vd va b n).legal then .next (s.issueVe c.val h (.alu fn ty rnd vd va b n)) else .refused .reservedEncoding

/-- VE.FMA (R113). -/
def execVeFma (c : CoreId) (h : Hdr) (fn : FmaFn) (ty : Ty) (rnd : Rnd) (vd va : Tile16) (b : OpB) (n : CountSrc) (s : State) :
    Host.Outcome State Fault Refusal :=
  if (VeOp.fma fn ty rnd vd va b n).legal then .next (s.issueVe c.val h (.fma fn ty rnd vd va b n)) else .refused .reservedEncoding

/-- VE.UN (R114). -/
def execVeUn (c : CoreId) (h : Hdr) (fn : UnFn) (ty : Ty) (rnd : Rnd) (vd va : Tile16) (n : CountSrc) (s : State) :
    Host.Outcome State Fault Refusal :=
  if (VeOp.un fn ty rnd vd va n).legal then .next (s.issueVe c.val h (.un fn ty rnd vd va n)) else .refused .reservedEncoding

/-- VE.CMP (R115). -/
def execVeCmp (c : CoreId) (h : Hdr) (cond : Cond) (ty : Ty) (vd va : Tile16) (b : OpB) (n : CountSrc) (s : State) :
    Host.Outcome State Fault Refusal :=
  .next (s.issueVe c.val h (.cmp cond ty vd va b n))

/-- VE.SEL (R116). -/
def execVeSel (c : CoreId) (h : Hdr) (ty : Ty) (vd va vb mask : Tile16) (n : CountSrc) (s : State) :
    Host.Outcome State Fault Refusal :=
  .next (s.issueVe c.val h (.sel ty vd va vb mask n))

/-- VE.MOV COPY (R117). -/
def execVeCopy (c : CoreId) (h : Hdr) (ty : Ty) (vd va : Tile16) (n : CountSrc) (s : State) :
    Host.Outcome State Fault Refusal :=
  .next (s.issueVe c.val h (.copy ty vd va n))

/-- VE.MOV BCAST (R107, R117). -/
def execVeBcast (c : CoreId) (h : Hdr) (ty : Ty) (rnd : Rnd) (vd : Tile16) (b : OpB) (n : CountSrc) (s : State) :
    Host.Outcome State Fault Refusal :=
  if (VeOp.bcast ty rnd vd b n).legal then .next (s.issueVe c.val h (.bcast ty rnd vd b n)) else .refused .reservedEncoding

/-- VE.MOV IOTA (R117). -/
def execVeIota (c : CoreId) (h : Hdr) (ty : Ty) (vd : Tile16) (n : CountSrc) (s : State) :
    Host.Outcome State Fault Refusal :=
  if (VeOp.iota ty vd n).legal then .next (s.issueVe c.val h (.iota ty vd n)) else .refused .reservedEncoding

/-- VE.MOV GETS (R117). -/
def execVeGets (c : CoreId) (h : Hdr) (vd va : Tile16) (esc : Bool) (s : State) :
    Host.Outcome State Fault Refusal :=
  .next (s.issueVe c.val h (.gets vd va esc))

/-- VE.MOV PUTS (R117). -/
def execVePuts (c : CoreId) (h : Hdr) (vd va : Tile16) (esc : Bool) (s : State) :
    Host.Outcome State Fault Refusal :=
  .next (s.issueVe c.val h (.puts vd va esc))

/-- VE.LD (R118). -/
def execVeLd (c : CoreId) (h : Hdr) (ty : Ty) (vd : Tile16) (sb : Reg) (n : CountSrc) (s : State) :
    Host.Outcome State Fault Refusal :=
  .next (s.issueVe c.val h (.ld ty vd sb n))

/-- VE.ST (R118). -/
def execVeSt (c : CoreId) (h : Hdr) (ty : Ty) (va : Tile16) (sb : Reg) (n : CountSrc) (s : State) :
    Host.Outcome State Fault Refusal :=
  .next (s.issueVe c.val h (.st ty va sb n))

/-- VE.CVT (R119 to R122). -/
def execVeCvt (c : CoreId) (h : Hdr) (ty : Ty) (dst : CvtDst) (rnd : Rnd) (vd va : Tile16) (st : Reg) (n : CountSrc) (s : State) :
    Host.Outcome State Fault Refusal :=
  if (VeOp.cvt ty dst rnd vd va st n).legal then .next (s.issueVe c.val h (.cvt ty dst rnd vd va st n)) else .refused .reservedEncoding

/-- VE.RED (R133, R134). -/
def execVeRed (c : CoreId) (h : Hdr) (fn : RedFn) (ty : Ty) (vd va : Tile16) (seg : Option (Fin 13)) (n : CountSrc) (s : State) :
    Host.Outcome State Fault Refusal :=
  if (VeOp.red fn ty vd va seg n).legal then .next (s.issueVe c.val h (.red fn ty vd va seg n)) else .refused .reservedEncoding

/-- VE.TRED (R135). -/
def execVeTred (c : CoreId) (h : Hdr) (fn : TredFn) (col : Bool) (src : TredSrc) (vd va : Tile16) (s : State) :
    Host.Outcome State Fault Refusal :=
  .next (s.issueVe c.val h (.tred fn col src vd va))

/-- VE.CMPR (R123, R125). -/
def execVeCmpr (c : CoreId) (h : Hdr) (ty : Ty) (vd va vm : Tile16) (n : CountSrc) (s : State) :
    Host.Outcome State Fault Refusal :=
  .next (s.issueVe c.val h (.cmpr ty vd va vm n))

/-- VE.EXPD (R124, R125). -/
def execVeExpd (c : CoreId) (h : Hdr) (ty : Ty) (vd va vm : Tile16) (n : CountSrc) (s : State) :
    Host.Outcome State Fault Refusal :=
  .next (s.issueVe c.val h (.expd ty vd va vm n))

end Sys2Proof.Machine
end

