-- ==== Sys2Proof/Machine/Dispatch.lean ====
section
/-! DEFINITION. One arm per command: its meaning, on the state apart from the queue. -/
namespace Sys2Proof.Machine

/-- The effect of a command on everything but the queue. -/
def exec (i : Instr) (s : State) : Host.Outcome State Fault Refusal :=
  match i with
  | .ccNop c h => Sys2Proof.Machine.execCcNop c h s
  | .ccAdd c h rd ra rb => Sys2Proof.Machine.execCcAdd c h rd ra rb s
  | .ccSub c h rd ra rb => Sys2Proof.Machine.execCcSub c h rd ra rb s
  | .ccMul c h rd ra rb => Sys2Proof.Machine.execCcMul c h rd ra rb s
  | .ccAnd c h rd ra rb => Sys2Proof.Machine.execCcAnd c h rd ra rb s
  | .ccOr c h rd ra rb => Sys2Proof.Machine.execCcOr c h rd ra rb s
  | .ccXor c h rd ra rb => Sys2Proof.Machine.execCcXor c h rd ra rb s
  | .ccShl c h rd ra rb => Sys2Proof.Machine.execCcShl c h rd ra rb s
  | .ccShr c h rd ra rb => Sys2Proof.Machine.execCcShr c h rd ra rb s
  | .ccSar c h rd ra rb => Sys2Proof.Machine.execCcSar c h rd ra rb s
  | .ccMin c h rd ra rb => Sys2Proof.Machine.execCcMin c h rd ra rb s
  | .ccMax c h rd ra rb => Sys2Proof.Machine.execCcMax c h rd ra rb s
  | .ccSlt c h rd ra rb => Sys2Proof.Machine.execCcSlt c h rd ra rb s
  | .ccSltu c h rd ra rb => Sys2Proof.Machine.execCcSltu c h rd ra rb s
  | .ccAddi c h rd ra imm => Sys2Proof.Machine.execCcAddi c h rd ra imm s
  | .ccAndi c h rd ra imm => Sys2Proof.Machine.execCcAndi c h rd ra imm s
  | .ccOri c h rd ra imm => Sys2Proof.Machine.execCcOri c h rd ra imm s
  | .ccXori c h rd ra imm => Sys2Proof.Machine.execCcXori c h rd ra imm s
  | .ccShli c h rd ra imm => Sys2Proof.Machine.execCcShli c h rd ra imm s
  | .ccShri c h rd ra imm => Sys2Proof.Machine.execCcShri c h rd ra imm s
  | .ccSari c h rd ra imm => Sys2Proof.Machine.execCcSari c h rd ra imm s
  | .ccLi c h rd imm => Sys2Proof.Machine.execCcLi c h rd imm s
  | .ccLih c h rd imm => Sys2Proof.Machine.execCcLih c h rd imm s
  | .ccBeq c h ra rb off => Sys2Proof.Machine.execCcBeq c h ra rb off s
  | .ccBne c h ra rb off => Sys2Proof.Machine.execCcBne c h ra rb off s
  | .ccBlt c h ra rb off => Sys2Proof.Machine.execCcBlt c h ra rb off s
  | .ccBge c h ra rb off => Sys2Proof.Machine.execCcBge c h ra rb off s
  | .ccBltu c h ra rb off => Sys2Proof.Machine.execCcBltu c h ra rb off s
  | .ccBgeu c h ra rb off => Sys2Proof.Machine.execCcBgeu c h ra rb off s
  | .ccJmp c h off => Sys2Proof.Machine.execCcJmp c h off s
  | .ccLd c h rd ra imm => Sys2Proof.Machine.execCcLd c h rd ra imm s
  | .ccSt c h rd ra imm => Sys2Proof.Machine.execCcSt c h rd ra imm s
  | .ccRds c h rd sel => Sys2Proof.Machine.execCcRds c h rd sel s
  | .ccRdsc c h rd sel => Sys2Proof.Machine.execCcRdsc c h rd sel s
  | .ccHalt c h => Sys2Proof.Machine.execCcHalt c h s
  | .ccParrive c h p => Sys2Proof.Machine.execCcParrive c h p s
  | .ccPenter c h p => Sys2Proof.Machine.execCcPenter c h p s
  | .ccPwait c h p => Sys2Proof.Machine.execCcPwait c h p s
  | .ccPlevel c h wn d now level => Sys2Proof.Machine.execCcPlevel c h wn d now level s
  | .releaseNotice c p => Sys2Proof.Machine.execReleaseNotice c p s
  | .ringPassReport m => Sys2Proof.Machine.execRingPassReport m s
  | .mmLw c h ts ls => Sys2Proof.Machine.execMmLw c h ts ls s
  | .fillStart c => Sys2Proof.Machine.execFillStart c s
  | .heldWritesRelease c => Sys2Proof.Machine.execHeldWritesRelease c s
  | .fillVerdict c => Sys2Proof.Machine.execFillVerdict c s
  | .mmB16 c h a => Sys2Proof.Machine.execMmB16 c h a s
  | .mmF8 c h wf opf a => Sys2Proof.Machine.execMmF8 c h wf opf a s
  | .mmF4 c h a => Sys2Proof.Machine.execMmF4 c h a s
  | .mmF4e c h a => Sys2Proof.Machine.execMmF4e c h a s
  | .mmN3 c h a => Sys2Proof.Machine.execMmN3 c h a s
  | .mmN2 c h ternary a => Sys2Proof.Machine.execMmN2 c h ternary a s
  | .mmRd c h acc col td df rnd st => Sys2Proof.Machine.execMmRd c h acc col td df rnd st s
  | .mmLa c h acc col ts => Sys2Proof.Machine.execMmLa c h acc col ts s
  | .veAlu c h fn ty rnd vd va b n => Sys2Proof.Machine.execVeAlu c h fn ty rnd vd va b n s
  | .veFma c h fn ty rnd vd va b n => Sys2Proof.Machine.execVeFma c h fn ty rnd vd va b n s
  | .veUn c h fn ty rnd vd va n => Sys2Proof.Machine.execVeUn c h fn ty rnd vd va n s
  | .veCmp c h cond ty vd va b n => Sys2Proof.Machine.execVeCmp c h cond ty vd va b n s
  | .veSel c h ty vd va vb mask n => Sys2Proof.Machine.execVeSel c h ty vd va vb mask n s
  | .veCopy c h ty vd va n => Sys2Proof.Machine.execVeCopy c h ty vd va n s
  | .veBcast c h ty rnd vd b n => Sys2Proof.Machine.execVeBcast c h ty rnd vd b n s
  | .veIota c h ty vd n => Sys2Proof.Machine.execVeIota c h ty vd n s
  | .veGets c h vd va esc => Sys2Proof.Machine.execVeGets c h vd va esc s
  | .vePuts c h vd va esc => Sys2Proof.Machine.execVePuts c h vd va esc s
  | .veLd c h ty vd sb n => Sys2Proof.Machine.execVeLd c h ty vd sb n s
  | .veSt c h ty va sb n => Sys2Proof.Machine.execVeSt c h ty va sb n s
  | .veCvt c h ty dst rnd vd va st n => Sys2Proof.Machine.execVeCvt c h ty dst rnd vd va st n s
  | .veRed c h fn ty vd va seg n => Sys2Proof.Machine.execVeRed c h fn ty vd va seg n s
  | .veTred c h fn col src vd va => Sys2Proof.Machine.execVeTred c h fn col src vd va s
  | .veCmpr c h ty vd va vm n => Sys2Proof.Machine.execVeCmpr c h ty vd va vm n s
  | .veExpd c h ty vd va vm n => Sys2Proof.Machine.execVeExpd c h ty vd va vm n s
  | .stArm c h ch sh sa => Sys2Proof.Machine.execStArm c h ch sh sa s
  | .stTail c h ch n => Sys2Proof.Machine.execStTail c h ch n s
  | .stHead c h ch n => Sys2Proof.Machine.execStHead c h ch n s
  | .stCancel c h ch => Sys2Proof.Machine.execStCancel c h ch s
  | .slotFillStart c ch => Sys2Proof.Machine.execSlotFillStart c ch s
  | .slotFillComplete c ch => Sys2Proof.Machine.execSlotFillComplete c ch s
  | .staleFillAbsorbed c ch => Sys2Proof.Machine.execStaleFillAbsorbed c ch s
  | .outboundSlotSent c o => Sys2Proof.Machine.execOutboundSlotSent c o s
  | .coreResume c ns => Sys2Proof.Machine.execCoreResume c ns s
  | .programEnd c => Sys2Proof.Machine.execProgramEnd c s
  | .waymarkDeadlock c => Sys2Proof.Machine.execWaymarkDeadlock c s
  | .wymSignal v rid => Sys2Proof.Machine.execWymSignal v rid s
  | .wymDbgfence v rid => Sys2Proof.Machine.execWymDbgfence v rid s
  | .debugFenceDone => Sys2Proof.Machine.execDebugFenceDone s
  | .wymValWrite n v rid => Sys2Proof.Machine.execWymValWrite n v rid s
  | .scalarDebugWrite n hi v rid => Sys2Proof.Machine.execScalarDebugWrite n hi v rid s
  | .scheduleOverrun => Sys2Proof.Machine.execScheduleOverrun s
  | .gateMiss p => Sys2Proof.Machine.execGateMiss p s
  | .lndStepAdvance p => Sys2Proof.Machine.execLndStepAdvance p s
  | .milestoneAdvance => Sys2Proof.Machine.execMilestoneAdvance s
  | .inject r ready => Sys2Proof.Machine.execInject r ready s
  | .send r => Sys2Proof.Machine.execSend r s
  | .parcelArrival q bytes => Sys2Proof.Machine.execParcelArrival q bytes s
  | .recvfForward r => Sys2Proof.Machine.execRecvfForward r s
  | .forwardSlotLost r => Sys2Proof.Machine.execForwardSlotLost r s
  | .stepTimeout r => Sys2Proof.Machine.execStepTimeout r s
  | .detourArrival q bytes => Sys2Proof.Machine.execDetourArrival q bytes s
  | .detourSend tag => Sys2Proof.Machine.execDetourSend tag s
  | .timeWordReceived q pos frac w => Sys2Proof.Machine.execTimeWordReceived q pos frac w s
  | .milestoneSteer => Sys2Proof.Machine.execMilestoneSteer s
  | .identReceived q w => Sys2Proof.Machine.execIdentReceived q w s
  | .cableRead q mem => Sys2Proof.Machine.execCableRead q mem s
  | .portAlign q lanes good peerMs => Sys2Proof.Machine.execPortAlign q lanes good peerMs s
  | .trainTimeout q => Sys2Proof.Machine.execTrainTimeout q s
  | .trainRetry q => Sys2Proof.Machine.execTrainRetry q s
  | .linkLost q lost => Sys2Proof.Machine.execLinkLost q lost s
  | .missingNeighbour q => Sys2Proof.Machine.execMissingNeighbour q s
  | .passWordReceived q w => Sys2Proof.Machine.execPassWordReceived q w s
  | .stopReceived q w => Sys2Proof.Machine.execStopReceived q w s
  | .msgReceived q w => Sys2Proof.Machine.execMsgReceived q w s
  | .transferStall => Sys2Proof.Machine.execTransferStall s
  | .ready q pos idx w => Sys2Proof.Machine.execReady q pos idx w s
  | .fix q w => Sys2Proof.Machine.execFix q w s
  | .bindAt => Sys2Proof.Machine.execBindAt s
  | .bound q pos idx w => Sys2Proof.Machine.execBound q pos idx w s
  | .go q w => Sys2Proof.Machine.execGo q w s
  | .decline q pos idx w => Sys2Proof.Machine.execDecline q pos idx w s
  | .runTimeout => Sys2Proof.Machine.execRunTimeout s
  | .runStart => Sys2Proof.Machine.execRunStart s
  | .runEnd => Sys2Proof.Machine.execRunEnd s
  | .editionSwitch x => Sys2Proof.Machine.execEditionSwitch x s
  | .scrubRotation => Sys2Proof.Machine.execScrubRotation s
  | .scrubDigestDone => Sys2Proof.Machine.execScrubDigestDone s
  | .redigestDone => Sys2Proof.Machine.execRedigestDone s
  | .doorbell m v => Sys2Proof.Machine.execDoorbell m v s
  | .mbxRheadWrite m v => Sys2Proof.Machine.execMbxRheadWrite m v s
  | .mbxNheadWrite m v => Sys2Proof.Machine.execMbxNheadWrite m v s
  | .mailboxEntryWrite m off w => Sys2Proof.Machine.execMailboxEntryWrite m off w s
  | .status m => Sys2Proof.Machine.execStatus m s
  | .openContext m => Sys2Proof.Machine.execOpenContext m s
  | .closeContext m => Sys2Proof.Machine.execCloseContext m s
  | .loadImage m => Sys2Proof.Machine.execLoadImage m s
  | .unloadImage m => Sys2Proof.Machine.execUnloadImage m s
  | .bind m => Sys2Proof.Machine.execBind m s
  | .unbind m => Sys2Proof.Machine.execUnbind m s
  | .loadEdition m => Sys2Proof.Machine.execLoadEdition m s
  | .publish m => Sys2Proof.Machine.execPublish m s
  | .unpublish m => Sys2Proof.Machine.execUnpublish m s
  | .unloadEdition m => Sys2Proof.Machine.execUnloadEdition m s
  | .runBatch m => Sys2Proof.Machine.execRunBatch m s
  | .stopRun m => Sys2Proof.Machine.execStopRun m s
  | .dma m => Sys2Proof.Machine.execDma m s
  | .setWindow m => Sys2Proof.Machine.execSetWindow m s
  | .setStrict m => Sys2Proof.Machine.execSetStrict m s
  | .armMailbox m => Sys2Proof.Machine.execArmMailbox m s
  | .disarmMailbox m => Sys2Proof.Machine.execDisarmMailbox m s
  | .setPolicy m => Sys2Proof.Machine.execSetPolicy m s
  | .debugMap m => Sys2Proof.Machine.execDebugMap m s
  | .debugUnmap m => Sys2Proof.Machine.execDebugUnmap m s
  | .coreHalt m => Sys2Proof.Machine.execCoreHalt m s
  | .coreReset m => Sys2Proof.Machine.execCoreReset m s
  | .clusterReset m => Sys2Proof.Machine.execClusterReset m s
  | .partitionReset m => Sys2Proof.Machine.execPartitionReset m s
  | .resetComplete u => Sys2Proof.Machine.execResetComplete u s
  | .staleResponseAbsorbed u => Sys2Proof.Machine.execStaleResponseAbsorbed u s
  | .rawXfer m => Sys2Proof.Machine.execRawXfer m s
  | .rawDesc m => Sys2Proof.Machine.execRawDesc m s
  | .unlockDebug m => Sys2Proof.Machine.execUnlockDebug m s
  | .commitSpares m => Sys2Proof.Machine.execCommitSpares m s
  | .regenIdentity m => Sys2Proof.Machine.execRegenIdentity m s
  | .presencePress => Sys2Proof.Machine.execPresencePress s
  | .presenceTimeout => Sys2Proof.Machine.execPresenceTimeout s
  | .presenceStuck => Sys2Proof.Machine.execPresenceStuck s
  | .presenceRelease => Sys2Proof.Machine.execPresenceRelease s
  | .sealOpen => Sys2Proof.Machine.execSealOpen s
  | .bar2Access a => Sys2Proof.Machine.execBar2Access a s
  | .debugWindowAccess a rid => Sys2Proof.Machine.execDebugWindowAccess a rid s
  | .malformedTlp k off rid => Sys2Proof.Machine.execMalformedTlp k off rid s
  | .registerWrite off w => Sys2Proof.Machine.execRegisterWrite off w s
  | .errsumClear v => Sys2Proof.Machine.execErrsumClear v s
  | .digScrubcfgWrite v => Sys2Proof.Machine.execDigScrubcfgWrite v s
  | .glbPwrctlWrite v => Sys2Proof.Machine.execGlbPwrctlWrite v s
  | .attestationGo v => Sys2Proof.Machine.execAttestationGo v s
  | .attestationReport smc => Sys2Proof.Machine.execAttestationReport smc s
  | .identityReserve ok => Sys2Proof.Machine.execIdentityReserve ok s
  | .treeBuildDone => Sys2Proof.Machine.execTreeBuildDone s
  | .fwLoadGo v => Sys2Proof.Machine.execFwLoadGo v s
  | .firmwareVerified img => Sys2Proof.Machine.execFirmwareVerified img s
  | .coldPath t => Sys2Proof.Machine.execColdPath t s
  | .startupRetest t => Sys2Proof.Machine.execStartupRetest t s
  | .warmPath lpdFailed => Sys2Proof.Machine.execWarmPath lpdFailed s
  | .powerGood st rom => Sys2Proof.Machine.execPowerGood st rom s
  | .powerGoodDrop => Sys2Proof.Machine.execPowerGoodDrop s
  | .perstAssert st => Sys2Proof.Machine.execPerstAssert st s
  | .perstDeassert rom => Sys2Proof.Machine.execPerstDeassert rom s
  | .functionLevelReset st rom => Sys2Proof.Machine.execFunctionLevelReset st rom s
  | .hotReset st rom => Sys2Proof.Machine.execHotReset st rom s
  | .moduleReset st rom => Sys2Proof.Machine.execModuleReset st rom s
  | .watchdog st rom => Sys2Proof.Machine.execWatchdog st rom s
  | .junctionSample x => Sys2Proof.Machine.execJunctionSample x s
  | .vcoreStep => Sys2Proof.Machine.execVcoreStep s
  | .powerFloor => Sys2Proof.Machine.execPowerFloor s
  | .thermalFloor q => Sys2Proof.Machine.execThermalFloor q s
  | .wearSample margins => Sys2Proof.Machine.execWearSample margins s
  | .lpddrLinkError n off chan corrected => Sys2Proof.Machine.execLpddrLinkError n off chan corrected s
  | .eventRaise e => Sys2Proof.Machine.execEventRaise e s
  | .recordHandling => Sys2Proof.Machine.execRecordHandling s
  | .persistentLogWrite => Sys2Proof.Machine.execPersistentLogWrite s
  | .smcHalt tag => Sys2Proof.Machine.execSmcHalt tag s
  | .smcReset tag st rom => Sys2Proof.Machine.execSmcReset tag st rom s
  | .smcAttestationRequest tag nonce ctx => Sys2Proof.Machine.execSmcAttestationRequest tag nonce ctx s
  | .cablingPlan tag plan => Sys2Proof.Machine.execCablingPlan tag plan s
  | .coordinateMessage tag ringlen rings pos idx => Sys2Proof.Machine.execCoordinateMessage tag ringlen rings pos idx s
  | .routingEntryWrite tag slice entry => Sys2Proof.Machine.execRoutingEntryWrite tag slice entry s
  | .telemetryRequest tag => Sys2Proof.Machine.execTelemetryRequest tag s
  | .smcPowerLimit tag limit => Sys2Proof.Machine.execSmcPowerLimit tag limit s
  | .setEndpointId eid => Sys2Proof.Machine.execSetEndpointId eid s
  | .getEndpointId => Sys2Proof.Machine.execGetEndpointId s
  | .getMctpVersionSupport msgType => Sys2Proof.Machine.execGetMctpVersionSupport msgType s
  | .getMessageTypeSupport => Sys2Proof.Machine.execGetMessageTypeSupport s
  | .getVendorDefinedMessageSupport sel => Sys2Proof.Machine.execGetVendorDefinedMessageSupport sel s
  | .instructionCompletion c u => Sys2Proof.Machine.execInstructionCompletion c u s
  | .loadDigestDone => Sys2Proof.Machine.execLoadDigestDone s
  | .dmaTransferDone r => Sys2Proof.Machine.execDmaTransferDone r s
  | .testAccessPortInstruction basic => Sys2Proof.Machine.execTestAccessPortInstruction basic s
  | .smcMessageSent => Sys2Proof.Machine.execSmcMessageSent s

end Sys2Proof.Machine
end

