-- ==== Sys2Proof/Safety.lean ====
section
/-! DEFINITION. The terms in which the claims speak: when a core issues, when a mailbox command is accepted, what an instruction's result
does to a core, and the invariants of the module. -/
namespace Sys2Proof

/-- The core, the header, the operation and the scalars of a control-core instruction (R143, R148). -/
def Instr.ccForm : Instr → Option (CoreId × Hdr × CcOp × List Reg)
  | .ccNop c h => some (c, h, .nop, [])
  | .ccHalt c h => some (c, h, .halt, [])
  | .ccAdd c h rd ra rb => some (c, h, .add rd ra rb, [rd, ra, rb])
  | .ccSub c h rd ra rb => some (c, h, .sub rd ra rb, [rd, ra, rb])
  | .ccMul c h rd ra rb => some (c, h, .mul rd ra rb, [rd, ra, rb])
  | .ccAnd c h rd ra rb => some (c, h, .and rd ra rb, [rd, ra, rb])
  | .ccOr c h rd ra rb => some (c, h, .or rd ra rb, [rd, ra, rb])
  | .ccXor c h rd ra rb => some (c, h, .xor rd ra rb, [rd, ra, rb])
  | .ccShl c h rd ra rb => some (c, h, .shl rd ra rb, [rd, ra, rb])
  | .ccShr c h rd ra rb => some (c, h, .shr rd ra rb, [rd, ra, rb])
  | .ccSar c h rd ra rb => some (c, h, .sar rd ra rb, [rd, ra, rb])
  | .ccMin c h rd ra rb => some (c, h, .min rd ra rb, [rd, ra, rb])
  | .ccMax c h rd ra rb => some (c, h, .max rd ra rb, [rd, ra, rb])
  | .ccSlt c h rd ra rb => some (c, h, .slt rd ra rb, [rd, ra, rb])
  | .ccSltu c h rd ra rb => some (c, h, .sltu rd ra rb, [rd, ra, rb])
  | .ccAddi c h rd ra imm => some (c, h, .addi rd ra imm, [rd, ra])
  | .ccAndi c h rd ra imm => some (c, h, .andi rd ra imm, [rd, ra])
  | .ccOri c h rd ra imm => some (c, h, .ori rd ra imm, [rd, ra])
  | .ccXori c h rd ra imm => some (c, h, .xori rd ra imm, [rd, ra])
  | .ccShli c h rd ra imm => some (c, h, .shli rd ra imm, [rd, ra])
  | .ccShri c h rd ra imm => some (c, h, .shri rd ra imm, [rd, ra])
  | .ccSari c h rd ra imm => some (c, h, .sari rd ra imm, [rd, ra])
  | .ccLi c h rd x => some (c, h, .li rd x, [rd])
  | .ccLih c h rd x => some (c, h, .lih rd x, [rd])
  | .ccBeq c h ra rb off => some (c, h, .beq ra rb off, [ra, rb])
  | .ccBne c h ra rb off => some (c, h, .bne ra rb off, [ra, rb])
  | .ccBlt c h ra rb off => some (c, h, .blt ra rb off, [ra, rb])
  | .ccBge c h ra rb off => some (c, h, .bge ra rb off, [ra, rb])
  | .ccBltu c h ra rb off => some (c, h, .bltu ra rb off, [ra, rb])
  | .ccBgeu c h ra rb off => some (c, h, .bgeu ra rb off, [ra, rb])
  | .ccJmp c h off => some (c, h, .jmp off, [])
  | .ccLd c h rd ra imm => some (c, h, .ld rd ra imm, [rd, ra])
  | .ccSt c h rd ra imm => some (c, h, .st rd ra imm, [rd, ra])
  | .ccRds c h rd sel => some (c, h, .rds rd sel, [rd])
  | .ccRdsc c h rd sel => some (c, h, .rdsc rd sel, [rd])
  | .ccParrive c h p => some (c, h, .parrive p, [])
  | .ccPenter c h p => some (c, h, .penter p, [])
  | .ccPwait c h p => some (c, h, .pwait p, [])
  | .ccPlevel c h wn d now level => some (c, h, .plevel wn d now level, [])
  | _ => none

end Sys2Proof

namespace Sys2Proof.Machine

/-- The outcome is a next state. -/
def Completes (o : Host.Outcome State Fault Refusal) : Prop := ∃ t, o = .next t

/-! ### Exact values -/

/-- Whether a value is finite. -/
def Num.isFin : Num → Bool
  | .fin _ _ _ => true
  | _ => false

/-- A finite value as a rational. -/
def Num.val : Num → ℚ
  | .fin neg m e => (if neg then -1 else 1) * (m : ℚ) * 2 ^ e
  | _ => 0

/-! ### Issue -/

/-- A control-core instruction issues (R138, R147, R148, R248): the core runs, its word at PC is the instruction's, the scalars `regs` are
available, and the wait that the header names holds. Then the issue beat, and the state brought forward to it with the wait taken. -/
def State.issueAt (s : State) (c : Nat) (op : CcOp) (h : Hdr) (regs : List Reg) : Option (State × Nat) :=
  if (s.core c).atInstr (.cc op) h then
    match s.toWait 4 c h ((s.core c).issueBeat regs) with
    | (_, none) => none
    | (s1, some b) =>
      if (s1.core c).engLive && ((s1.settle c b).core c).engLive then some ((s1.settle c b).modCore c fun k => k.takeHdr h b, b) else none
  else none

/-- An engine instruction is placed (R148, R149): as `State.issueAt`, in the first beat in which its queue, `len` long, has a place. Its wait holds it
in the queue. -/
def State.placeAt (s : State) (c : Nat) (op : AnyOp) (h : Hdr) (regs : List Reg) (len : Core → Nat) : Option (State × Nat) :=
  if (s.core c).atInstr op h then
    let b := (s.core c).issueBeat regs
    let s1 := s.sync c (b - 1)
    let s2 := if len (s1.core c) < 32 then s1 else s1.pump c b
    match (s2.core c).roomAt op.eng (len (s2.core c)) b with
    | none => none
    | some t => if (s2.core c).engLive && ((s2.settle c t).core c).engLive then some (s2.settle c t, t) else none
  else none

/-- A core after an instruction that gives RD the value v in one beat (R140, R148): s0 drops it, PC and the beat go on by one, and the
Waymark that the header names is signalled in the next beat. -/
def Core.withResult (k : Core) (rd : Reg) (v : Word64) (h : Hdr) (b : Nat) : Core :=
  { k with
    scal := if rd.val = 0 then k.scal else sset 0 k.scal rd.val v
    pc := k.pc + 1, beat := b + 1
    pendSig := k.pendSig ++ (match h.s with
      | some n => [⟨b + 1, n, 0, k.pc⟩]
      | none => []) }

/-- A core after an instruction whose result v is available `lat` beats later (R148); for s0 the completion beat alone is kept (R251). -/
def Core.withLate (k : Core) (rd : Reg) (v : Word64) (h : Hdr) (b lat : Nat) : Core :=
  { k with
    pendRes := k.pendRes ++ [(b + lat, rd, v)]
    avail := sset 0 k.avail (if rd.val = 0 then noScalar else rd.val) (b + lat)
    pc := k.pc + 1, beat := b + 1
    pendSig := k.pendSig ++ (match h.s with
      | some n => [⟨b + lat, n, 0, k.pc⟩]
      | none => []) }

/-- A core after an engine instruction has been placed: PC, the beat and the sequence number go on by one, and the dispatches of
earlier beats no longer count. -/
def Core.placed (k : Core) (b : Nat) : Core :=
  { k with pc := k.pc + 1, beat := b + 1, seq := k.seq + 1, disps := k.disps.filter fun x => decide (b < x.2) }

/-- The instruction i computes RD in one beat, and changes nothing else of the module. -/
def Computes (i : Instr) (c : Nat) (op : CcOp) (h : Hdr) (rd : Reg) (srcs : List Reg) (v : Core → Word64) : Prop :=
  ∀ s u b, s.issueAt c op h (rd :: srcs) = some (u, b) → exec i s = .next (u.modCore c fun k => k.withResult rd (v k) h b)

/-- The instruction i gives RD a value `lat` beats later. -/
def ComputesLate (i : Instr) (c : Nat) (op : CcOp) (h : Hdr) (rd : Reg) (srcs : List Reg) (lat : Nat) (v : Core → Word64) : Prop :=
  ∀ s u b, s.issueAt c op h (rd :: srcs) = some (u, b) → exec i s = .next (u.modCore c fun k => k.withLate rd (v k) h b lat)

/-- The instruction i branches by OFF when its condition holds (R144, R145): then PC + OFF and two beats, else the next instruction and
one beat; it signals in its issue beat. -/
def Branches (i : Instr) (c : Nat) (op : CcOp) (h : Hdr) (srcs : List Reg) (off : BitVec 29) (cond : Core → Prop) : Prop :=
  ∀ s u b, s.issueAt c op h srcs = some (u, b) →
    (cond (u.core c) → exec i s = .next
      ((u.modCore c fun k => { k with pc := k.pc + off.truncate 15, beat := b + 2 }).signalHdr c h 0 (u.core c).pc b))
    ∧ (¬ cond (u.core c) → exec i s = .next
      ((u.modCore c fun k => { k with pc := k.pc + 1, beat := b + 1 }).signalHdr c h 0 (u.core c).pc b))

/-- The instruction i is placed in the matrix queue with the values of the scalars that it names (R149). -/
def QueuesMm (i : Instr) (c : Nat) (op : MmOp) (h : Hdr) (regs : List Reg) (va vb : Core → Word64) : Prop :=
  ∀ s u b, s.placeAt c (.mm op) h regs (·.mq.length) = some (u, b) →
    exec i s = .next (u.modCore c fun k => { k.placed b with mq := k.mq ++ [⟨k.seq, k.pc, h, op, va k, vb k, b⟩] })

/-- The instruction i is placed in the vector queue with its scalar operand and its count (R101, R149). -/
def QueuesVe (i : Instr) (c : Nat) (op : VeOp) (h : Hdr) : Prop :=
  ∀ s u b, s.placeAt c (.ve op) h (veRegList op) (·.vq.length) = some (u, b) →
    exec i s = .next (u.modCore c fun k => { k.placed b with vq := k.vq ++ [⟨k.seq, k.pc, h, op,
      (match op.reg with
        | some r => k.sc r
        | none => 0),
      (match op.count with
        | some (.scalar r) => k.sc r
        | _ => 0), b⟩] })

/-- The instruction i is placed in the stream queue with the scalar that it names (R149, R230). -/
def QueuesSt (i : Instr) (c : Nat) (op : StOp) (h : Hdr) (regs : List Reg) (v : Core → Word64) : Prop :=
  ∀ s u b, s.placeAt c (.st op) h regs (·.sq.length) = some (u, b) →
    exec i s = .next (u.modCore c fun k => { k.placed b with sq := k.sq ++ [⟨k.seq, k.pc, h, op, v k, b⟩] })

/-! ### Control words -/

/-- A control word of TYPE `type` arrives on a port that takes it (R340, R341). -/
def State.wordArrives (s : State) (q : PortId) (w : List Byte) (type : Nat) : Prop :=
  (s.port q.val).trained = true ∧ wordOk w = true ∧ wordType w = type ∧ (2 ≤ type → (s.port q.val).st = .ready)

/-- The module after it has taken a control word at a step fraction: its own words name the word's SEQ and arrival from then on (R338, R343). -/
def State.heardAt (s : State) (q : PortId) (w : List Byte) (frac : Nat) : State :=
  s.modPort q.val fun p => p.hear (s.ring.ms * 65536 + frac) (byteAt w 5)

/-- The same, at a fraction that the command does not give: a free value. -/
def State.heard (s : State) (q : PortId) (w : List Byte) : State :=
  ({ s with free := s.free + 1 }).heardAt q w ((Config.freeWord64 s.free).toNat % 65536)

/-- A RUN word with OP `op` for the batch in agreement (R365). -/
def State.runArrives (s : State) (q : PortId) (w : List Byte) (op : Nat) : Prop :=
  s.wordArrives q w 5 ∧ s.run.phase ≠ .idle ∧ wordTag w = s.runTag ∧ leAt (wordBody w) 0 4 = s.run.runid.toNat
    ∧ leAt (wordBody w) 4 1 = op

/-! ### Commands of a mailbox -/

/-- The command at CHEAD of mailbox m starts (R416, R417, R423): READY, no module halt unless it is STATUS, the mailbox's turn; the entry
spells OPC `opc`, holds the permission and level `need`, and its fields are in order; the arguments beyond `named` are zero. -/
def State.starts (s : State) (m : MbxId) (opc : Nat) (need : Need) (named : List (Nat × Nat)) (j : Job) : Prop :=
  s.boot.ready = true ∧ (s.boot.halt = false ∨ opc = 1) ∧ s.nextServed = some m.val
    ∧ j = parseJob m ((s.mbox m.val).entry (s.mbox m.val).chead.toNat)
    ∧ j.opc.toNat = opc ∧ s.permission ⟨opc, need, named, noArgs⟩ j = 0
    ∧ Cmd.entryOk ⟨opc, need, named, noArgs⟩ ((s.mbox m.val).entry (s.mbox m.val).chead.toNat) j = true

/-- The same, and the context that the entry names is open. -/
def State.startsOpen (s : State) (m : MbxId) (opc : Nat) (named : List (Nat × Nat)) (j : Job) : Prop :=
  s.starts m opc .context named j ∧ (s.ctx j.ctx.toNat).opened = true

/-- What a row of the mailbox commands asks of the entry that it takes (R411, R422, R425, R426): its mailbox, its OPC with the need and the
arguments, and, where one OPC stands for several rows, which entries are its own. -/
def mailboxCmd : Instr → Option (MbxId × Cmd × (List Byte → Bool))
  | .status m => some (m, ⟨0x0001, .plain, [], noArgs⟩, anyArgs)
  | .openContext m => some (m, ⟨0x0002, .context, [(0, 20)], fun a => decide (1 ≤ leAt a 0 4) && decide (leAt a 0 4 ≤ 4)⟩, anyArgs)
  | .closeContext m => some (m, ⟨0x0003, .context, [], noArgs⟩, anyArgs)
  | .loadImage m => some (m, ⟨0x0010, .context, [(0, 32)], noArgs⟩, anyArgs)
  | .unloadImage m => some (m, ⟨0x0011, .context, [], noArgs⟩, anyArgs)
  | .bind m => some (m, ⟨0x0012, .context, [(0, 2)], noArgs⟩, anyArgs)
  | .unbind m => some (m, ⟨0x0013, .context, [], noArgs⟩, anyArgs)
  | .loadEdition m => some (m, ⟨0x0020, .context, [(0, 6)], fun a => decide (leAt a 1 1 ≤ 1) && (decide (leAt a 1 1 = 0)
      || (decide (leAt a 2 1 < 64) && decide (leAt a 3 1 < 64) && decide (leAt a 4 1 < 64) && decide (leAt a 5 1 < 4)))⟩, anyArgs)
  | .publish m => some (m, ⟨0x0021, .context, [(0, 2), (8, 8)], fun a => decide (leAt a 1 1 < 4)⟩, anyArgs)
  | .unpublish m => some (m, ⟨0x0022, .context, [(0, 1)], noArgs⟩, anyArgs)
  | .unloadEdition m => some (m, ⟨0x0023, .context, [(0, 1)], noArgs⟩, anyArgs)
  | .runBatch m => some (m, ⟨0x0030, .context, [(0, 5)], fun a => decide (leAt a 0 4 ≠ 0)
      && (decide (leAt a 4 1 < 64) || decide (leAt a 4 1 = 0xFF))⟩, anyArgs)
  | .stopRun m => some (m, ⟨0x0031, .context, [(0, 4)], noArgs⟩, anyArgs)
  | .dma m => some (m, ⟨0x0040, .context, [(0, 1), (8, 24)], fun a => decide (leAt a 0 1 ≤ 1) && decide (leAt a 0x18 8 % 64 = 0)
      && decide (leAt a 0x18 8 ≤ 2 ^ 36)⟩, anyArgs)
  | .setWindow m => some (m, ⟨0x0041, .context, [(0, 2)], fun a => decide (leAt a 0 2 + 64 ≤ 1072)⟩, anyArgs)
  | .setStrict m => some (m, ⟨0x0050, .admin, [], noArgs⟩, anyArgs)
  | .armMailbox m => some (m, ⟨0x0060, .admin, [(0, 2), (8, 8)], fun a => decide (1 ≤ leAt a 0 1) && decide (leAt a 0 1 ≤ 15)
      && decide (leAt a 1 1 ≤ 1)⟩, anyArgs)
  | .disarmMailbox m => some (m, ⟨0x0061, .admin, [(0, 1)], fun a => decide (1 ≤ leAt a 0 1) && decide (leAt a 0 1 ≤ 15)⟩, anyArgs)
  | .setPolicy m => some (m, ⟨0x0062, .admin, [(0, 1)], fun a => decide (leAt a 0 1 < 4)⟩, anyArgs)
  | .debugMap m => some (m, ⟨0x8001, .expert, [(0, 3)], posArgs⟩, anyArgs)
  | .debugUnmap m => some (m, ⟨0x8002, .expert, [], noArgs⟩, anyArgs)
  | .coreHalt m => some (m, ctrlCmd fun o => decide (o = 1), fun a => decide (ctrlOp a ≤ 1) || decide (5 ≤ ctrlOp a))
  | .coreReset m => some (m, ctrlCmd fun o => decide (o = 2), fun a => decide (ctrlOp a = 2))
  | .clusterReset m => some (m, ctrlCmd fun o => decide (o = 3), fun a => decide (ctrlOp a = 3))
  | .partitionReset m => some (m, ctrlCmd fun o => decide (o = 4), fun a => decide (ctrlOp a = 4))
  | .rawXfer m => some (m, ⟨0x8004, .expert, [(0, 24)], fun a => decide (leAt a 16 8 % 64 = 0)⟩, anyArgs)
  | .rawDesc m => some (m, ⟨0x8005, .expert, [(0, 1), (8, 104)], fun a => decide (leAt a 0 1 < 6)⟩, anyArgs)
  | .unlockDebug m => some (m, ⟨0x8010, .expert, [], noArgs⟩, anyArgs)
  | .commitSpares m => some (m, ⟨0x8011, .expert, [], noArgs⟩, anyArgs)
  | .regenIdentity m => some (m, ⟨0x8012, .expert, [], noArgs⟩, anyArgs)
  | _ => none

/-! ### Reset and invariants -/

/-- The commands that begin or end a module reset (R453, R508, R510). -/
def resetsModule : Instr → Bool
  | .powerGood _ _ | .powerGoodDrop | .perstAssert _ | .perstDeassert _ | .functionLevelReset _ _ | .hotReset _ _ | .moduleReset _ _
  | .watchdog _ _ | .smcReset _ _ _ => true
  | _ => false

/-- LPDDR is in canonical form: addresses strictly rising, no entry equal to what an unlisted address reads as. -/
def State.lpddrWf (s : State) : Prop := Memory.wf s.lpddr

/-- A module halt is in force, and GLB_HALT and GLB_HALTSEQ hold c and n (R471, R472). -/
def State.haltedWith (s : State) (c : BitVec 16) (n : Word32) : Prop := s.boot.halt = true ∧ s.err.haltCode = c ∧ s.err.haltSeq = n

/-- Strict mode is in effect on a module that has started (R159). -/
def State.strictOn (s : State) : Prop := s.boot.ready = true ∧ s.boot.strict = true

end Sys2Proof.Machine
end

