-- ==== Sys2Proof/Certificates/Slice0/Obligations.lean ====
section
/-! DEFINITION. The statements about the model, each over all states and operands that meet its hypotheses. Those about a choice of the model
name the log entry. -/
open Sys2Proof Sys2Proof.Machine

/-! ### The queue of commands -/

/-- A step takes the command at the front of the queue and runs it on the state with the queue's rest. -/
def Obligations.StepRunsFront : Prop :=
  ∀ (i : Instr) (r : List Instr) (s : State), step { s with pending := i :: r } = exec i { s with pending := r }

/-- No command changes the queue of those that wait behind it. -/
def Obligations.CommandsKeepQueue : Prop :=
  ∀ (i : Instr) (s t : State), exec i s = .next t → t.pending = s.pending

/-! ### Encodings -/

/-- Every legal instruction of the four engines, with every header, is read back from its word (R76, R106, R138, R139, R143, R144). -/
def Obligations.WordReadsBack : Prop :=
  ∀ (h : Hdr) (o : AnyOp), o.legal = true → decOp (encOp h o) = some (h, o)

/-- Words written out from the tables of the spec: CC.ADD s3 = s1 + s2 waiting on W5; CC.LI s1 = −1; CC.HALT; MM.LW t2 into L1; VE.MOV COPY
t1 = t0 of 64 FP32 elements; ST.HEAD of one slot on channel 4, signalling W2; a word with a reserved bit set. And an instruction whose fields the
spec calls reserved together is refused: it stands in no image that loads (R76, R77, R99, R101, R103, R105, R106, R117, R138, R143, R165, R230). -/
def Obligations.SpecWords : Prop :=
  (decOp 0x0112801821000000 = some ({ w := some 5, s := none }, .cc (.add 3 1 2))
    ∧ decOp 0x1A000008FFFFFFFF = some ({ w := none, s := none }, .cc (.li 1 0xFFFFFFFF))
    ∧ decOp 0x3F00000000000000 = some ({ w := none, s := none }, .cc .halt)
    ∧ decOp 0x4040005000000000 = some ({ w := none, s := none }, .mm (.lw 2 true))
    ∧ decOp 0x8A80002000001F80 = some ({ w := none, s := none }, .ve (.copy .fp32 1 0 (.imm 63)))
    ∧ decOp 0xC2C00B0000000000 = some ({ w := none, s := some 2 }, .st (.head 4 0))
    ∧ decOp 0x0000000000000001 = none) ∧
  (∀ (c : CoreId) (h : Hdr) (s : State),
    (∀ rd ra imm, 64 ≤ imm.toNat → exec (.ccShli c h rd ra imm) s = .refused .reservedEncoding
      ∧ exec (.ccShri c h rd ra imm) s = .refused .reservedEncoding ∧ exec (.ccSari c h rd ra imm) s = .refused .reservedEncoding)
    ∧ (∀ rd sel, selLegal sel.toNat = false → exec (.ccRds c h rd sel) s = .refused .reservedEncoding)
    ∧ (∀ rd sel, selClears sel.toNat = false → exec (.ccRdsc c h rd sel) s = .refused .reservedEncoding)
    ∧ (∀ acc col td rnd st, rnd ≠ .rne → exec (.mmRd c h acc col td .copy32 rnd st) s = .refused .reservedEncoding)
    ∧ (∀ fn rnd vd va b n, exec (.veFma c h fn .u8 rnd vd va b n) s = .refused .reservedEncoding)
    ∧ (∀ vd n, exec (.veIota c h .bf16 vd n) s = .refused .reservedEncoding)
    ∧ (∀ ty rnd vd vb n, exec (.veBcast c h ty rnd vd (.span vb) n) s = .refused .reservedEncoding))

/-- What the vector engine computes. Rounding by each mode; every finite code is its own conversion; a magnitude beyond a narrow format's maximum
saturates and is counted; sums, products and scalings are exact before they are rounded once; integer results are clamped and counted; a comparison
with NaN holds for NE alone, and MIN and MAX of a NaN give NaN. A clip counter takes the counts, stops at its limits and notes what SAT cuts off.
A group of an element-wise instruction changes exactly the elements that it computes, and VE.CMPR and VE.EXPD give VC the number of marks (R29 to
R32, R50 to R52, R54, R55, R59, R61, R107 to R109, R111 to R113, R115, R120, R123, R124, R129). -/
def Obligations.VectorArithmetic : Prop :=
  (∀ (rnd : Rnd) (r24 m : Nat) (e q : Int),
    let u := roundUnits rnd r24 m e q
    let d := 2 ^ (q - e).toNat
    (q ≤ e → u = m * 2 ^ (e - q).toNat)
    ∧ (e < q → m % d = 0 → u = m / d)
    ∧ (e < q → rnd = .rtz → u * d ≤ m ∧ m < (u + 1) * d)
    ∧ (e < q → rnd = .rne → 2 * m ≤ 2 * (u * d) + d ∧ 2 * (u * d) ≤ 2 * m + d
      ∧ (2 * m = 2 * (u * d) + d ∨ 2 * (u * d) = 2 * m + d → u % 2 = 0))
    ∧ (e < q → rnd = .rna → 2 * m < 2 * (u * d) + d ∧ 2 * (u * d) ≤ 2 * m + d)
    ∧ (e < q → rnd = .dsr → m % d ≠ 0 → u = m / d + (if 2 ^ 24 ≤ m % d * 2 ^ 24 / d + r24 then 1 else 0))) ∧
  (∀ (f : Fmt) (rnd : Rnd) (r24 c : Nat) (n : Bool) (m mm : Nat) (e me : Int), c < 2 ^ f.width →
    (f = .f32 ∨ f = .bf16 → f.dec c ≠ .nan → f.encWide rnd r24 (f.dec c) = c)
    ∧ (f ≠ .f32 → f ≠ .bf16 →
      let top := b2n n * 2 ^ (f.width - 1) + f.maxCode
      (f.dec c = .fin n m e → f.encNarrow rnd r24 (.fin n m e) = (c, 0, 0))
      ∧ (f.dec f.maxCode = .fin false mm me →
        ((Machine.Num.fin false mm me).val < (Machine.Num.fin false m e).val → f.encNarrow rnd r24 (.fin n m e) = (top, 1, 0))
        ∧ ((Machine.Num.fin false m e).val ≤ (Machine.Num.fin false mm me).val → (f.encNarrow rnd r24 (.fin n m e)).2 = (0, 0)))
      ∧ f.encNarrow rnd r24 (.inf n) = (top, 1, 0) ∧ f.encNarrow rnd r24 .nan = (0x7F, 0, 0))) ∧
  (∀ (x y : Machine.Num) (k : Int), x.isFin = true → y.isFin = true →
    (x.add y).isFin = true ∧ (x.add y).val = x.val + y.val ∧ (x.mul y).isFin = true ∧ (x.mul y).val = x.val * y.val
    ∧ x.neg.val = -x.val ∧ (x.scale k).val = x.val * (2 : ℚ) ^ k
    ∧ Machine.Num.nan.add y = .nan ∧ x.add .nan = .nan ∧ (Machine.Num.inf true).add (.inf false) = .nan) ∧
  (∀ (a b d : Word32) (rnd : Rnd) (ac bc : Nat) (c : Cond) (z : Int),
    let x := f32 a
    let y := f32 b
    (aluElem .add .fp32 rnd a b ac bc = ((to32 (x.add y)).toNat, 0) ∧ aluElem .sub .fp32 rnd a b ac bc = ((to32 (x.add y.neg)).toNat, 0)
      ∧ aluElem .mul .fp32 rnd a b ac bc = ((to32 (x.mul y)).toNat, 0)
      ∧ aluElem .add .bf16 rnd a b ac bc = (toBf rnd 0 (f32 (to32 (x.add y))), 0)
      ∧ fmaElem .fma .fp32 rnd a b d = ((to32 ((x.mul y).add (f32 d))).toNat, 0))
    ∧ (aluElem .add .int32 rnd a b ac bc = clampTo .int32 (a.toInt + b.toInt) ∧ aluElem .sub .int32 rnd a b ac bc = clampTo .int32 (a.toInt - b.toInt)
      ∧ aluElem .mul .int32 rnd a b ac bc = clampTo .int32 (a.toInt * b.toInt)
      ∧ (clampI32 z).1.toInt = max (-2 ^ 31) (min z (2 ^ 31 - 1)) ∧ (clampU8 z).1 = (max 0 (min z 255)).toNat
      ∧ (clampI32 z).2 = (if z < -2 ^ 31 ∨ 2 ^ 31 - 1 < z then 1 else 0) ∧ (clampU8 z).2 = (if z < 0 ∨ 255 < z then 1 else 0))
    ∧ (x = .nan ∨ y = .nan → cmpElem c .fp32 a b = decide (c = .ne) ∧ fminmax false a b = nan32 ∧ fminmax true a b = nan32)
    ∧ (x.isFin = true → y.isFin = true →
      (cmpElem .lt .fp32 a b = true ↔ x.val < y.val) ∧ (cmpElem .eq .fp32 a b = true ↔ x.val = y.val)
      ∧ (cmpElem .ge .fp32 a b = true ↔ y.val ≤ x.val)
      ∧ (f32 (fminmax false a b)).val = min x.val y.val ∧ (f32 (fminmax true a b)).val = max x.val y.val)) ∧
  (∀ (x : Word32) (sat inv : Nat),
    let y := clipAdd x sat inv
    y.toNat % 2 ^ 24 = Nat.min (x.toNat % 2 ^ 24 + sat) (2 ^ 24 - 1) ∧ y.toNat / 2 ^ 24 % 128 = Nat.min (x.toNat / 2 ^ 24 % 128 + inv) 127
    ∧ y.getLsbD 31 = (x.getLsbD 31 || decide (2 ^ 24 ≤ x.toNat % 2 ^ 24 + sat))) ∧
  (∀ (k : Core) (n g e e' : Nat) (vd : Tile16) (ty : Ty) (f : Nat → Nat × Nat), Sparse.Wf {} k.tiles → (∀ t, Memory.wf (k.tile t).bytes) →
    (∀ t, k.guardTile t = none) → k.lws = [] → n ≤ 4096 → e < n → e / 64 = g → e' < 4096 → e' / 64 ≠ g →
    let k1 := k.applyOut (veElems n vd ty g f)
    k1.elem vd ty e = (f e).1 % 256 ^ ty.bytes ∧ k1.elem vd ty e' = k.elem vd ty e'
    ∧ { k1 with tiles := k.tiles, clips := k.clips } = k) ∧
  (∀ (k : Core) (n lstep g : Nat) (sv : Word64) (alu : AluFn) (fm : FmaFn) (un : UnFn) (c : Cond) (ty : Ty) (rnd : Rnd) (vd va vb vm : Tile16)
    (b : OpB) (cnt : CountSrc),
    let x (t : Tile16) (e : Nat) : Word32 := widen ty (k.elem t ty e)
    veGroup k (.alu alu ty rnd vd va b cnt) n sv lstep g = some (veElems n vd ty g fun e =>
      aluElem alu ty rnd (x va e) (k.opB b ty sv e) (k.elem va ty e) (k.opBCode b ty sv e))
    ∧ veGroup k (.fma fm ty rnd vd va b cnt) n sv lstep g
      = some (veElems n vd ty g fun e => fmaElem fm ty rnd (x va e) (k.opB b ty sv e) (x vd e))
    ∧ veGroup k (.un un ty rnd vd va cnt) n sv lstep g = some (veElems n vd ty g fun e => unElem un ty rnd (x va e))
    ∧ veGroup k (.cmp c ty vd va b cnt) n sv lstep g
      = some (veElems n vd .u8 g fun e => (b2n (cmpElem c ty (x va e) (k.opB b ty sv e)), 0))
    ∧ veGroup k (.sel ty vd va vb vm cnt) n sv lstep g
      = some (veElems n vd ty g fun e => (if k.spanByte vm e ≠ 0 then k.elem va ty e else k.elem vb ty e, 0))
    ∧ veGroup k (.copy ty vd va cnt) n sv lstep g = some (veElems n vd ty g fun e => (k.elem va ty e, 0))) ∧
  (∀ (ty : Ty) (vd va vm : Tile16) (cnt : CountSrc) (n : Nat) (a m : List Nat), m.length ≤ a.length →
    let marks := (m.filter fun x => decide (x ≠ 0)).length
    (veFinish (.cmpr ty vd va vm cnt) n a m).2 = some marks ∧ (veFinish (.expd ty vd va vm cnt) n a m).2 = some marks)

/-! ### The control core -/

/-- On a core whose engines have nothing to do and that has nothing pending, an instruction without a wait whose scalars are available by
the core's beat issues in that beat on the state as it stands (R148). -/
def Obligations.IdleCoreIssues : Prop :=
  ∀ (s : State) (c : CoreId) (op : CcOp) (h : Hdr) (regs : List Reg),
    Sparse.Wf {} s.cores → (s.core c.val).atInstr (.cc op) h = true → (s.core c.val).engIdle = true → h.w = none →
    (s.core c.val).pendRes = [] → (s.core c.val).pendSig = [] → (s.core c.val).pendClip = [] →
    (∀ r ∈ regs, (s.core c.val).availAt r ≤ (s.core c.val).beat) →
    s.issueAt c.val op h regs = some (s, (s.core c.val).beat)

/-- The instructions that compute RD in one beat give it the value of the table of R144 and change nothing else; an immediate is sign-extended,
and a shift by an immediate takes 0 to 63 (R140, R144, R148). -/
def Obligations.ControlCoreArithmetic : Prop :=
  (∀ (c : CoreId) (h : Hdr) (rd ra rb : Reg),
    Computes (.ccAdd c h rd ra rb) c (.add rd ra rb) h rd [ra, rb] (fun k => k.sc ra + k.sc rb)
    ∧ Computes (.ccSub c h rd ra rb) c (.sub rd ra rb) h rd [ra, rb] (fun k => k.sc ra - k.sc rb)
    ∧ Computes (.ccAnd c h rd ra rb) c (.and rd ra rb) h rd [ra, rb] (fun k => k.sc ra &&& k.sc rb)
    ∧ Computes (.ccOr c h rd ra rb) c (.or rd ra rb) h rd [ra, rb] (fun k => k.sc ra ||| k.sc rb)
    ∧ Computes (.ccXor c h rd ra rb) c (.xor rd ra rb) h rd [ra, rb] (fun k => k.sc ra ^^^ k.sc rb)
    ∧ Computes (.ccShl c h rd ra rb) c (.shl rd ra rb) h rd [ra, rb] (fun k => k.sc ra <<< ((k.sc rb).truncate 6 : BitVec 6).toNat)
    ∧ Computes (.ccShr c h rd ra rb) c (.shr rd ra rb) h rd [ra, rb] (fun k => k.sc ra >>> ((k.sc rb).truncate 6 : BitVec 6).toNat)
    ∧ Computes (.ccSar c h rd ra rb) c (.sar rd ra rb) h rd [ra, rb]
      (fun k => (k.sc ra).sshiftRight ((k.sc rb).truncate 6 : BitVec 6).toNat)
    ∧ Computes (.ccMin c h rd ra rb) c (.min rd ra rb) h rd [ra, rb]
      (fun k => if (k.sc ra).toInt < (k.sc rb).toInt then k.sc ra else k.sc rb)
    ∧ Computes (.ccMax c h rd ra rb) c (.max rd ra rb) h rd [ra, rb]
      (fun k => if (k.sc ra).toInt < (k.sc rb).toInt then k.sc rb else k.sc ra)
    ∧ Computes (.ccSlt c h rd ra rb) c (.slt rd ra rb) h rd [ra, rb]
      (fun k => if (k.sc ra).toInt < (k.sc rb).toInt then 1 else 0)
    ∧ Computes (.ccSltu c h rd ra rb) c (.sltu rd ra rb) h rd [ra, rb]
      (fun k => if (k.sc ra).toNat < (k.sc rb).toNat then 1 else 0)) ∧
  (∀ (c : CoreId) (h : Hdr) (rd ra : Reg) (imm : BitVec 29) (x : Word32),
    Computes (.ccAddi c h rd ra imm) c (.addi rd ra imm) h rd [ra] (fun k => k.sc ra + imm.signExtend 64)
    ∧ Computes (.ccAndi c h rd ra imm) c (.andi rd ra imm) h rd [ra] (fun k => k.sc ra &&& imm.signExtend 64)
    ∧ Computes (.ccOri c h rd ra imm) c (.ori rd ra imm) h rd [ra] (fun k => k.sc ra ||| imm.signExtend 64)
    ∧ Computes (.ccXori c h rd ra imm) c (.xori rd ra imm) h rd [ra] (fun k => k.sc ra ^^^ imm.signExtend 64)
    ∧ Computes (.ccLi c h rd x) c (.li rd x) h rd [] (fun _ => x.signExtend 64)
    ∧ Computes (.ccLih c h rd x) c (.lih rd x) h rd [] (fun k => x ++ (k.sc rd).truncate 32)
    ∧ (imm.toNat < 64 →
      Computes (.ccShli c h rd ra imm) c (.shli rd ra imm) h rd [ra] (fun k => k.sc ra <<< imm.toNat)
      ∧ Computes (.ccShri c h rd ra imm) c (.shri rd ra imm) h rd [ra] (fun k => k.sc ra >>> imm.toNat)
      ∧ Computes (.ccSari c h rd ra imm) c (.sari rd ra imm) h rd [ra] (fun k => (k.sc ra).sshiftRight imm.toNat)))

/-- CC.MUL gives the low 64 bits of the product three beats after issue, CC.LD eight bytes of SRAM four beats after issue (R144, R146,
R148): bit 2 to 0 of the address read as zero and it wraps at 4 MiB. That CC.LD reads SRAM in its issue beat is the model's reading (log entry
102). -/
def Obligations.MultiplyAndLoad : Prop :=
  ∀ (c : CoreId) (h : Hdr) (rd ra rb : Reg) (imm : BitVec 29),
    ComputesLate (.ccMul c h rd ra rb) c (.mul rd ra rb) h rd [ra, rb] 3 (fun k => BitVec.ofNat 64 ((k.sc ra).toNat * (k.sc rb).toNat))
    ∧ ComputesLate (.ccLd c h rd ra imm) c (.ld rd ra imm) h rd [ra] 4 (fun k =>
      BitVec.ofNat 64 (leNat (k.engBytes ((k.sc ra + imm.signExtend 64).toNat % 2 ^ 22 / 8 * 8) 8)))

/-- Branches go to PC + OFF in two beats where their condition holds, else on in one; CC.NOP does nothing but pass a beat; CC.HALT stops issue in
its beat; CC.ST writes the eight bytes of RD at the end of its issue beat; each signals in its issue beat (R144, R145, R146, R148, R150). That
CC.HALT does is the model's reading (log entry 28). -/
def Obligations.Branching : Prop :=
  (∀ (c : CoreId) (h : Hdr) (ra rb : Reg) (off : BitVec 29),
    Branches (.ccBeq c h ra rb off) c (.beq ra rb off) h [ra, rb] off (fun k => k.sc ra = k.sc rb)
    ∧ Branches (.ccBne c h ra rb off) c (.bne ra rb off) h [ra, rb] off (fun k => k.sc ra ≠ k.sc rb)
    ∧ Branches (.ccBlt c h ra rb off) c (.blt ra rb off) h [ra, rb] off (fun k => (k.sc ra).toInt < (k.sc rb).toInt)
    ∧ Branches (.ccBge c h ra rb off) c (.bge ra rb off) h [ra, rb] off (fun k => (k.sc rb).toInt ≤ (k.sc ra).toInt)
    ∧ Branches (.ccBltu c h ra rb off) c (.bltu ra rb off) h [ra, rb] off (fun k => (k.sc ra).toNat < (k.sc rb).toNat)
    ∧ Branches (.ccBgeu c h ra rb off) c (.bgeu ra rb off) h [ra, rb] off (fun k => (k.sc rb).toNat ≤ (k.sc ra).toNat)
    ∧ Branches (.ccJmp c h off) c (.jmp off) h [] off (fun _ => True)) ∧
  (∀ (c : CoreId) (h : Hdr) (rd ra : Reg) (imm : BitVec 29) (s u : State) (b : Nat),
    (s.issueAt c .nop h [] = some (u, b) → exec (.ccNop c h) s = .next
      ((u.modCore c fun k => { k with pc := k.pc + 1, beat := b + 1 }).signalHdr c h 0 (u.core c).pc b))
    ∧ (s.issueAt c .halt h [] = some (u, b) → exec (.ccHalt c h) s = .next
      ((u.modCore c fun k => { k with pc := k.pc + 1, beat := b + 1, haltAt := some b }).signalHdr c h 0 (u.core c).pc b))
    ∧ (s.issueAt c (.st rd ra imm) h [rd, ra] = some (u, b) → exec (.ccSt c h rd ra imm) s = .next
      ((u.modCore c fun k => ((k.pumpTo (2 * b)).engWrite ((k.sc ra + imm.signExtend 64).toNat % 2 ^ 22 / 8 * 8)
        (leBytes 8 (k.sc rd).toNat)).past b 1).signalHdr c h 0 (u.core c).pc b)))

/-- What the lane row and the readout unit compute. Operand beat o works on quarter q and token j: every active lane adds its beat sum into its
element of column (COL + j) mod 64, the first addition from zero under CLR, and the counts go to the set's SRC. The sums are those of the shapes:
the rounded tree of MM.B16, the clamped sum of integers of MM.N2, one rounding of the exact scaled sum of the others. MM.RD converts two columns of
every row in a beat, MM.LA loads two (R42 to R49, R69 to R71, R74, R83 to R85, R88, R89). -/
def Obligations.MatrixArithmetic : Prop :=
  (∀ (k : Core) (sh : MmShape) (a : MmArgs) (sa ss : Word64) (blk : List Byte) (o i key : Nat) (t : Tile16),
    Sparse.Wf 0 k.banks → Sparse.Wf 0 k.clips →
    let mx := Nat.max (a.nt.val + 1) 4
    let q := o / mx
    let j := o % mx
    let at_ (i : Nat) : Nat := bankKey a.acc.val i ((a.col.val + j) % 64)
    let l := k.latch a.ls
    let step (i : Nat) : Word32 × Nat × Nat := beatStep sh (if a.clr && decide (q = 0) then 0 else sget 0 k.banks (at_ i))
      (l.word (64 * i) 64) (l.word (4352 + 16 * i) 16) (l.word (4096 + 4 * i) 4) (k.scaleRec ss j) q (k.quarterOps sh a sa blk q j)
    let active (i : Nat) : Bool := decide (i < 64) && (decide (a.half = none) || decide (a.half = some (decide (32 ≤ i))))
    let rows := (List.range 64).filter active
    let k1 := k.operandBeat sh a sa ss blk o
    (active i = true → sget 0 k1.banks (at_ i) = (step i).1)
    ∧ ((∀ i, active i = true → key ≠ at_ i) → sget 0 k1.banks key = sget 0 k.banks key)
    ∧ k1.clip l.src = clipAdd (k.clip l.src) (rows.map fun i => (step i).2.1).sum (rows.map fun i => (step i).2.2).sum
    ∧ (t ≠ l.src → k1.clip t = k.clip t)
    ∧ { k1 with banks := k.banks, clips := k.clips } = k) ∧
  (∀ (acc : Word32) (row esc ws os q : Nat) (ops : List Nat) (tern : Bool),
    let p (e : Nat) : Word32 := to32 ((Fmt.bf16.dec (elemAt row 16 (q * 8 + e))).mul (Fmt.bf16.dec (ops.getD e 0)))
    let w (e : Nat) : Nat := elemAt row 2 (q * 64 + e)
    let s := ((List.range 64).map fun e => (if tern && decide (w e = 2) then 0 else n2Int (w e)) * n2Int (ops.getD e 0)).sum
    let r := beatStep (.n2 tern) acc row esc ws os q ops
    beatStep .b16 acc row esc ws os q ops
      = (fadd acc (fadd (fadd (fadd (p 0) (p 1)) (fadd (p 2) (p 3))) (fadd (fadd (p 4) (p 5)) (fadd (p 6) (p 7)))), 0, 0)
    ∧ r.1.toInt = max (-2 ^ 31) (min (acc.toInt + s) (2 ^ 31 - 1))
    ∧ r.2.1 = (if acc.toInt + s < -2 ^ 31 ∨ 2 ^ 31 - 1 < acc.toInt + s then 1 else 0)
    ∧ r.2.2 = (if tern then ((List.range 64).filter fun e => decide (w e = 2)).length else 0)) ∧
  (∀ (sh : MmShape) (acc : Word32) (row esc ws os q : Nat) (ops : List Nat) (x : Int), sh ≠ .b16 → (∀ t, sh ≠ .n2 t) →
    let p (e : Nat) : Machine.Num := (weightNum sh row esc q e).mul (operandNum sh (ops.getD e 0))
    let s := (List.range sh.k).foldl (fun y e => y.add (p e)) (Machine.Num.fin false 0 0)
    let r := beatStep sh acc row esc ws os q ops
    (scaleSum sh ws os q = some x → r.1 = to32 ((f32 acc).add (s.scale x)))
    ∧ (scaleSum sh ws os q = none → r.1 = nan32)
    ∧ r.2 = (0, if sh = .f4e then escClash esc q else 0)
    ∧ ((∀ e < sh.k, (p e).isFin = true) → s.isFin = true ∧ s.val = ((List.range sh.k).map fun e => (p e).val).sum)
    ∧ ((∃ e < sh.k, p e = .nan) → s = .nan)) ∧
  (∀ (sh : MmShape) (a : MmArgs) (e2 : Bool),
    let n := a.nt.val + 1
    sh.k = (match sh with | .b16 => 8 | .f8 _ _ => 16 | .n2 _ => 64 | _ => 32)
    ∧ mmBeats sh a e2 = 4 * Nat.max n 4 + (if a.tr then (n + 3) / 4 else 0)
      + (if sh = .f4e then (if e2 then (n + 1) / 2 else (n + 5) / 6) else 0)) ∧
  (∀ (k : Core) (acc col : Nat) (td : Tile16) (df : RdFmt) (rnd : Rnd) (st : Word64) (lstep t i : Nat), i < 64 →
    let x (e : Nat) : Nat × Nat :=
      rdElem df rnd (dsr24 lstep (st.truncate 32) (i * df.cols + e)) (sget 0 k.banks (bankKey acc i ((col + e) % 64)))
    (k.readoutBeat acc col td df rnd st lstep t).1[i]?
      = some ⟨td, 64 * i + 2 * t * df.bytes, leBytes df.bytes (x (2 * t)).1 ++ leBytes df.bytes (x (2 * t + 1)).1⟩) ∧
  (∀ (k : Core) (acc col : Nat) (ts : Tile16) (t i key : Nat), Sparse.Wf 0 k.banks →
    let k1 := k.loadBeat acc col ts t
    let word (e : Nat) : Word32 := BitVec.ofNat 32 (leNat (rdBytes (k.engTile ts).bytes (64 * i + 4 * e) 4))
    (i < 64 → sget 0 k1.banks (bankKey acc i ((col + 2 * t) % 64)) = word (2 * t)
      ∧ sget 0 k1.banks (bankKey acc i ((col + (2 * t + 1)) % 64)) = word (2 * t + 1))
    ∧ ((∀ i < 64, key ≠ bankKey acc i ((col + 2 * t) % 64) ∧ key ≠ bankKey acc i ((col + (2 * t + 1)) % 64)) →
      sget 0 k1.banks key = sget 0 k.banks key)
    ∧ { k1 with banks := k.banks } = k)

/-- A write of an engine to SRAM changes exactly its own bytes outside the code window and outside veiled and locked slots, and every other register
of the core stays, but that a write which the code window drops adds one to CWD, and one that a slot drops one to STM_WDR of its channel (R118,
R146, R147, R220). That one access counts once is the model's choice (log entry 20). -/
def Obligations.EngineStores : Prop :=
  ∀ (k : Core) (a : Nat) (d : List Byte), Memory.wf k.sram → Sparse.Wf {} k.chans → d.length ≤ sramSize →
    let hit (p : Nat → Bool) : Bool := (List.range d.length).any fun i => p ((a + i) % sramSize)
    (∀ i, i < d.length →
      rdByte (k.engWrite a d).sram ((a + i) % sramSize)
        = if k.inCode ((a + i) % sramSize) || (k.guardSram ((a + i) % sramSize)).isSome then rdByte k.sram ((a + i) % sramSize)
          else d.getD i 0)
    ∧ (∀ x, (∀ i, i < d.length → x ≠ (a + i) % sramSize) → rdByte (k.engWrite a d).sram x = rdByte k.sram x)
    ∧ { k.engWrite a d with sram := k.sram, cwd := k.cwd, chans := k.chans } = k
    ∧ (k.engWrite a d).cwd = (if hit k.inCode then Nat.min (k.cwd + 1) 31 else k.cwd)
    ∧ (∀ n, (k.engWrite a d).chan n = { k.chan n with
        wdr := if hit fun x => decide (k.guardSram x = some n) then sat32 (k.chan n).wdr 1 else (k.chan n).wdr })

/-- CC.RDS reads a special register, and CC.RDSC reads one and clears it; the executed read of a selector with V = 1 sets VSEEN (R141, R142,
R158, R169); the register that it clears reads zero from then on and every other keeps its value. TIME is a free value (log entry 10). -/
def Obligations.SpecialRegisters : Prop :=
  (∀ (c : CoreId) (h : Hdr) (rd : Reg) (sel : Byte) (s u : State) (b : Nat),
    (selLegal sel.toNat = true → s.issueAt c (.rds rd sel) h [rd] = some (u, b) →
      exec (.ccRds c h rd sel) s = .next (({ u with free := u.free + 1 }).modCore c fun k =>
        { k.withResult rd (u.special c sel.toNat b) h b with vseen := k.vseen || decide (0x20 ≤ sel.toNat) }))
    ∧ (selClears sel.toNat = true → s.issueAt c (.rdsc rd sel) h [rd] = some (u, b) →
      exec (.ccRdsc c h rd sel) s = .next (u.modCore c fun k => (k.clearSpecial sel.toNat b).withResult rd (u.special c sel.toNat b) h b))) ∧
  (∀ (s : State) (c : CoreId) (b sel x : Nat), Sparse.Wf {} s.cores → Sparse.Wf 0 (s.core c).clips → selClears sel = true →
    let t := s.modCore c fun k => k.clearSpecial sel b
    t.special c sel b = 0 ∧ (x ≠ sel → t.special c x b = s.special c x b)) ∧
  (∀ (s : State) (c : CoreId) (b : Nat) (t : Tile16),
    s.special c 0x00 b = BitVec.ofNat 64 b
    ∧ s.special c 0x01 b = (s.core c).vc.zeroExtend 64
    ∧ s.special c 0x02 b = BitVec.ofNat 64 (s.core c).layer
    ∧ s.special c 0x03 b = BitVec.ofNat 64 (s.core c).lstep
    ∧ s.special c 0x04 b = BitVec.ofNat 64 (s.core c).ctx
    ∧ s.special c 0x05 b = BitVec.ofNat 64 (c.val / 128 * 256 + c.val / 8 % 16 * 16 + c.val % 8)
    ∧ s.special c (0x10 + t.val) b = ((s.core c).clip t.val).zeroExtend 64
    ∧ s.special c 0x21 b = BitVec.ofNat 64 s.ring.ms
    ∧ s.special c 0x22 b = (s.coreTj c).signExtend 64)

/-- s0 reads zero and drops writes; any other scalar reads back what was written, and a write leaves the others alone; at program start every
scalar holds zero (R140). -/
def Obligations.ScalarFile : Prop :=
  (∀ (k : Core) (n m : Reg) (v : Word64), Sparse.Wf 0 k.scal →
    k.sc 0 = 0 ∧ k.setSc 0 v = k ∧ (n ≠ 0 → (k.setSc n v).sc n = v) ∧ (m ≠ n → (k.setSc n v).sc m = k.sc m)
    ∧ Sparse.Wf 0 (k.setSc n v).scal ∧ { k.setSc n v with scal := k.scal } = k) ∧
  (∀ (s : State) (im : Loaded) (c : Nat) (n : Reg), Sparse.Wf {} s.cores → c < s.boot.cores → ((s.startRun im).core c).sc n = 0)

/-! ### Waymarks -/

/-- A signal adds one to what VALUE becomes at the end of its beat; one that takes it beyond 4,095, with no take of that beat left to lower it,
raises Waymark Overflow, which names the lowest-numbered such Waymark and its first signaller. A take subtracts one. A control-core instruction
whose Waymark is zero does not issue, and WYM_WAIT shows the wait; an engine instruction whose Waymark is zero is not dispatched (R246, R248 to
R250, R272). -/
def Obligations.WaymarkCounts : Prop :=
  (∀ (s : State) (c : CoreId) (n : Fin 32) (eng : Nat) (pc : BitVec 15) (b : Nat), Sparse.Wf {} s.cores → Sparse.Wf {} (s.core c).wms →
    let w := ((s.core c).wm n).roll b
    let k := (s.core c).signal n (BitVec.ofNat 2 eng) pc b
    let left := if w.wr.isSome then 0 else k.takesLeft n b
    (w.sum < left + 4095 → s.signalWm c n eng pc b = s.setCore c k
      ∧ (w.sum < 4095 → w.re = false → (k.wm n).shown.toNat = w.shown.toNat + 1))
    ∧ (left + 4095 ≤ w.sum → s.signalWm c n eng pc b = (s.setCore c k).wmOverflow c b)
    ∧ (w.value ≠ 0 → w.re = false → w.wr = none → w.sum ≤ 4095 →
      (((s.core c).take n b).wm n).shown.toNat + 1 = w.shown.toNat)) ∧
  (∀ (s : State) (c : CoreId) (b : Nat) (n : Fin 32) (e : BitVec 2) (pc : BitVec 15),
    let k := (s.core c).signalAll ((s.core c).signalsIn b)
    (List.finRange 32).find? (k.tops b) = some n → (k.wm n).first = some (e, pc) →
    s.wmOverflow c b = (s.setCore c { k with pendSig := k.pendSig.filter fun x => decide (x.due ≠ b) }).coreFault c b 0x0105
      (BitVec.ofNat 16 pc.toNat) (BitVec.ofNat 32 (n.val + e.toNat * 256)) 0xFFFFFFFF 0xFFFFFFFF (BitVec.ofNat 32 b)) ∧
  (∀ (s : State) (i : Instr) (c : CoreId) (n : Fin 32) (x : Option (Fin 32)) (op : CcOp) (regs : List Reg),
    let h : Hdr := { w := some n, s := x }
    let s1 := s.sync c ((s.core c).issueBeat regs - 1)
    i.ccForm = some (c, h, op, regs) → op.legal = true → (s.core c).atInstr (.cc op) h = true →
    (((s1.core c).wm n).shown = 0 → ((s1.core c).wm n).value = 0 → exec i s = .next s1)
    ∧ (((s.core c).wm n).shown = 0 → (s.core c).ccHeld = some n)) ∧
  (∀ (k : Core) (n : Fin 32), (k.wm n).shown = 0 → (k.wm n).value = 0 →
    (∀ e r, k.mq = e :: r → e.h.w = some n → k.mmDispatch = none)
    ∧ (∀ e r, k.vq = e :: r → e.h.w = some n → k.veDispatch = none)
    ∧ (∀ e r, k.sq = e :: r → e.h.w = some n → k.stDispatch = none))

/-! ### Passes -/

/-- CC.PARRIVE and CC.PENTER arrive at the core's Pass once both outbound channels have sent what they were handed, and park until then; PC has
moved past them. CC.PWAIT parks while a release is outstanding, but halts on a broken Pass; else it passes, and crosses when arrivals are uncrossed;
CC.PLEVEL writes LEVEL and DESIG at the end of its beat, and VALUE too with NOW (R228, R257, R258, R262, R265, R267). -/
def Obligations.PassInstructions : Prop :=
  (∀ (c : CoreId) (h : Hdr) (p : PassId) (m : Fin 4) (l r : Bool) (s u : State) (b : Nat),
    let pc := (u.core c).pc
    let v := u.modCore c fun k => { k with pc := k.pc + 1, beat := b }
    (s.issueAt c (.parrive p) h [] = some (u, b) →
      ((u.core c).mayArrive = true → exec (.ccParrive c h p) s = .next
        ((v.arrive c (passIdx p) false false pc).afterArrive c (passIdx p) false h pc b))
      ∧ ((u.core c).mayArrive = false → exec (.ccParrive c h p) s = .next
        (v.modCore c fun k => { k with status := .parked (.arrive (passIdx p) false false false h pc), beat := b })))
    ∧ (s.issueAt c (.penter (.mod m l r)) h [] = some (u, b) →
      ((u.core c).mayArrive = true → exec (.ccPenter c h (.mod m l r)) s = .next
        ((v.arrive c (1 + m.val) l r pc).afterArrive c (1 + m.val) true h pc b))
      ∧ ((u.core c).mayArrive = false → exec (.ccPenter c h (.mod m l r)) s = .next
        (v.modCore c fun k => { k with status := .parked (.arrive (1 + m.val) l r true h pc), beat := b })))
    ∧ (s.issueAt c (.penter .part) h [] = some (u, b) →
      ((u.core c).mayArrive = true → exec (.ccPenter c h .part) s = .next
        ((v.arrive c 0 false false pc).afterArrive c 0 true h pc b))
      ∧ ((u.core c).mayArrive = false → exec (.ccPenter c h .part) s = .next
        (v.modCore c fun k => { k with status := .parked (.arrive 0 false false true h pc), beat := b })))) ∧
  (∀ (c : CoreId) (h : Hdr) (p : PassId) (wn : Fin 32) (d now : Bool) (level : BitVec 12) (s u : State) (b : Nat),
    (s.issueAt c (.plevel wn d now level) h [] = some (u, b) →
      exec (.ccPlevel c h wn d now level) s = .next
        ((u.modCore c fun k => { (k.setLevel wn level d now b) with pc := (k.setLevel wn level d now b).pc + 1, beat := b + 1 }).signalHdr
          c h 0 (u.core c).pc b))
    ∧ (s.issueAt c (.pwait p) h [] = some (u, b) →
      let v := u.modCore c fun k => { k with pc := k.pc + 1 }
      (((v.core c).pview (passIdx p)).o ≠ 0 → (u.pass (idxKey c (passIdx p))).brk = false →
        exec (.ccPwait c h p) s = .next (v.modCore c fun k => { k with status := .parked (.pass (passIdx p) h (u.core c).pc), beat := b }))
      ∧ (((v.core c).pview (passIdx p)).o ≠ 0 → (u.pass (idxKey c (passIdx p))).brk = true → exec (.ccPwait c h p) s = .next
        ((v.modCore c fun k => { k with beat := b }).brokenCore c (passIdx p) (u.core c).pc))
      ∧ (((v.core c).pview (passIdx p)).o = 0 → exec (.ccPwait c h p) s = .next
        (v.endPass c (passIdx p) h (u.core c).pc b (decide (((v.core c).pview (passIdx p)).unc ≠ 0)))))) ∧
  (∀ (k : Core) (n : Fin 32) (level : BitVec 12) (d now : Bool) (b : Nat), Sparse.Wf {} k.wms → (k.wm n).at_ ≤ b →
    let w := (k.setLevel n level d now b).wm n
    w.level = level ∧ w.desig = d ∧ (now = true → w.shown = level) ∧ (now = false → (k.wm n).re = false → w.shown = (k.wm n).shown))

/-- An arrival that leaves its generation incomplete counts in ARR or NEXT by the parity of the core's arrivals and adds one to its O; it
fixes L and RING of a generation that it opens. A third outstanding arrival, and one whose L or RING differs, are faults and are not
counted (R259, R260, R261, R262). -/
def Obligations.ArrivalCounts : Prop :=
  ∀ (s : State) (c i : Nat) (l r : Bool) (pc : BitVec 15),
    let x := s.pass (idxKey c i)
    let v := (s.core c).pview i
    let cur := decide (v.n % 2 = b2n x.gen)
    let t := (s.modPass (idxKey c i) fun x => x.count c cur l r).modCore c fun k =>
      k.setPview i { o := v.o + 1, n := v.n + 1, unc := v.unc + 1, uncL := v.uncL || l }
    let agree := if cur then x.arr = 0 ∨ (x.l = l ∧ x.ring = r) else x.next = 0 ∨ (x.lNext = l ∧ x.ringNext = r)
    x.brk = false →
      (v.o < 2 → agree → t.passReady (idxKey c i) = false → t.endedAbsent (idxKey c i) = none → s.arrive c i l r pc = t)
      ∧ (v.o < 2 → ¬ agree → s.arrive c i l r pc
        = s.passFault c i pc 0x0108 (if cur then x.gen else !x.gen) (if cur then x.l else x.lNext) (if cur then x.ring else x.ringNext))
      ∧ (2 ≤ v.o → s.arrive c i l r pc = s.passFault c i pc 0x0107 x.gen false false)

/-- A completed generation gives way to the next one, and every participant is owed a release notice that carries its bit; a generation with RING is complete only
when every ring of the slice has reported. A notice lowers O of its core's view by one; one of an earlier reset of the core is absorbed (R259,
R264, R268, R367). -/
def Obligations.GenerationGivesWay : Prop :=
  (∀ (s : State) (p : Nat),
    (s.passReady p = true ↔ (s.pass p).arr = (s.participants p).length ∧ (s.pass p).arr ≠ 0 ∧ ((s.pass p).ring = true → s.ringAll p = true))
    ∧ (s.passReady p = false → s.completePass p = s)
    ∧ (Sparse.Wf {} s.passes → s.passReady p = true →
      let t := s.nextGeneration p
      t.notices = s.notices
        ++ (s.participants p).map (fun c => ⟨Fin.ofNat 2048 c, if p < 16 then 0 else p - 15, (s.pass p).gen, s.coreGen c⟩)
      ∧ (t.pass p).gen = !(s.pass p).gen ∧ (t.pass p).arr = (s.pass p).next ∧ (t.pass p).cur = (s.pass p).nxt
      ∧ (t.pass p).next = 0 ∧ (t.pass p).nxt = 0 ∧ (t.pass p).rings = 0 ∧ t.cores = s.cores
      ∧ (t.passReady p = false → s.completePass p = t))) ∧
  (∀ (s : State) (c : CoreId) (p : PassId) (n : Notice),
    s.notices.find? (fun n => decide (n.core = c ∧ n.pass = passIdx p)) = some n →
    let s1 := { s with notices := s.notices.erase n }
    (n.rgen = s.coreGen c → exec (.releaseNotice c p) s = .next (s1.modCore c fun k =>
      k.setPview (passIdx p) { k.pview (passIdx p) with o := (k.pview (passIdx p)).o - 1 }))
    ∧ (n.rgen ≠ s.coreGen c → exec (.releaseNotice c p) s = .next s1))

/-- At a crossing the designated Waymarks are set to their LEVEL at the end of the beat and every other keeps its state, the arrivals crossed no
longer count as uncrossed, and an arrival with L advances LAYER by one; every channel sets H to T, so that its published inbound slots are veiled
and its outbound ones unlocked, and keeps its fills and its descriptors (R228, R262, R263, R265). -/
def Obligations.Crossing : Prop :=
  (∀ (k : Core) (i beat : Nat) (n : Fin 32), Sparse.Wf {} k.wms → Sparse.Wf {} k.pv →
    let t := k.crossIn i beat
    ((k.wm n).desig = true → (k.wm n).at_ ≤ beat → (t.wm n).shown = (k.wm n).level)
    ∧ ((k.wm n).desig = false → t.wm n = k.wm n)
    ∧ ((t.pview i).unc = 0 ∧ (t.pview i).o = (k.pview i).o ∧ t.crossAt = some beat)
    ∧ (t.layer = k.layer ∧ t.lstep = k.lstep ∧ t.sram = k.sram ∧ t.scal = k.scal ∧ t.tiles = k.tiles ∧ t.banks = k.banks ∧ t.pc = k.pc)) ∧
  (∀ (s : State) (c : CoreId) (i beat : Nat) (w : Option (Fin 32)) (pc : BitVec 15), Sparse.Wf {} s.cores →
    let v := (s.core c).pview i
    let t := s.endPass c i { w := w, s := none } pc beat true
    (t.core c).beat = beat + 1
    ∧ (v.uncL = false → (t.core c).layer = (s.core c).layer ∧ (t.core c).lstep = (s.core c).lstep)
    ∧ (v.uncL = true → (t.core c).layer = Nat.min ((s.core c).layer + 1) s.layerCount ∧ (t.core c).lstepIn beat = (s.core c).lstep)) ∧
  (∀ (k : Core) (n : Nat) (y : Chan) (i : Nat), n < 6 → Sparse.Wf {} k.chans → i < 16 →
    let z := y.cross n
    let gone := (List.range (y.t - y.h)).any fun j => decide (y.ringSlot (y.h + j) = i)
    k.doCross.chan n = (k.chan n).cross n ∧ z.h = y.t
    ∧ z.mask.getLsbD i = (if n < 4 then y.mask.getLsbD i || gone else y.mask.getLsbD i && !gone)
    ∧ { z with h := y.h, mask := y.mask } = y)

/-! ### Engine queues and fills -/

/-- Every matrix, vector and stream instruction is placed in its engine's queue with the values of the scalars that it names and, for the
vector engine, its count (R75, R80, R87, R101, R102, R105, R149, R230). -/
def Obligations.EnginesQueued : Prop :=
  (∀ (c : CoreId) (h : Hdr) (a : MmArgs) (wf opf : F8Fmt) (tern ls : Bool) (acc : Fin 8) (col : Fin 64) (t : Tile16) (df : RdFmt)
    (rnd : Rnd) (st : Reg),
    QueuesMm (.mmLw c h t ls) c (.lw t ls) h [] (fun _ => 0) (fun _ => 0)
    ∧ QueuesMm (.mmB16 c h a) c (.comp .b16 a) h [a.sa] (·.sc a.sa) (fun _ => 0)
    ∧ QueuesMm (.mmN2 c h tern a) c (.comp (.n2 tern) a) h [a.sa] (·.sc a.sa) (fun _ => 0)
    ∧ QueuesMm (.mmF8 c h wf opf a) c (.comp (.f8 wf opf) a) h [a.sa, a.ss] (·.sc a.sa) (·.sc a.ss)
    ∧ QueuesMm (.mmF4 c h a) c (.comp .f4 a) h [a.sa, a.ss] (·.sc a.sa) (·.sc a.ss)
    ∧ QueuesMm (.mmF4e c h a) c (.comp .f4e a) h [a.sa, a.ss] (·.sc a.sa) (·.sc a.ss)
    ∧ QueuesMm (.mmN3 c h a) c (.comp .n3 a) h [a.sa, a.ss] (·.sc a.sa) (·.sc a.ss)
    ∧ QueuesMm (.mmLa c h acc col t) c (.la acc col t) h [] (fun _ => 0) (fun _ => 0)
    ∧ ((MmOp.rd acc col t df rnd st).legal = true →
      (rnd = .dsr → QueuesMm (.mmRd c h acc col t df rnd st) c (.rd acc col t df rnd st) h [st] (·.sc st) (fun _ => 0))
      ∧ (rnd ≠ .dsr → QueuesMm (.mmRd c h acc col t df rnd st) c (.rd acc col t df rnd st) h [] (fun _ => 0) (fun _ => 0)))) ∧
  (∀ (c : CoreId) (h : Hdr) (ty : Ty) (rnd : Rnd) (vd va vb vm : Tile16) (b : OpB) (n : CountSrc) (r : Reg) (esc : Bool)
    (alu : AluFn) (fm : FmaFn) (un : UnFn) (cond : Cond) (dst : CvtDst) (red : RedFn) (seg : Option (Fin 13)) (tf : TredFn) (src : TredSrc),
    ((VeOp.alu alu ty rnd vd va b n).legal = true → QueuesVe (.veAlu c h alu ty rnd vd va b n) c (.alu alu ty rnd vd va b n) h)
    ∧ ((VeOp.fma fm ty rnd vd va b n).legal = true → QueuesVe (.veFma c h fm ty rnd vd va b n) c (.fma fm ty rnd vd va b n) h)
    ∧ ((VeOp.un un ty rnd vd va n).legal = true → QueuesVe (.veUn c h un ty rnd vd va n) c (.un un ty rnd vd va n) h)
    ∧ QueuesVe (.veCmp c h cond ty vd va b n) c (.cmp cond ty vd va b n) h
    ∧ QueuesVe (.veSel c h ty vd va vb vm n) c (.sel ty vd va vb vm n) h
    ∧ QueuesVe (.veCopy c h ty vd va n) c (.copy ty vd va n) h
    ∧ ((VeOp.bcast ty rnd vd b n).legal = true → QueuesVe (.veBcast c h ty rnd vd b n) c (.bcast ty rnd vd b n) h)
    ∧ ((VeOp.iota ty vd n).legal = true → QueuesVe (.veIota c h ty vd n) c (.iota ty vd n) h)
    ∧ QueuesVe (.veGets c h vd va esc) c (.gets vd va esc) h
    ∧ QueuesVe (.vePuts c h vd va esc) c (.puts vd va esc) h
    ∧ QueuesVe (.veLd c h ty vd r n) c (.ld ty vd r n) h
    ∧ QueuesVe (.veSt c h ty va r n) c (.st ty va r n) h
    ∧ ((VeOp.cvt ty dst rnd vd va r n).legal = true → QueuesVe (.veCvt c h ty dst rnd vd va r n) c (.cvt ty dst rnd vd va r n) h)
    ∧ ((VeOp.red red ty vd va seg n).legal = true → QueuesVe (.veRed c h red ty vd va seg n) c (.red red ty vd va seg n) h)
    ∧ QueuesVe (.veTred c h tf esc src vd va) c (.tred tf esc src vd va) h
    ∧ QueuesVe (.veCmpr c h ty vd va vb n) c (.cmpr ty vd va vb n) h
    ∧ QueuesVe (.veExpd c h ty vd va vb n) c (.expd ty vd va vb n) h) ∧
  (∀ (c : CoreId) (h : Hdr) (ch : Fin 6) (ch4 : Fin 4) (sh : Bool) (sa : Reg) (n : Fin 16),
    QueuesSt (.stArm c h ch sh sa) c (.arm ch sh sa) h [sa] (·.sc sa)
    ∧ QueuesSt (.stTail c h ch n) c (.tail ch n) h [] (fun _ => 0)
    ∧ QueuesSt (.stHead c h ch n) c (.head ch n) h [] (fun _ => 0)
    ∧ QueuesSt (.stCancel c h ch4) c (.cancel ch4) h [] (fun _ => 0))

/-- A fill starts by MM.LW order: the register as it stands is what it reads, and the next fill starts 32 beats later or after. In the beat after a
fill's last the writes held for its register take effect (R78, R91, R94, R131, R194, R200). That the set ceases to be ready at the fill's first
beat, and not at the dispatch of MM.LW, is the model's choice (log entry 101). -/
def Obligations.FillsStart : Prop :=
  (∀ (s : State) (c : CoreId) (x : LwItem) (ts : Tile16) (ls : Bool),
    let s1 := s.pumpUntil c.val fun k => k.fillable.isSome
    let f := (s1.core c.val).fillBeat x
    let s2 := s1.sync c.val (f - 1)
    (s1.core c.val).fillable = some x → x.ent.op = .lw ts ls → (s2.core c.val).engLive = true →
    exec (.fillStart c) s = .next (s2.modCore c.val fun k =>
      let t := k.engTile ts.val
      { k.setLatch ls { k.latch ls with ready := false } with
        lws := replaceFirst (fun y => y.fill.isNone) (fun y => { y with fill := some ⟨f, t, false⟩ }) k.lws
        fillNext := f + 32, xlkind := BitVec.ofNat 4 (hdrKind t.hdr), xltr := ts, lastDone := Nat.max k.lastDone f })) ∧
  (∀ (s : State) (c : CoreId) (ent : MmEnt) (disp : Nat) (f : FillRun),
    let s1 := s.syncIn c (f.start + 32)
    (s.core c).lws.find? LwItem.holding = some ⟨ent, disp, some f⟩ → (s1.core c).engLive = true →
    exec (.heldWritesRelease c) s = .next (s1.modCore c fun k => { k.releaseFill with lastDone := Nat.max k.releaseFill.lastDone (f.start + 32) }))

/-- The verdict of a fill comes 34 beats after its start. When every check of R196 passes, the set holds the expanded tile, is ready and MM.LW
signals; else the core halts with Tile Checksum Failure (causes 1 to 3) or Block Length Mismatch (causes 4 and 5), the expander registers say what
failed, and the set is not ready (R78, R195, R196, R197, R198, R200, R201). That SRC and E2 change in the ready beat alone is the model's choice
(log entry 130). -/
def Obligations.FillVerdicts : Prop :=
  (∀ (s : State) (c : CoreId) (ent : MmEnt) (disp : Nat) (f g : FillRun) (r q : List LwItem) (ts : Tile16) (ls : Bool),
    let b := f.start + 34
    let s1 := s.sync c.val (b - 1)
    let cause := fillCause f.tile (s.core c.val).tables
    let done (k : Core) : Core := (if g.released then k else k.releaseFill).noteDone b
    (s.core c.val).lws = ⟨ent, disp, some f⟩ :: r → ent.op = .lw ts ls → (s1.core c.val).engLive = true →
    (s1.core c.val).lws = ⟨ent, disp, some g⟩ :: q →
    (cause = 0 → exec (.fillVerdict c) s = .next
      (((s1.modCore c.val done).modCore c.val fun k =>
        ({ (k.countWait ls f.start b) with lws := k.lws.drop 1 }).fillReady ts ls f.tile b).signalHdr c.val ent.h 1 ent.pc b))
    ∧ (cause ≠ 0 → exec (.fillVerdict c) s = .next
      (((s1.modCore c.val done).modCore c.val fun k => (k.countWait ls f.start (b + 1)).fillFailed ts ls f.tile cause b).coreFault
        c.val b (if cause ≤ 3 then 0x0101 else 0x0102) (BitVec.ofNat 16 ent.pc.toNat) (BitVec.ofNat 32 (hdrTile f.tile.hdr)) f.tile.texp
        (BitVec.ofNat 32 (ts.val + 16 * b2n ls + 256 * cause)) (BitVec.ofNat 32 b)))) ∧
  (∀ (k : Core) (ts : Tile16) (ls : Bool) (t : Tile) (r cause i : Nat),
    let x := expand t (sget 0 k.tables (hdrTable t.hdr))
    let l := (k.fillReady ts ls t r).latch ls
    let m := k.fillFailed ts ls t cause r
    (l.src = ts ∧ l.readyAt = r ∧ l.e2 = escTwo x.2.2.1 ∧ (k.fillRuns ls = false → l.ready = true))
    ∧ (x.1.length = 4096 → x.2.1.length = 256 → x.2.2.1.length = 1024 → i < 5376 → rdByte l.bytes i = (x.1 ++ x.2.1 ++ x.2.2.1).getD i 0)
    ∧ (k.fillReady ts ls t r).latch (!ls) = k.latch (!ls)
    ∧ (m.xfail = true ∧ m.xcause = BitVec.ofNat 3 cause ∧ m.xftr = ts ∧ m.xfls = ls ∧ m.xftile = BitVec.ofNat 32 (hdrTile t.hdr)
      ∧ (m.latch ls).ready = (k.latch ls).ready ∧ (m.latch ls).bytes = (k.latch ls).bytes))

/-- The next completion of each unit of a core takes place at the beat that the rules fix, and the instruction's Waymark is signalled in it
(R88, R89, R92, R95, R129, R130, R148, R231). -/
def Obligations.UnitsComplete : Prop :=
  ∀ (s : State) (c : CoreId), (s.core c).runs = true →
    (∀ b, (s.core c).nextDue = some b → exec (.instructionCompletion c .control) s = .next ((s.pump c (b - 1)).settle c b))
    ∧ (∀ (x : CmpItem) (r : List CmpItem) (b : Nat),
      let s1 := s.pumpUntil c fun k => k.cmps.any fun x => x.start.isSome
      let s2 := s1.sync c (b + x.busy + 2)
      (s1.core c).cmps = x :: r → x.start = some b → (s2.core c).engLive = true →
      exec (.instructionCompletion c .laneRow) s = .next ((s2.modCore c fun k =>
        { k with lastDone := Nat.max k.lastDone (b + x.busy + 3), cmps := k.cmps.drop 1 }).signalHdr c x.ent.h 1 x.ent.pc (b + x.busy + 3)))
    ∧ (∀ (x : RdItem) (r : List RdItem) (b : Nat),
      let s1 := s.pumpUntil c fun k => k.rds.any fun x => x.start.isSome
      let s2 := s1.sync c (b + x.len - 1)
      (s1.core c).rds = x :: r → x.start = some b → (s2.core c).engLive = true →
      exec (.instructionCompletion c .readout) s = .next ((s2.modCore c fun k =>
        { k with lastDone := Nat.max k.lastDone (b + x.len), rds := k.rds.drop 1, bankAt := sset 0 k.bankAt x.accIdx (b + x.len) }).signalHdr
          c x.ent.h 1 x.ent.pc (b + x.len)))
    ∧ (∀ (x : VeItem),
      let s1 := s.pumpUntil c Core.veSettled
      let s2 := s1.sync c (x.done - 1)
      firstDone (s1.core c).ves = some x → (s2.core c).engLive = true →
      exec (.instructionCompletion c .vector) s = .next ((s2.modCore c fun k => { k with
          lastDone := Nat.max k.lastDone x.done
          ves := k.ves.filter fun y => decide (y.ent.seq ≠ x.ent.seq)
          vc := (x.vc.map (BitVec.ofNat 13)).getD k.vc
          veDone := x.regs.foldl (fun m r => sset 0 m r x.done) k.veDone }).signalHdr c x.ent.h 2 x.ent.pc x.done))
    ∧ (∀ (x : StItem) (r : List StItem) (b : Nat),
      let s1 := s.pumpUntil c fun k => k.sts.any fun x => x.start.isSome && x.todo.isEmpty
      let s2 := s1.sync c (b + x.occ - 1)
      let s3 := (s2.modCore c fun k => { k with lastDone := Nat.max k.lastDone (b + x.occ), sts := k.sts.drop 1 }).streamDone c x (b + x.occ)
      (s1.core c).sts = x :: r → x.start = some b → x.todo = [] → (s1.core c).runs = true → (s2.core c).runs = true →
      (s3.core c).runs = true →
      exec (.instructionCompletion c .stream) s = .next (s3.signalHdr c x.ent.h 3 x.ent.pc (b + x.occ)))

/-! ### Stream channels -/

/-- What ST.TAIL and ST.HEAD do to the pointers, the veils and the locks of their channel at completion, and when a descriptor gives way to its
shadow; ST.ARM: a free position takes the descriptor, on an idle channel whose head equals its tail with its ring and every pointer at zero, an
occupied one ignores it and counts it; ST.CANCEL: the channel is idle, F is T, the generation goes on and the unpublished slots are discarded and
zeroed (R212 to R215, R221 to R224, R226). That a stream fault of ST.TAIL or ST.HEAD falls in the beat before its completion is the model's reading
(log entry 18), and so is what a cancel discards before any descriptor has been active (log entry 127). -/
def Obligations.StreamPointers : Prop :=
  (∀ (s : State) (c : Nat) (x : StItem) (beat : Nat) (ch : Fin 6) (n : Fin 16) (sh : Bool) (sa : Reg),
    let y := (s.core c).chan ch
    let d := parseDesc x.desc ((s.core c).lstepIn beat) x.ent.pc 0
    let why := descCheck (s.core c) x.desc (decide (ch.val < 4)) d
    let put (z : Chan) : State := s.modCore c fun k => k.modChan ch fun _ => z
    (x.ent.op = .tail ch n → x.bad = 0 → s.streamDone c x beat = put (if ch.val < 4 then y.tailIn (n.val + 1) else y.tailOut (n.val + 1)))
    ∧ (x.ent.op = .head ch n → x.bad = 0 → s.streamDone c x beat = put (if ch.val < 4 then y.headIn (n.val + 1) else y.headOut (n.val + 1)))
    ∧ (x.ent.op = .tail ch n ∨ x.ent.op = .head ch n → x.bad ≠ 0 →
      s.streamDone c x beat = s.streamFault c 0x0104 ch x.bad x.ent.pc (beat - 1))
    ∧ (x.ent.op = .arm ch sh sa → (if sh then y.shadow.isSome else y.active.isSome) = true →
      s.streamDone c x beat = put { y with ign := sat16 y.ign 1 })
    ∧ (x.ent.op = .arm ch sh sa → (if sh then y.shadow.isSome else y.active.isSome) = false →
      (why ≠ 0 → s.streamDone c x beat = s.streamFault c 0x0103 ch why x.ent.pc beat)
      ∧ (why = 0 → ¬ (y.active = none ∧ y.h = y.t) → d.geo ≠ y.geo → s.streamDone c x beat = s.streamFault c 0x0103 ch 7 x.ent.pc beat)
      ∧ (why = 0 → y.active = none → y.h = y.t → s.streamDone c x beat = put { y with
          geo := d.geo, h := 0, t := 0, f := 0, active := some d
          mask := if ch.val < 4 then BitVec.ofNat 16 (2 ^ (d.nslot + 1) - 1) else 0 })
      ∧ (why = 0 → y.active = none → y.h ≠ y.t → d.geo = y.geo → s.streamDone c x beat = put { y with active := some { d with first := y.t } })
      ∧ (why = 0 → y.active.isSome = true → d.geo = y.geo → s.streamDone c x beat = put { y with shadow := some d }))) ∧
  (∀ (y : Chan) (n i : Nat), i < 16 →
    let at_ (p : Nat) : Bool := (List.range n).any fun j => decide (y.ringSlot (p + j) = i)
    let a := y.tailIn n
    let b := y.headIn n
    let p := y.tailOut n
    let q := y.headOut n
    (a.t = y.t + n ∧ a.h = y.h ∧ a.f = Nat.max y.f (y.t + n) ∧ a.mask.getLsbD i = (y.mask.getLsbD i && !at_ y.t) ∧ a.outs = y.outs)
    ∧ (b.h = y.h + n ∧ b.mask.getLsbD i = (y.mask.getLsbD i || at_ y.h) ∧ { b with h := y.h, mask := y.mask } = y)
    ∧ (p.t = y.t + n ∧ p.h = y.h ∧ p.f = y.f ∧ p.mask.getLsbD i = (y.mask.getLsbD i || at_ y.t)
      ∧ p.outs.map (·.n) = y.outs.map (·.n) ++ (List.range n).map (y.t + ·))
    ∧ (q.h = y.h + n ∧ q.mask.getLsbD i = (y.mask.getLsbD i && !at_ y.h) ∧ { q with h := y.h, mask := y.mask } = y)) ∧
  (∀ (y : Chan) (n : Nat) (a b : Desc) (z : Chan), z = y.tailIn n ∨ z = y.tailOut n → y.active = some a →
    (y.t + n < a.first + a.slots → z.active = some a ∧ z.shadow = y.shadow)
    ∧ (a.first + a.slots ≤ y.t + n → y.shadow = none → z.active = none ∧ z.shadow = none)
    ∧ (a.first + a.slots ≤ y.t + n → y.shadow = some b → y.t + n < a.first + a.slots + b.slots →
      z.active = some { b with first := a.first + a.slots } ∧ z.shadow = none)) ∧
  (∀ (k : Core) (x : StItem) (r : List StItem) (ch : Fin 4) (b i o : Nat), Sparse.Wf {} k.chans → k.sts = x :: r → x.ent.op = .cancel ch →
    let y := k.chan ch
    let disc := y.h + y.geo.nslot + 1 - y.t
    (y.staleBlocks = true → (k.doStartSt b).status = .parked .cancel ∧ (k.doStartSt b).chans = k.chans)
    ∧ (y.staleBlocks = false → y.geo.nslot ≠ 0 →
      (k.doStartSt b).chan ch = { y with active := none, shadow := none, f := y.t, gen := y.gen + 1, disc := sat16 y.disc disc }
      ∧ (i < disc → o < y.geo.slotBytes → ∃ w, (k.doStartSt b).sts = w :: r
        ∧ ∃ z ∈ w.zap, b < z.1 ∧ z.1 < b + w.occ ∧ z.2.1 = y.ringSlot (y.t + i) ∧ z.2.2.1 ≤ o ∧ o < z.2.2.1 + z.2.2.2.1)))

/-- Slots fill in order and each of a slot's transfers holds one credit while it is outstanding; the completion of a fill ends its last transfers,
writes zeros where the slot has no granules, and F passes it; the response of a cancelled fill writes nothing and frees its credit (R205,
R210, R216, R218, R219, R227, R455). That a slot's transfers have one start and one completion, with what their first reads leave read and written at
the completion, is the model's reading (log entries 19 and 128). -/
def Obligations.SlotFills : Prop :=
  (∀ (s : State) (c : CoreId) (ch : Fin 4) (n : Nat) (d : Desc) (f : SlotFill),
    let x := (s.core c).chan ch
    (s.fillSlot c ch = some (n, d) → (s.core c).moving = true →
      let e := s.eachFill c ch (fun s f => State.runFill fillFuel s c ch 1 f) x.fills
      let s2 := e.1.setFills c ch e.2
      let y := (s2.core c).chan ch
      let z := State.startXfers (s2.freeCredits c ch) s2 c
        { n := n, gen := y.gen, rgen := s.coreGen c, out := [], next := 0, count := (d.slotXfers n).length, desc := d }
      exec (.slotFillStart c ch) s = .next (z.1.setFills c ch (y.fills ++ [z.2])))
    ∧ (s.fillSlot c ch = some (n, d) → (s.core c).crossAt = none →
      n = x.f + x.liveFills.length ∧ d.region ≠ 0 ∧ n < x.h + x.geo.nslot + 1 ∧ n < x.t + d.lead + 1 ∧ s.gateOpen c d = true)
    ∧ (x.fills.find? x.isLive = some f → f.rgen = s.coreGen c → f.n = x.f →
      let e := State.runFill fillFuel s c ch 0 f
      let s2 := e.1.modCore c fun k => (k.writeSlot ch x.geo (x.ringSlot f.n) (e.2.desc.padPieces e.2.count)).modChan ch fun x =>
        { x with fills := x.fills.erase f, f := x.f + 1 }
      let z := s2.eachFill c ch (fun s f => State.startXfers (s.freeCredits c ch) s c f) ((s2.core c).chan ch).fills
      exec (.slotFillComplete c ch) s = .next (z.1.setFills c ch z.2))
    ∧ (x.fills.find? x.isLive = none → exec (.slotFillComplete c ch) s = .next s)
    ∧ exec (.staleFillAbsorbed c ch) s = .next (s.modCore c fun k => k.modChan ch fun x => x.absorb fun f => !x.isLive f).startResets) ∧
  (∀ (s : State) (c : CoreId) (ch : Fin 4) (f : SlotFill) (y : Xact),
    let x := (s.core c).chan ch
    (f.next = f.count → f.out = [y] → State.runFill fillFuel s c ch 0 f
      = (s.modCore c fun k => k.writeSlot ch x.geo (x.ringSlot f.n) [f.desc.piece f.n (s.xferRest c y)], { f with out := [] }))
    ∧ (f.next < f.count →
      (State.startXfers 1 s c f).2.out = f.out ++ [s.xferStart c f.desc ((f.desc.slotXfers f.n).getD f.next 0) f.next]
      ∧ (State.startXfers 1 s c f).2.next = f.next + 1)) ∧
  (∀ (x : Chan) (p : SlotFill → Bool) (f : SlotFill), x.fills.find? p = some f →
    (f.out.length ≤ 1 → x.absorb p = { x with fills := x.fills.erase f })
    ∧ (1 < f.out.length → (x.absorb p).outstanding + x.fills.count f = x.outstanding))

/-- A handed-over slot leaves in granules: to LPDDR within the run's ranges, or to a send slot whose valid bits it sets, after the send of that
slot when it falls in the same step; then F passes it. A halted core, and one whose job has stopped, sends nothing; a slot that was issued before
a reset of its core writes what it held then and moves no pointer (R197, R224, R229, R283, R369, R385, R456). Which parts of a core's halt reach
its outbound slots is the model's reading (log entry 31). -/
def Obligations.OutboundSlots : Prop :=
  ∀ (s : State) (c : CoreId) (o : Fin 2) (w : OutSlot) (r : List OutSlot) (p : Nat) (d : List Byte) (g : BitVec 4) (data : List (List Byte)),
    let k := s.core c
    let x := k.chan (4 + o.val)
    let grains := w.xfers.flatMap fun t => (List.range t.2.2).map fun i => (t.1 + 64 * i, t.2.1 + 64 * i)
    let s0 := w.xfers.foldl (fun s t => if t.1 / 2 ^ 44 = 2 then s.useTurns .write (t.1 % 2 ^ 44) (64 * t.2.2) else s) s
    (x.outs = w :: r → w.old = none → (s.core c).status ≠ .halted → s.runHolds = true → exec (.outboundSlotSent c o) s = .next
      ((grains.foldl (fun s g => s.writeGranule g.1 (k.slotBytes (4 + o.val) x.geo (x.ringSlot w.n) g.2 64)) s0).modCore c fun k =>
        k.modChan (4 + o.val) fun x => { x with outs := r, f := x.f + 1 }))
    ∧ (x.outs = w :: r → w.old = none → (s.core c).status = .halted ∨ s.runHolds = false → exec (.outboundSlotSent c o) s = .next s)
    ∧ (x.outs = w :: r → w.old = some (g, data) → exec (.outboundSlotSent c o) s = .next
      (((grains.zip data).foldl (fun s e => s.writeGranule e.1.1 e.2) s0).modCore c fun k =>
        k.modChan (4 + o.val) fun x => { x with outs := r }))
    ∧ (p / 2 ^ 44 = 2 → inRanges s.writeRanges (p % 2 ^ 44) 64 = true →
      s.writeGranule p d = { s with lpddr := wrBytes s.lpddr (p % 2 ^ 44) d })
    ∧ (p / 2 ^ 44 = 2 → inRanges s.writeRanges (p % 2 ^ 44) 64 = false → (s.writeGranule p d).lpddr = s.lpddr)
    ∧ (p / 2 ^ 44 ≠ 2 → s.writeGranule p d
      = s.modSendSlot (sendPlace p).1 (sendPlace p).2.1 fun y => y.take s.ring.ms (s.sendDue (sendPlace p).1 (sendPlace p).2.1) (sendPlace p).2.2 d)
    ∧ (∀ (y : SendSlot) (ms off : Nat), y.late = [] →
      (y.take ms false off d).valid.getLsbD (off / 64) = decide (off / 64 < 4096) ∧ (y.take ms true off d).valid = y.valid
      ∧ (y.take ms true off d).late = [(ms, off, d)] ∧ y.sent.valid = 0)

/-! ### Parking, program end, deadlock -/

/-- A parked core resumes when what it waits for holds: the slots of ST.TAIL and ST.HEAD are filled or sent, the release of its Pass has come, its
outbound channels have sent what they were handed, or no fill carries the generation that its cancel would produce; CORE_PARKT counts its parked
time (R153, R154, R170, R221, R224, R227, R228, R258). -/
def Obligations.ParkedCoreResumes : Prop :=
  ∀ (s : State) (c : CoreId) (ns i : Nat) (l r e : Bool) (h : Hdr) (pc : BitVec 15) (ch : Nat),
    let k := s.core c
    let s1 := s.modCore c fun k => { k with status := .running, parkt := sat32 k.parkt ns }
    (k.status = .parked .tail ∨ k.status = .parked .head → k.streamReady = true → exec (.coreResume c ns) s = .next s1)
    ∧ (k.status = .parked .tail ∨ k.status = .parked .head → k.streamReady = false → exec (.coreResume c ns) s = .next s)
    ∧ (k.status = .parked (.pass i h pc) → (k.pview i).o = 0 →
      exec (.coreResume c ns) s = .next (s1.endPass c i h pc k.beat (decide ((k.pview i).unc ≠ 0))))
    ∧ (k.status = .parked (.pass i h pc) → (k.pview i).o ≠ 0 → exec (.coreResume c ns) s = .next s)
    ∧ (k.status = .parked (.arrive i l r e h pc) → k.mayArrive = true →
      exec (.coreResume c ns) s = .next ((s1.arrive c i l r pc).afterArrive c i e h pc k.beat))
    ∧ (k.status = .parked .cancel → k.cancelReady = some ch → exec (.coreResume c ns) s = .next
      (s.modCore c fun k => ({ k with status := .running, parkt := sat32 k.parkt ns }).lateCancel ch))
    ∧ (k.status = .parked .cancel → k.cancelReady = none → exec (.coreResume c ns) s = .next s)

/-- The program of a core ends when CC.HALT has issued and every engine instruction has completed; its beat count is the later of the two
beats plus one, and then the Passes that the core has left incomplete break. A deadlock of Waymarks halts the core and raises Waymark Deadlock, but
not while core debug is unlocked (R150, R251, R269, R271). That the core then holds no program, and that the signals up to its last beat still
fall, is the model's reading (log entries 28 and 29). -/
def Obligations.ProgramEnds : Prop :=
  (∀ (s : State) (c : CoreId),
    let e := Nat.max ((s.core c).haltAt.getD 0) (s.core c).lastDone
    let s0 := s.settle c e
    ((s.core c).programDone = true → (s0.core c).runs = true →
      exec (.programEnd c) s = .next ((s0.modCore c Core.endProgram).checkEnded [c.val / 128, 16, 17, 18, 19]))
    ∧ ((s.core c).programDone = false → exec (.programEnd c) s = .next s)
    ∧ ((s.core c).endProgram.beats = some (e + 1) ∧ (s.core c).endProgram.status = .none)) ∧
  (∀ (s : State) (c : CoreId), (s.core c).deadlocked = true →
    (s.trust.dbg = false → exec (.waymarkDeadlock c) s = .next (s.coreFault c (s.core c).deadBeat 0x0106 0xFFFF (s.core c).wymWait 0xFFFFFFFF
      0xFFFFFFFF (BitVec.ofNat 32 (s.core c).deadBeat)))
    ∧ (s.trust.dbg = true → exec (.waymarkDeadlock c) s = .next s))

/-! ### Debug -/

/-- While a core is mapped by a mailbox of the expert level, the registers of its page act: VALUE and scalars only with core debug unlocked, a
debug signal waits for the fence that is set before it, DBGFENCE sets BUSY until every earlier write has taken effect. A write of VALUE replaces
the start value less the takes and the signals of the beat are added to it; a write of a scalar falls after the results that are available; a
debug signal leaves ENG and PC. A read returns the bytes of the mapped core, zeros of a core that no partition of this part has; with no core
shown it is answered with Completer Abort, counted and logged, and a register access that is not whole words is an Unsupported Request (R2, R14,
R152, R171, R249, R255, R272, R427, R430). In which beat of its core an access falls is the model's choice (log entry 131). -/
def Obligations.DebugWindow : Prop :=
  (∀ (s : State) (c : CoreId) (m : MbxId) (rid : BitVec 16) (v : Word32) (n : Fin 32) (r : Reg) (hi : Bool),
    s.boot.ready = true → s.host.mapped = some (c.val, m) → s.expertLevel m.val = true → s.inReset c = false →
    let t := s.sync c ((s.core c).now - 1)
    (t.trust.dbg = true → exec (.wymValWrite n v rid) s = .next (t.writeWm c n v)
      ∧ exec (.scalarDebugWrite r hi v rid) s = .next (t.modCore c fun k =>
        let k1 := k.settleRes k.now
        k1.setSc r (if hi then v ++ (k1.sc r).truncate 32 else (k1.sc r >>> 32).truncate 32 ++ v))
      ∧ exec (.wymSignal v rid) s = .next (t.writeSignal c (Fin.ofNat 32 v.toNat)))
    ∧ (t.trust.dbg = false → exec (.wymValWrite n v rid) s = .next t ∧ exec (.scalarDebugWrite r hi v rid) s = .next t
      ∧ exec (.wymSignal v rid) s = .next t)
    ∧ exec (.wymDbgfence v rid) s = .next (t.modCore c fun k => { k with fence := k.fence || v.getLsbD 0 })
    ∧ exec .debugFenceDone s = .next ((s.cores.map (·.1)).foldl (fun s c => s.fenceOver c) s)) ∧
  (∀ (s : State) (c : CoreId) (n : Fin 32) (v : Word32),
    let b := (s.core c).now
    let s1 := (s.sync c (b - 1)).modCore c fun k => k.signalDbg n b
    let s2 := s.modCore c fun k => k.writeValue n (v.truncate 12) b
    ((s1.core c).tops b n = false → s.debugSignal c n = s1) ∧ ((s1.core c).tops b n = true → s.debugSignal c n = s1.wmOverflow c b)
    ∧ ((s2.core c).tops b n = false → s.writeWm c n v = s2) ∧ ((s2.core c).tops b n = true → s.writeWm c n v = s2.wmOverflow c b)
    ∧ (∀ k : Core, Sparse.Wf {} k.wms →
      let w := (k.wm n).roll b
      (k.writeValue n (v.truncate 12) b).wm n = { w with wr := some (v.truncate 12) }
      ∧ ((k.writeValue n (v.truncate 12) b).wm n).shown
        = (if w.re then w.level else BitVec.ofNat 12 (Nat.min (v.toNat % 4096 + w.add) 4095))
      ∧ (k.signalDbg n b).wm n = { w with add := w.add + 1, dbg := true, any := true } ∧ w.eng = (k.wm n).eng ∧ w.pc = (k.wm n).pc)
    ∧ ((s.core c).fence = true → s.writeSignal c n = s.modCore c fun k => { k with fence := true, sigWait := k.sigWait ++ [n] })
    ∧ ((s.core c).fence = true → (s.core c).windowHeld = true → s.fenceOver c = s)
    ∧ ((s.core c).fence = true → (s.core c).windowHeld = false → (s.core c).sigWait = [n] → s.trust.dbg = true →
      s.fenceOver c = (s.setCore c { (s.core c).endFence with sigWait := [] }).debugSignal c n)) ∧
  (∀ (s : State) (off n : Nat) (rid : BitVec 16), s.alive = true → off + n ≤ 0x1000000 →
    (onPage off n = true ∧ (off % 4 ≠ 0 ∨ n % 4 ≠ 0 ∨ off < pageBase ∨ pageBase + 0x10000 < off + n) →
      exec (.debugWindowAccess (.read off n) rid) s = .next (s.unsupported (BitVec.ofNat 32 ((0x1000000 + off) % 2 ^ 32)) rid))
    ∧ (¬ (onPage off n = true ∧ (off % 4 ≠ 0 ∨ n % 4 ≠ 0 ∨ off < pageBase ∨ pageBase + 0x10000 < off + n)) →
      (s.boot.ready = false → exec (.debugWindowAccess (.read off n) rid) s = .next { s with sent := s.sent ++ [.readData (zeros n)] })
      ∧ (s.boot.ready = true → s.windowCore = none → exec (.debugWindowAccess (.read off n) rid) s = .next
        ((({ s with host := { s.host with cfg := { s.host.cfg with aerAbort := true } } }).windowDenied off rid).emit .completerAbort))
      ∧ (∀ c, s.boot.ready = true → s.windowCore = some c → s.inReset c = false →
        exec (.debugWindowAccess (.read off n) rid) s = .next
          { s with sent := s.sent ++ [.readData (if c = absentCore then zeros n
            else (List.range n).map fun i => (s.core c).atNow.windowByte (off + i))] })))

/-! ### The ring -/

/-- LND_STEP of a partition goes on by one when every landing up to the next step has been written, the Milestone by one at the end of each
step, in which the ports' frames go out and the words of the run are repeated; it stands still while the module is held in reset. A core that has
not crossed the closing Pass of a layer at its DEADLINE raises Schedule Overrun, and so does a partition whose gate is missed, in the step in
which the job stops too, but for a layer with a step timeout (R167, R168, R235, R237, R243, R254, R276, R277, R465, R510). That LND_OVR counts
one for each GATE_MISS, whose late cores note reason 0xD together, is the model's choice (log entry 106). -/
def Obligations.StepsAdvance : Prop :=
  (∀ (s : State) (p : Fin 16),
    (s.runHolds = true → p.val < s.nparts → (s.part p).step + 1 ≤ s.schedStep → s.landingMissing p ((s.part p).step + 1) = false →
      exec (.lndStepAdvance p) s = .next (s.modPart p fun x => { x with step := x.step + 1 }))
    ∧ (¬ (s.runHolds = true ∧ p.val < s.nparts ∧ (s.part p).step + 1 ≤ s.schedStep ∧ s.landingMissing p ((s.part p).step + 1) = false) →
      exec (.lndStepAdvance p) s = .next s)
    ∧ (s.alive = true → exec .milestoneAdvance s = .next s.nextStep.repeatWords.queueLost ∧ s.nextStep.ring.ms = s.ring.ms + 1)
    ∧ (s.alive = false → exec .milestoneAdvance s = .next s)
    ∧ (s.alive = true → s.run.stopLeft = 0 → s.run.declLeft = 0 → s.run.words = [] → s.runHolds = false → s.err.lostOwed = false →
      (∀ q < 4, (s.port q).trained = false ∧ (s.port q).st ≠ .ready) →
      exec .milestoneAdvance s = .next { s with ring := { s.ring with ms := s.ring.ms + 1 } })) ∧
  (∀ (s : State) (p : Fin 16) (c n ch : Nat) (pc : BitVec 15) (r : List (Nat × Nat × BitVec 15)), s.runInStep = true →
    (s.lateCore = some (c, n) → s.layerTimedOut n = false ∧ exec .scheduleOverrun s = .next (s.raise
      { code := 0x0201, unit := s.coreUnit c, ctx := BitVec.ofNat 8 s.run.ctx.val, layer := BitVec.ofNat 16 n, a1 := 0 }))
    ∧ (s.lateCore = none → exec .scheduleOverrun s = .next s)
    ∧ (s.lateCores p = (c, ch, pc) :: r → s.layerTimedOut (s.core c).layer = false ∧ exec (.gateMiss p) s = .next
      (((((c, ch, pc) :: r).foldl (fun s x => s.modCore x.1 fun k => if k.stmFault.getLsbD 31 then k else { k with
          stmFault := BitVec.ofNat 32 (2 ^ 31 + x.2.1 * 2 ^ 28 + 0xD * 2 ^ 24), stmFaultPc := x.2.2 }) s).modPart p fun x =>
            { x with ovr := sat32 x.ovr 1, missed := ((c, ch, pc) :: r).map (·.1) ++ x.missed }).raise
        { code := 0x0201, unit := BitVec.ofNat 32 (0x20000000 + physPart s.boot.enabled p), ctx := BitVec.ofNat 8 s.run.ctx.val
          layer := BitVec.ofNat 16 (s.core c).layer, a1 := 1 }))
    ∧ (s.lateCores p = [] → exec (.gateMiss p) s = .next s))

/-- At its step a record of the ring plan sends: INJECT the stored parcel, read through the remote class of LPDDR, with its TAG, HOPS, DIR and
STEP, SEND a send slot whose granules are all valid, whose valid bits it clears; each lands its own parcel where PMASK says, and each that is not
ready raises Schedule Overrun, in the step in which the job stops too, when nothing is sent any more (R281, R283, R289, R290, R293, R369, R465).
That an INJECT that is not ready takes no turn of LPDDR is the model's choice (log entry 118). -/
def Obligations.PlanSends : Prop :=
  ∀ (s : State) (r : Nat) (x : PlanRec),
    let q := x.port.toNat
    let b := s.storedParcel x
    let y := (s.sendSlot q (x.src % 16)).settle s.ring.ms
    let read := s.useTurns .remote (s.storedAt x) b.length
    let done (s : State) : State := { s with ring := { s.ring with sentRecs := r :: s.ring.sentRecs } }
    (s.dueNow r 0 = some x → s.storedOk x b = true →
      let w := parInject b s.runTag (x.hops - 1) q s.schedStep
      (s.runHolds = true → exec (.inject r true) s = .next (((done read).sendParcel q w).land x w))
      ∧ (s.runHolds = false → exec (.inject r true) s = .next read))
    ∧ (s.dueNow r 0 = some x → exec (.inject r false) s = .next (s.sendOverrun r x 2))
    ∧ (s.dueNow r 0 = some x → s.storedOk x b = false → exec (.inject r true) s = .next (read.mismatch (some r) q b))
    ∧ (s.dueNow r 1 = some x → (∀ g < x.ngran, y.valid.getLsbD g = true) →
      let w := sendHeader s.runTag s.run.ctx.val s.run.edition.toNat x s.schedStep ++ rdBytes y.bytes 0 (64 * x.ngran)
      (s.runHolds = true → exec (.send r) s = .next
        ((((done (s.modSendSlot q (x.src % 16) fun z => (z.settle s.ring.ms).sent))).sendParcel q w).land x w))
      ∧ (s.runHolds = false → exec (.send r) s = .next s))
    ∧ (s.dueNow r 1 = some x → (∃ g < x.ngran, y.valid.getLsbD g = false) → exec (.send r) s = .next (s.sendOverrun r x 3))
    ∧ (s.dueNow r 0 = none → ∀ z, exec (.inject r z) s = .next s) ∧ (s.dueNow r 1 = none → exec (.send r) s = .next s)

/-- An arriving parcel that is not the running tag's goes to the Detour of a transit entry or is a stray; one of the running tag is matched to
its record. A bad header is dropped, counted and logged as a link event; a port that is not READY takes none; once the job has stopped, parcels of
its tag are dropped without counting, but for one whose record has met Step Timeout or meets it in the step of the stop (R280, R291, R294, R337,
R341, R359, R361, R369). The code of the link event is a free value and its class INFO the model's choice (log entry 39); what a parcel after the
stop does is the model's reading (log entries 40 and 109). -/
def Obligations.ParcelsArrive : Prop :=
  ∀ (s : State) (q : PortId) (b : List Byte),
    let s1 := s.modPort q fun p => { p with prx := p.prx + 1 }
    ((s.port q).st = .ready → allZero (b.take 64) = false → parCrcOk b = true → s.runHolds = true → s.isRunTag (parTag b) = true →
      exec (.parcelArrival q b) s = .next (s1.matchParcel q b) ∧ exec (.detourArrival q b) s = .next s)
    ∧ ((s.port q).st = .ready → allZero (b.take 64) = false → parCrcOk b = true → s.isRunTag (parTag b) = false →
      exec (.detourArrival q b) s = .next (if s.takesTransit q (parTag b) then s1.detourIn q (parTag b) b else s1.stray q (parTag b)))
    ∧ ((s.port q).st = .ready → allZero (b.take 64) = false → parCrcOk b = false →
      let s2 := ({ s with ring := { s.ring with hdrdrop := sat32 s.ring.hdrdrop 1 } }).logLink q
      exec (.parcelArrival q b) s = .next s2 ∧ exec (.detourArrival q b) s = .next s2)
    ∧ ((s.port q).st ≠ .ready → exec (.parcelArrival q b) s = .next s ∧ exec (.detourArrival q b) s = .next s)
    ∧ (s.run.phase = .idle → s.run.stopped = true → parCrcOk b = true → parTag b = s.runTag → parTag b ≠ 0 → (s.port q).st = .ready →
      exec (.parcelArrival q b) s = .next (s.lateParcel q b)
      ∧ (s.ring.timedOut = [] → s.stoppedNow = false → exec (.parcelArrival q b) s = .next s))

/-- A matched RECVF parcel leaves by the opposite Causeway port in the step after its own with one hop less; a record that stays unmatched
raises Step Timeout when its time has run out, and a forward that is lost at once, in the step in which the job stops too; a parcel that first
arrives later is landed and, of a RECVF record, forwarded after Step Timeout. The oldest parcel of a Detour buffer leaves on OUTP in a frame whose
phase its entry owns, with STEP moved on by the steps it has waited (R281, R286, R292, R294, R361, R465). Landing and forwarding after Step
Timeout, the step of a lost forward, and the phase and Spine crossing of a Detour are the model's readings (log entries 109, 38 and 91). -/
def Obligations.ForwardsAndDetours : Prop :=
  (∀ (s : State) (r : Nat) (x : PlanRec) (f : Forward) (q : PortId) (b : List Byte), s.planRec r = some x →
    (s.runHolds = true → s.ring.forwards.find? (fun f => decide (f.rix = r)) = some f → s.schedStep = s.recStep x + 1 →
      exec (.recvfForward r) s = .next ({ s with ring := { s.ring with forwards := s.ring.forwards.erase f } }.sendParcel
        (if x.port = 0 then 1 else 0) (parForward f.bytes (parHops f.bytes - 1) s.schedStep)))
    ∧ (r ∉ s.ring.matched → r ∉ s.ring.timedOut → 2 ≤ x.act →
      let late := decide (s.recStep x + s.layerTimeout x.layer ≤ s.schedStep)
      let lost := decide (x.act = 3) && decide (s.recStep x + 2 ≤ s.schedStep)
      (s.runInStep = true → late = true → exec (.stepTimeout r) s = .next (s.stepTimeoutOf r x false))
      ∧ (s.runInStep = true → lost = true → exec (.forwardSlotLost r) s = .next (s.stepTimeoutOf r x true))
      ∧ (s.recvRec q (parStep b) = some r → s.differs x b = false →
        (late = false → lost = false → s.matchParcel q b = State.land { s with ring := { s.ring with
          matched := r :: s.ring.matched, rx := s.ring.rx + 1
          forwards := if x.act = 3 then s.ring.forwards ++ [Forward.mk r b] else s.ring.forwards } } x b)
        ∧ (late = true ∨ lost = true → s.matchParcel q b = (s.stepTimeoutOf r x lost).landLate r x b)))
    ∧ (s.recvRec q (parStep b) = some r → s.differs x b = false → r ∉ s.ring.matched → r ∈ s.ring.timedOut →
      s.matchParcel q b = s.landLate r x b)
    ∧ (r ∈ s.ring.matched ∨ r ∈ s.ring.timedOut ∨ s.runInStep = false →
      exec (.stepTimeout r) s = .next s ∧ exec (.forwardSlotLost r) s = .next s)) ∧
  (∀ (s : State) (tag : BitVec 12) (em : Nat) (b : List Byte) (r : List (Nat × List Byte)),
    let e := s.route tag.toNat
    (s.detour tag.toNat).queue = (em, b) :: r → e.transit = true → (s.port e.outp).st = .ready → (s.port e.outp).lastTx ≠ s.ring.ms + 1 →
    em + 1 + crossTime e.laneCount ≤ s.ring.ms → bitOf (e.sphase e.outp) (s.ring.ms % 16) = true → (e.outp < 2 ∨ s.ring.ms % 4 = 0) →
    exec (.detourSend tag) s = .next ((s.modDetour tag.toNat fun d => { d with queue := r }).putParcel e.outp
      (parRestep b (lastStep e.inp b + (s.ring.ms - em)))))

/-! ### Control words and ports -/

/-- A control word whose CCRC fails or whose TYPE is not assigned is dropped and counted in CWDROP, whichever word is awaited, and a port that
is not trained takes none. TIME, IDENT, PASS, STOP and MSG words act as R340, R343, R345, R367 to R369 say. -/
def Obligations.ControlWords : Prop :=
  ∀ (s : State) (q : PortId) (w : List Byte) (p : Fin 64) (pos : Fin 22) (frac : BitVec 16) (i : Instr),
    let s1 := s.heard q w
    let b := wordBody w
    (i ∈ [.timeWordReceived q pos frac w, .identReceived q w, .passWordReceived q w, .stopReceived q w, .msgReceived q w, .ready q p p w,
        .fix q w, .bound q p p w, .go q w, .decline q p p w] →
      ((s.port q).trained = false → exec i s = .next s)
      ∧ ((s.port q).trained = true → wordOk w = false → exec i s = .next (s.modPort q fun p => { p with cwdrop := p.cwdrop + 1 })))
    ∧ (∀ t0, s.wordArrives q w (wordType w) →
      let s2 := s.heardAt q w frac.toNat
      let a := s.ring.ms * 65536 + frac.toNat
      ((s2.port q).sentBy q a (byteAt w 0x10) = some t0 →
        let d := (a - t0 - leAt w 0x14 4) / 2
        let t := leAt w 8 8 * 65536 + 188 * pos.val * (if q.val < 2 then 1 else 4) * 65536 / 4119
        exec (.timeWordReceived q pos frac w) s = .next
          ((s2.modPort q fun p => p.sample s.ring.ms ((a : Int) - (t : Int) - (d : Int)) d).afterSample q))
      ∧ ((s2.port q).sentBy q a (byteAt w 0x10) = none → exec (.timeWordReceived q pos frac w) s = .next s2))
    ∧ (s.wordArrives q w 1 → exec (.identReceived q w) s = .next (if (s1.port q).ident = some (parseIdent w) then s1
      else (s1.modPort q fun p => { p with ident := some (parseIdent w) }).checkPort q))
    ∧ (s.wordArrives q w 2 → s.isRunTag (wordTag w) = true → s.runHolds = true → exec (.passWordReceived q w) s = .next (s1.mergePass w))
    ∧ (s.wordArrives q w 3 → leAt b 0 4 = s.run.runid.toNat → s.run.runid ≠ 0 →
      (s.run.phase ≠ .idle ∧ wordTag w = s.runTag) ∨ (s.run.stopped = true ∧ wordTag w = s.run.stopTag) →
      exec (.stopReceived q w) s = .next
        (s1.remoteStop q (BitVec.ofNat 16 (leAt b 4 2)) s.run.runid (byteAt b 6) (byteAt b 7) (leAt b 8 8)))
    ∧ (∀ (code : BitVec 16) (x y : Byte) (n : Nat), eventKnown code = false → s.run.phase ≠ .idle →
      s.remoteStop q code s.run.runid x y n = s.stopAll code x.toNat y.toNat n)
    ∧ (∀ pl, s.wordArrives q w 4 → s.links.plan = some pl → ¬ (leAt b 0 1 = pl.pos ∧ leAt b 1 1 = pl.idx) →
      exec (.msgReceived q w) s = .next (s1.routeMsg pl (leAt b 0 1) (leAt b 1 1) b))
    ∧ (∀ pl j, s.wordArrives q w 4 → s.links.plan = some pl → leAt b 0 1 = pl.pos → leAt b 1 1 = pl.idx →
      (bitOf (leAt b 3 1) 0 = true → exec (.msgReceived q w) s = .next (s1.takeAck (byteAt b 2) b))
      ∧ (bitOf (leAt b 3 1) 0 = false → leAt b 4 4 ≠ 0xFFFFFFFF → s.jobs.find? (fun j => j.streams (byteAt b 2)) = some j →
        exec (.msgReceived q w) s = .next (s1.takeFragment j (byteAt b 2) j.repairs b)))

/-- When its own participants are complete and its sends of the layer have left, a module reports its arrival at a ring Pass: its position goes
into POSMASK, its ring into RINGMASK once every position of the ring is there, and a PASS word out (R264, R367). -/
def Obligations.RingPassReports : Prop :=
  ∀ (s : State) (m : Fin 4),
    let x := s.pass (16 + m.val)
    let s1 := s.modPass (16 + m.val) fun x => { x with reported := true, pos := x.pos ||| BitVec.ofNat 64 (2 ^ s.myPos) }
    (s.runHolds = true → x.ring = true → x.reported = false → x.arr = (s.participants (16 + m.val)).length → s.sendOwed = false →
      exec (.ringPassReport m) s = .next (((s1.fullRing m).sendPass m).completePass (16 + m.val)))
    ∧ (x.ring = false ∨ x.reported = true ∨ x.arr ≠ (s.participants (16 + m.val)).length ∨ s.sendOwed = true →
      exec (.ringPassReport m) s = .next s)
    ∧ (∀ im, Sparse.Wf {} s.passes → s.runImage = some im →
      ((s.fullRing m).pass (16 + m.val)).rings = if x.pos = BitVec.ofNat 64 (2 ^ im.ringlen - 1) then x.rings ||| BitVec.ofNat 64 (2 ^ im.idx) else x.rings)

/-- The course of a port: an accepted cable trains and any other holds the port, training that locks with enough lanes aligns and is checked, with
too few it holds and GLB_DEGRADE.PORT is set, training that does not lock goes to DOWN and is tried again, a lane in service that loses lock takes
the port down, a neighbour that is missing gives cause 0x1 and a finding that is logged once; none of it while the module is held in reset. A peer
ahead by more than one step makes the Milestone jump when no run is bound; another difference of more than a step leaves the port SKEWED. And how
the Milestone is steered: a quarter of the mean offset of the ports in ALIGN and READY over 1,024 steps, within ±100 ppm, not again before 1,024
steps have passed (R25, R335, R341, R346, R347, R351, R352, R459, R510). How the steering follows from the offsets, what is kept of a cable, which
lanes training marks, and that only a port in DOWN or TRAIN meets Missing Neighbour are the model's choices (log entries 51, 110, 111 and 149). -/
def Obligations.PortStates : Prop :=
  ∀ (s : State) (q : PortId) (mem : CableMem) (lanes good lost : BitVec 34) (peerMs : Nat) (pl : CPlan) (x : PlanPort),
    let p := s.port q
    let mine := portLanes q (good &&& p.base)
    let both := portLanes q lanes &&& mine
    let s1 := if mem.flat then s else { s with sent := s.sent ++ [.pageSelect q] }
    (s.alive = true → (p.st = .down ∨ (p.st = .held ∧ p.trained = false)) →
      (cableOk mem = true → exec (.cableRead q mem) s = .next (s1.modPort q fun p =>
        { p with st := .train, cause := 0, serial := (mem.serial ++ zeros 16).take 16
                 cable := some ⟨mem.vendor.take 16, mem.oui.take 3, mem.part.take 16, mem.length⟩ }))
      ∧ (cableOk mem = false → exec (.cableRead q mem) s = .next (s1.modPort q fun p => { p with st := .held, cause := 5, trained := false })))
    ∧ (s.alive = false → exec (.cableRead q mem) s = .next s ∧ exec (.portAlign q lanes good peerMs) s = .next s
      ∧ exec (.trainRetry q) s = .next s)
    ∧ (s.alive = true → p.st = .train → laneCount both < (if q.val < 2 then 32 else 8) →
      exec (.portAlign q lanes good peerMs) s = .next (({ s with boot := { s.boot with dgPort := true } }).modPort q fun p =>
        { p with st := .held, cause := 6, trained := false, good := mine }))
    ∧ (s.alive = true → p.st = .train → (if q.val < 2 then 32 else 8) ≤ laneCount both →
      let new := s.trainMarks q (p.base &&& ~~~good)
      let s2 := ({ s with keep := if new.isEmpty then s.keep else
        { s.keep with spseq := s.keep.spseq + 1, pendUnits := s.keep.pendUnits ++ new } }).modPort q fun p => { p with
          st := .align, cause := 0, trained := true, good := mine, insvc := lowLanes 34 (if q.val < 2 then 32 else 8) both, ident := none
          samples := [], delay := 0, theta := 65536 * ((s.ring.ms : Int) - (peerMs : Int)), heard := [], frames := [], queue := [] }
      (peerMs ≤ s.ring.ms + 1 → s.ring.ms ≤ peerMs + 1 →
        exec (.portAlign q lanes good peerMs) s = .next (s2.checkPort q).trainedPorts)
      ∧ (s.ring.ms + 1 < peerMs → s.runBound = false →
        exec (.portAlign q lanes good peerMs) s = .next ((s2.jumpBy q (peerMs - s.ring.ms)).checkPort q).trainedPorts
        ∧ (s2.jumpBy q (peerMs - s.ring.ms)).ring.ms = peerMs)
      ∧ (peerMs + 1 < s.ring.ms ∨ (s.ring.ms + 1 < peerMs ∧ s.runBound = true) →
        exec (.portAlign q lanes good peerMs) s = .next ((s2.modPort q fun p => { p with st := .skewed }).checkPort q).trainedPorts))
    ∧ (p.st = .train → exec (.trainTimeout q) s = .next (s.modPort q fun p => { p with st := .down }))
    ∧ (s.alive = true → p.st = .down → p.serial ≠ [] → exec (.trainRetry q) s = .next (s.modPort q fun p => { p with st := .train }))
    ∧ (p.trained = true → lost &&& p.insvc ≠ 0 → exec (.linkLost q lost) s = .next
      ((s.modPort q fun p => { p with st := .down, trained := false, cause := 0, samples := [], insvc := 0 }).logEvent
        { code := 0x0306, unit := portUnit q, a0 := BitVec.ofNat 32 (firstLane (lost &&& p.insvc))
          a1 := BitVec.ofNat 32 (laneCount (lost &&& p.insvc)) }))
    ∧ (s.planFor q = some pl → pl.ports[q.val]? = some x → p.st = .down ∨ p.st = .train → x.use = true → pl.cmode = false →
      let n : Found := ⟨0x0303, BitVec.ofNat 16 x.peerPort.toNat, x.peerSer.truncate 32, (x.peerSer >>> 32).truncate 32, 0xFFFFFFFF, 0xFFFFFFFF, []⟩
      exec (.missingNeighbour q) s = .next ((s.modPort q fun p => { p with cause := 1 }).noteFound q (some n))
      ∧ (p.found = some n → s.noteFound q (some n) = s)
      ∧ (p.found ≠ some n → s.noteFound q (some n) = (s.modPort q fun p => { p with found := some n }).logEvent
        { code := n.code, unit := portUnit q, layer := n.layer, a0 := n.a0, a1 := n.a1, a2 := n.a2, a3 := n.a3 }))
    ∧ (s.ring.ms < s.links.steerAt + 1024 → exec .milestoneSteer s = .next s)
    ∧ (s.links.steerAt + 1024 ≤ s.ring.ms →
      let mean : Int := if s.steerPorts.isEmpty then 0 else (s.steerPorts.map fun q => (s.port q).theta).sum / (s.steerPorts.length : Int)
      exec .milestoneSteer s = .next { s with links := { s.links with
        steer := max (-6400) (min 6400 (-(mean * 64000000) / 268435456)), steerAt := s.ring.ms } })

/-! ### Batches and editions -/

/-- The run-start agreement. READY words reach the leader, which declines with RUN_MISMATCH when two differ in CORES or DIGEST, with RUN_SHAPE when
H exceeds 240, and else sends FIX once it holds them all; FIX fixes B and the batch binds as of B, or from B − 1,024 on; the leader sends GO when
every BOUND carries the same edition numbers, else it declines with EDITION_SPLIT; a member that cannot take part declines, and a DECLINE ends the
agreement. Each command takes its next state in every case: a word that is known, or comes in a phase that does not await it, changes nothing
more. A word stands with the member's own until the next OP, and each is repeated once per step (R317, R318, R319, R338, R339, R343, R365, R366).
That READY, BOUND and DECLINE name their sender beside the word, and the repeats of a DECLINE, are the model's choices (log entries 42 and 112). -/
def Obligations.RunAgreement : Prop :=
  (∀ (s : State) (q : PortId) (pos idx : Fin 64) (w : List Byte),
    let s1 := s.heard q w
    let b := wordBody w
    let mem (l : List Member) : Prop := ∃ r ∈ l, r.pos = pos.val ∧ r.idx = idx.val
    let ready : Member := ⟨pos, idx, leAt b 6 2, 0, (b.drop 24).take 16⟩
    let bound : Member := ⟨pos, idx, leAt b 16 4, leAt b 20 4, []⟩
    (s.runArrives q w 1 →
      (mem s.run.readys → exec (.ready q pos idx w) s = .next s1)
      ∧ (¬ mem s.run.readys →
        let s2 := { s1 with run := { s.run with readys := s.run.readys ++ [ready] } }
        (s.run.phase = .ready → exec (.ready q pos idx w) s = .next (s2.sendRun b false).readyCheck)
        ∧ (s.run.phase ≠ .ready → exec (.ready q pos idx w) s = .next s2)))
    ∧ (s.runArrives q w 2 →
      (s.run.phase = .ready → exec (.fix q w) s = .next ((s1.sendRun b true).fixRun (leAt b 8 8)))
      ∧ (s.run.phase ≠ .ready → exec (.fix q w) s = .next s1))
    ∧ (s.runArrives q w 3 →
      (mem s.run.bounds → exec (.bound q pos idx w) s = .next s1)
      ∧ (¬ mem s.run.bounds → exec (.bound q pos idx w) s = .next
        (({ s1 with run := { s.run with bounds := s.run.bounds ++ [bound] } }).sendRun b false).boundCheck))
    ∧ (s.runArrives q w 4 →
      (s.run.phase = .bound → exec (.go q w) s = .next (({ s1 with run := { s.run with phase := .go } }).sendRun b true))
      ∧ (s.run.phase ≠ .bound → exec (.go q w) s = .next s1))
    ∧ (s.runArrives q w 5 →
      (s.run.phase ≠ .running → exec (.decline q pos idx w) s = .next ((s1.sendRun b true).endAgreement
        (if pos = 0 ∧ idx = 0 then leAt b 5 1 else 0x0E) (if pos = 0 ∧ idx = 0 then 0 else leAt b 5 1) b))
      ∧ (s.run.phase = .running → exec (.decline q pos idx w) s = .next s1))) ∧
  (∀ (s : State) (b : List Byte) (n : Nat),
    let go := s.isLeader = true ∧ s.run.phase = .ready
    let t := { s with run := { s.run with b := n } }
    (s.run.phase = .fixed ∧ s.run.b ≤ s.ring.ms + 1024 → exec .bindAt s = .next s.bindRun)
    ∧ (¬ (s.run.phase = .fixed ∧ s.run.b ≤ s.ring.ms + 1024) → exec .bindAt s = .next s)
    ∧ (go ∧ s.run.firstReady + 2 ^ 24 ≤ s.ring.ms → exec .runTimeout s = .next (s.decline 0x0C))
    ∧ (¬ (go ∧ s.run.firstReady + 2 ^ 24 ≤ s.ring.ms) → exec .runTimeout s = .next s)
    ∧ s.fixRun n = (if n ≤ s.ring.ms then t.decline 0x0C else if n ≤ s.ring.ms + 1024 then t.bindRun
        else { t with run := { t.run with phase := .fixed } })
    ∧ (s.admission s.run.ctx s.run.pctx s.run.b = none → s.bindRun = s.decline 0x0A)
    ∧ (s.sendRun b false).run.words = s.run.words ++ [b] ∧ (s.sendRun b true).run.words = [b]
    ∧ (s.run.stopLeft = 0 → s.run.declLeft = 0 → s.runHolds = false →
      s.repeatWords = s.run.words.foldl (fun s w => s.sendSlice 5 s.runTag w) s)) ∧
  (∀ (s : State) (r : Member) (l : List Member), s.isLeader = true →
    let same := ∀ x ∈ l, x.a = r.a ∧ x.dig = r.dig
    (s.run.phase = .ready → s.run.readys = r :: l →
      (¬ same → s.readyCheck = s.decline 0x12)
      ∧ (same → l.length + 1 = s.members → 240 < s.hops → s.readyCheck = s.decline 0x0D)
      ∧ (same → l.length + 1 = s.members → s.hops ≤ 240 → ∀ b, b % 16 = 0 → s.ring.ms + 4 * s.hops + 48 ≤ b → b < s.ring.ms + 4 * s.hops + 64 →
        let s1 := { s with run := { s.run with b := b } }
        s.readyCheck = (s1.sendRun (s1.runWord 2 0) true).fixRun b)
      ∧ (same → l.length + 1 ≠ s.members → s.readyCheck = s))
    ∧ (s.run.phase = .bound →
      let same := ∀ x ∈ s.run.bounds, x.a = s.run.edition.toNat ∧ x.b = s.run.pedition.toNat
      (s.run.bounds.length = s.members → same →
        s.boundCheck = ({ s with run := { s.run with phase := .go } }).sendRun (s.runWord 4 0) true)
      ∧ (s.run.bounds.length = s.members → ¬ same → s.boundCheck = s.decline 0x0B)
      ∧ (s.run.bounds.length ≠ s.members → s.boundCheck = s))) ∧
  (∀ s : State, s.isLeader = false → s.readyCheck = s ∧ s.boundCheck = s)

/-- At Milestone B, once the credits of the cores are back, the program starts on every enabled core with everything cleared but its code, data,
tables and binding block, whose copy takes turns of LPDDR; a member without GO stops instead. When every core has ended and sent its slots, the
pins are given back and RUN_BATCH completes; a stopped run that no record accounts for completes after its STOPs (R151, R199, R229, R235, R263,
R274, R320, R365, R366, R388, R391, R424, R456). That the start of every core waits for the credits of all, when a stopped run completes and
with which beat count, and the class of the copy's turns are the model's choices (log entries 123, 45, 46 and 137). -/
def Obligations.RunStartsAndEnds : Prop :=
  ∀ (s : State) (im : Loaded),
    (s.run.b ≤ s.ring.ms → s.run.phase = .go → s.runImage = some im →
      (s.creditsBack = true → exec .runStart s = .next (s.startRun im)) ∧ (s.creditsBack = false → exec .runStart s = .next s))
    ∧ (s.run.b ≤ s.ring.ms → s.run.phase = .fixed ∨ s.run.phase = .bound → exec .runStart s = .next (s.stopAll 0 s.myPos s.myIdx 0))
    ∧ (s.ring.ms < s.run.b → exec .runStart s = .next s)
    ∧ (Sparse.Wf {} s.cores → ∀ c < s.boot.cores,
      let k := (s.startRun im).core c
      k.status = .running ∧ k.pc = 0 ∧ k.beat = 0 ∧ k.scal = [] ∧ k.tiles = [] ∧ k.banks = [] ∧ k.chans = [] ∧ k.wms = [] ∧ k.pv = [] ∧ k.layer = 0
        ∧ k.vc = 0 ∧ k.clips = [] ∧ k.cwd = 0 ∧ k.vseen = false ∧ k.stmFault = 0 ∧ k.sram = s.programSram im c ∧ k.tables = s.runTables
        ∧ k.ctx = s.run.ctx.val)
    ∧ ((s.startRun im).passes = [] ∧ (s.startRun im).run.phase = .running ∧ (s.startRun im).run.words = [] ∧ (s.startRun im).ring.matched = []
      ∧ (s.startRun im).ring.timedOut = [] ∧ (s.startRun im).lpd.run = true ∧ (s.startRun im).lpddr = s.lpddr)
    ∧ (∀ c n d off len, im.map.getD c (0, 0, 0) = (n, d, 0) → im.codes.getD n (0, 0) = (off, len) →
      s.programTurns im c = s.useTurns .remote (im.at_ + off) (8 * len))
    ∧ (s.creditsBack = true ↔ ∀ c ∈ s.coreList, ∀ n < 6, ((s.core c).chan n).fills = [] ∧ ∀ w ∈ ((s.core c).chan n).outs, w.old = none)
    ∧ (s.runHolds = true → (∀ c ∈ s.coreList, (s.core c).ended = true) →
      exec .runEnd s = .next ((s.unpinRun.jobEnded).finishRun 0 0 0 s.maxBeats))
    ∧ (s.runHolds = false → s.run.stopped = true → s.run.stopLeft = 0 → s.stopRecorded = false →
      exec .runEnd s = .next (s.finishRun 0x0F 0 (s.run.cause.getD 0).toNat s.maxBeats))
    ∧ (s.runHolds = true → (∃ c ∈ s.coreList, (s.core c).ended = false) → s.run.stopped = false → exec .runEnd s = .next s)

/-- A pending edition becomes LIVE when the Milestone reaches AT, unless its slot is damaged; the scrubber and the re-digest raise Edition Damage for
a shard whose digest fails, and the slot is marked when the record is handled; a slot that is released leaves the rotation, which ends with its
last item; loads go on digest by digest; none of them while REGEN_IDENTITY has the lanes; a peer load without progress for 2^20 steps fails (R198,
R310, R314, R325, R327, R330, R368, R451, R468, R490, R496). Which slots a re-digest looks at first is the model's choice (log entry 107). -/
def Obligations.EditionEvents : Prop :=
  ∀ (s : State) (x : CtxId) (e : Nat) (j : Job) (it : Nat × Nat × Nat × Word32) (l : List (Nat × Nat × Nat × Word32)) (d : Redigest)
    (r : List Redigest) (y : MsgStream),
    let k := s.ctx x
    let s1 := s.modCtx x fun k => { k with at_ := 0, atKeep := false }
    (k.slotIn .pending = some e → k.at_ ≤ s.ring.ms →
      ((k.slot e).dmg = false → exec (.editionSwitch x) s = .next (s1.makeLive x e k.atKeep true))
      ∧ ((k.slot e).dmg = true → exec (.editionSwitch x) s = .next
        (((s1.modSlot x e fun y => { y with st := .verified }).notify 0x0004 (some x.val)
          ([BitVec.ofNat 8 e, 0, 0, 0] ++ leBytes 4 (k.slot e).edition.toNat)).logEvent
            { code := 0x0503, ctx := BitVec.ofNat 8 x.val, a0 := BitVec.ofNat 32 e, a1 := (k.slot e).edition })))
    ∧ (k.slotIn .pending = some e → s.ring.ms < k.at_ → exec (.editionSwitch x) s = .next s)
    ∧ (s.boot.ready = true → s.boot.halt = false → s.scrub.run = false → exec .scrubRotation s = .next
      (({ s with scrub := { s.scrub with run := true, due := false, active := s.scrub.cfg, todo := s.rotation } }).scrubNext))
    ∧ (s.boot.ready = true → s.boot.halt = false → s.scrub.run = true → exec .scrubRotation s = .next
      (({ s with scrub := { s.scrub with late := true, due := true } }).logEvent
        { code := 0x0502, a0 := BitVec.ofNat 32 (s.scrub.ctx + 256 * s.scrub.slot) }))
    ∧ (s.scrub.run = true → s.scrub.todo = it :: l → s.scrubs it = true → (∀ i ∈ s.jobs, i.takesLanes = false) →
      let t := State.readItem { s with scrub := { s.scrub with todo := l } } it.1 it.2.1 it.2.2.1
      (s.digestHolds it.1 it.2.1 it.2.2.1 = true → exec .scrubDigestDone s = .next t.scrubNext.scrubDue)
      ∧ (s.digestHolds it.1 it.2.1 it.2.2.1 = false → exec .scrubDigestDone s = .next
        (({ t with scrub := { t.scrub with err := sat32 t.scrub.err 1 } }).damage it.1 it.2.1 it.2.2.1).scrubNext.scrubDue))
    ∧ ((∃ i ∈ s.jobs, i.takesLanes = true) → exec .scrubDigestDone s = .next s ∧ exec .redigestDone s = .next s
      ∧ exec .loadDigestDone s = .next s)
    ∧ (let t := s.scrubDrop x e
      (s.scrub.due = false → ∀ i ∈ t.scrub.todo, i ∈ s.scrub.todo ∧ ¬ (i.1 = x.val ∧ i.2.1 = e))
      ∧ (s.scrub.run = true → s.scrub.due = false → (∀ i ∈ s.scrub.todo, i.1 = x.val ∧ i.2.1 = e) →
        t.scrub.run = false ∧ t.scrub.cnt = s.scrub.cnt + 1))
    ∧ (∀ (ed : Word32) (n : Nat), (k.slot e).st.scrubbed = true → (k.slot e).edition = ed →
      s.markDamage x e (some n) ed = (s.modSlot x e fun z => { z with
        dmg := true, bad := if n ∈ z.bad then z.bad else insertSorted n z.bad }).notify 0x0006 (some x.val)
          ([BitVec.ofNat 8 e, 0] ++ leBytes 2 n ++ leBytes 4 ed.toNat))
    ∧ s.dropToken = { s with keep := { s.keep with token := s.keep.token.set 6 0 } }
    ∧ (s.redigests = d :: r → (∀ i ∈ s.jobs, i.takesLanes = false) →
      let t := { s with redigests := r }
      (s.failedShards d = none → exec .redigestDone s = .next t)
      ∧ (∀ x e is, s.failedShards d = some (x, e, is) →
        let u := is.foldl (fun s i => s.readShard x e i) t
        let bad := is.filter fun i => !s.digestHolds x e i
        (bad = [] → exec .redigestDone s = .next u.dropToken)
        ∧ (bad ≠ [] → exec .redigestDone s = .next (bad.foldl (fun s i => s.damage x e i) u))))
    ∧ (s.lanesBusy = false → s.jobs.find? Job.digests = some j →
      (j.phase = .imgDigest → exec .loadDigestDone s = .next (s.imageDigest j))
      ∧ (j.phase = .planDigest → exec .loadDigestDone s = .next (s.planDigest j))
      ∧ (j.phase = .manDigest → exec .loadDigestDone s = .next (s.manifestDone j))
      ∧ (∀ a b c d e, j.phase = .shardDigest a b c d e → exec .loadDigestDone s = .next (s.shardDone j a b c d e)))
    ∧ (let s0 := { s with links := { s.links with sends := s.links.sends.filter fun x => !decide (x.progress + 2 ^ 20 ≤ s.ring.ms) } }
      (s.links.streams.find? (fun x => decide (x.progress + 2 ^ 20 ≤ s.ring.ms)) = none → exec .transferStall s = .next s0)
      ∧ (s.links.streams.find? (fun x => decide (x.progress + 2 ^ 20 ≤ s.ring.ms)) = some y →
        s.jobs.find? (fun j => j.streams y.stream) = some j →
        exec .transferStall s = .next
          ((({ s0 with links := { s0.links with streams := s.links.streams.erase y } }).modSlot j.ctx.toNat j.slotArg fun k =>
            if k.st = SlotState.loading then { k with st := SlotState.failed, edition := 0, bad := [], man := none, botFirst := [] } else k).complete
              j 0x10 0 [0, 0, 0, 0])))

/-! ### Mailboxes -/

/-- A doorbell that is accepted sets CTAIL, a write of RHEAD or NHEAD within what the ring holds moves the head; any other is a misuse, which is
counted, logged with the requester ID and moves nothing; a write to the command ring changes no byte of an entry that the module owns (R416, R418,
R431, R432, R434). The place of the requester ID in the record is the model's choice (log entry 140). -/
def Obligations.MailboxRegisters : Prop :=
  ∀ (s : State) (m : MbxId) (v : RegWrite) (off : BitVec 16) (d : List Byte) (rid : BitVec 16), s.boot.ready = true → s.alive = true →
    let x := s.mbox m
    let t9 : BitVec 9 := v.value.truncate 9
    let t8 : Byte := v.value.truncate 8
    (x.armed = true → v.value.toNat < 512 → (x.ctail - x.chead).toNat + (t9 - x.ctail).toNat ≤ 256 →
      exec (.doorbell m v) s = .next (s.modMbox m fun x => { x with ctail := t9 }))
    ∧ (x.armed = true → 512 ≤ v.value.toNat → exec (.doorbell m v) s = .next (s.misuse m 2 0x0C v.rid))
    ∧ (x.armed = true → v.value.toNat < 512 → 256 < (x.ctail - x.chead).toNat + (t9 - x.ctail).toNat →
      exec (.doorbell m v) s = .next (s.misuse m 3 0x0C v.rid))
    ∧ (x.armed = false → exec (.doorbell m v) s = .next (s.misuse m 1 0x0C v.rid) ∧ exec (.mbxRheadWrite m v) s = .next (s.misuse m 7 0x1C v.rid)
      ∧ exec (.mbxNheadWrite m v) s = .next (s.misuse m 7 0x24 v.rid))
    ∧ (x.armed = true → (t9 - x.rhead).toNat ≤ (x.rtail - x.rhead).toNat →
      exec (.mbxRheadWrite m v) s = .next (s.modMbox m fun x => { x with rhead := t9 }))
    ∧ (x.armed = true → (x.rtail - x.rhead).toNat < (t9 - x.rhead).toNat → exec (.mbxRheadWrite m v) s = .next (s.misuse m 5 0x1C v.rid))
    ∧ (x.armed = true → (t8 - x.nhead).toNat ≤ (x.ntail - x.nhead).toNat →
      exec (.mbxNheadWrite m v) s = .next (s.modMbox m fun x => { x with nhead := t8 }))
    ∧ (x.armed = true → (x.ntail - x.nhead).toNat < (t8 - x.nhead).toNat → exec (.mbxNheadWrite m v) s = .next (s.misuse m 5 0x24 v.rid))
    ∧ (x.armed = true → d ≠ [] → 0x1000 ≤ off.toNat → off.toNat + d.length ≤ 0x9000 → (∀ i < d.length, x.owned (off.toNat + i) = false) →
      exec (.mailboxEntryWrite m off ⟨d, rid⟩) s = .next (s.modMbox m fun x => { x with page := wrBytes x.page off.toNat d }))
    ∧ (x.armed = true → d ≠ [] → 0x1000 ≤ off.toNat → off.toNat + d.length ≤ 0x9000 →
      ∀ i < d.length, x.owned (off.toNat + i) = true → (∀ j < i, x.owned (off.toNat + j) = false) →
      exec (.mailboxEntryWrite m off ⟨d, rid⟩) s = .next ((s.modMbox m fun x => x.hostBytes off.toNat d).misuse m 4 (off.toNat + i) rid))
    ∧ (Memory.wf x.page → ∀ a, x.owned a = true → rdByte (x.hostBytes off.toNat d).page a = rdByte x.page a)
    ∧ (∀ (code o : Nat) (n : MbxId), Sparse.Wf {} s.mbx →
      let y := (s.misuse m code o rid).mbox n
      (s.misuse m code o rid).host.misCount = sat16 s.host.misCount 1 ∧ (s.misuse m code o rid).host.misLast = BitVec.ofNat 8 code
        ∧ y.armed = (s.mbox n).armed ∧ y.chead = (s.mbox n).chead ∧ y.ctail = (s.mbox n).ctail ∧ y.rhead = (s.mbox n).rhead
        ∧ y.nhead = (s.mbox n).nhead ∧ y.rtail = (s.mbox n).rtail)

/-- STATUS, OPEN_CONTEXT, CLOSE_CONTEXT and SET_WINDOW (R300 to R303, R412, R422). The layout of their result data and where OPEN_CONTEXT places
its ranges are the model's choices (log entries 56 and 54). -/
def Obligations.ContextCommands : Prop :=
  ∀ (s : State) (m : MbxId) (j : Job) (k : Ctx),
    let t := s.takeEntry m
    let x := j.ctx.toNat
    (s.starts m 0x0001 .plain [] j → exec (.status m) s = .next (t.putCompletion j 0 0
      (leBytes 4 s.glbState ++ leBytes 2 s.boot.cores ++ leBytes 2 (b2n s.boot.strict)
        ++ leBytes 8 ((List.range 64).map fun x => if (s.ctx x).opened then 2 ^ x else 0).sum ++ leBytes 1 (s.inprog m + 1))))
    ∧ (s.starts m 0x0002 .context [(0, 20)] j → 1 ≤ leAt j.args 0 4 → leAt j.args 0 4 ≤ 4 →
      let o := t.placeCtx (leAt j.args 0 4) (leAt j.args 4 4 * unit64) (leAt j.args 8 4 * unit64) (leAt j.args 12 4 * unit64)
        (leAt j.args 16 4 * 4096)
      ((s.ctx x).opened = false → o = some k → exec (.openContext m) s = .next ((t.modCtx x fun _ => k).putCompletion j 0 0 k.openData))
      ∧ ((s.ctx x).opened = false → o = none → exec (.openContext m) s = .next (t.putCompletion j 8 0 []))
      ∧ ((s.ctx x).opened = true → exec (.openContext m) s = .next (t.putCompletion j 7 0x41 [])))
    ∧ (s.startsOpen m 0x0003 [] j → (∀ e < 4, ((s.ctx x).slot e).pin = 0) → (∀ i ∈ s.jobs, i.names x = false) →
      exec (.closeContext m) s = .next ((t.closeCtx x).putCompletion j 0 0 []))
    ∧ (s.startsOpen m 0x0003 [] j → ((∃ e < 4, ((s.ctx x).slot e).pin ≠ 0) ∨ ∃ i ∈ s.jobs, i.names x = true) →
      exec (.closeContext m) s = .next (t.putCompletion j 7 0x45 []))
    ∧ (s.startsOpen m 0x0041 [(0, 2)] j → leAt j.args 0 2 + 64 ≤ 1072 → exec (.setWindow m) s = .next
      (({ t with host := { t.host with window := some (j.ctxId, leAt j.args 0 2), windowLogged := false } }).putCompletion j 0 0 []))

/-- LOAD_IMAGE starts its digests once its range and its first checks hold; UNLOAD_IMAGE, BIND and UNBIND change the context while no batch of it
runs (R165, R284, R364, R422). That a range beyond the context's is a bad argument and that a binding outlives its image are the model's readings
(log entries 58 and 89). -/
def Obligations.ImageCommands : Prop :=
  ∀ (s : State) (m : MbxId) (j : Job) (im : Loaded),
    let t := s.takeEntry m
    let x := j.ctx.toNat
    let a := j.imageArgs
    (s.startsOpen m 0x0010 [(0, 32)] j → a.1 + a.2.1 ≤ (s.ctx x).imgsize → a.2.2.1 + a.2.2.2 ≤ (s.ctx x).imgsize →
      (imageCheck1 (s.imageBytes j) (s.jobImage j) a.2.1 = 0 →
        exec (.loadImage m) s = .next { t with jobs := s.jobs ++ [{ j with phase := .imgDigest }] })
      ∧ (∀ r, imageCheck1 (s.imageBytes j) (s.jobImage j) a.2.1 = r → r ≠ 0 → exec (.loadImage m) s = .next (t.putCompletion j 1 r [])))
    ∧ (s.startsOpen m 0x0010 [(0, 32)] j → (s.ctx x).imgsize < a.1 + a.2.1 → exec (.loadImage m) s = .next (t.putCompletion j 3 0x40 []))
    ∧ (s.startsOpen m 0x0011 [] j → s.batchOf x = false → (s.ctx x).loaded = some im →
      exec (.unloadImage m) s = .next ((t.modCtx x fun k => { k with loaded := none, next := none }).putCompletion j 0 0 []))
    ∧ (s.startsOpen m 0x0012 [(0, 2)] j → (s.ctx x).loaded = some im → s.batchOf x = false → s.bindCheck im (leAt j.args 0 2) = 0 →
      exec (.bind m) s = .next ((t.modCtx x fun k => { k with tag := some (BitVec.ofNat 12 (leAt j.args 0 2)) }).putCompletion j 0 0 []))
    ∧ (s.startsOpen m 0x0013 [] j → s.batchOf x = false →
      exec (.unbind m) s = .next ((t.modCtx x fun k => { k with tag := none }).putCompletion j 0 0 []))
    ∧ (s.startsOpen m 0x0013 [] j → s.batchOf x = true → exec (.unbind m) s = .next (t.putCompletion j 7 0x45 []))

/-- LOAD_EDITION takes an EMPTY, FAILED or damaged slot into its checks; PUBLISH makes a VERIFIED slot LIVE, or PENDING until AT; UNPUBLISH takes a
PENDING slot back; UNLOAD_EDITION empties a slot (R310 to R316, R323, R326). The form of a request to a peer, that a PUBLISH without AT has no
SWITCHED notice, and the status when all streams are in use are the model's choices (log entries 52, 87 and 141). -/
def Obligations.EditionCommands : Prop :=
  ∀ (s : State) (m : MbxId) (j : Job),
    let t := s.takeEntry m
    let x := j.ctx.toNat
    let e := j.slotArg
    let k := (s.ctx x).slot e
    e < (s.ctx x).eslots →
    (s.startsOpen m 0x0020 [(0, 6)] j → leAt j.args 1 1 = 0 → k.dmg = false → k.st = .empty ∨ k.st = .failed →
      exec (.loadEdition m) s = .next (((t.modSlot x e fun k => { k with st := .loading }).pushJob j).beginLoad j false))
    ∧ (s.startsOpen m 0x0020 [(0, 6)] j → leAt j.args 1 1 = 0 → k.dmg = true → k.st ≠ .loading →
      exec (.loadEdition m) s = .next ((t.pushJob j).beginLoad j true))
    ∧ (s.startsOpen m 0x0020 [(0, 6)] j → leAt j.args 1 1 = 1 → leAt j.args 2 1 < 64 → leAt j.args 3 1 < 64 → leAt j.args 4 1 < 64 →
      leAt j.args 5 1 < 4 →
      (s.inSlice x (leAt j.args 2 1) (leAt j.args 3 1) = false → exec (.loadEdition m) s = .next (t.putCompletion j 3 0x40 []))
      ∧ (s.inSlice x (leAt j.args 2 1) (leAt j.args 3 1) = true →
        (k.dmg = false ∧ (k.st = .empty ∨ k.st = .failed)) ∨ (k.dmg = true ∧ k.st ≠ .loading) →
        (s.freeStream = none → exec (.loadEdition m) s = .next (t.putCompletion j 8 0 []))
        ∧ (∀ n, s.freeStream = some n →
          let v := if k.dmg then t else t.modSlot x e fun k => { k with st := .loading }
          let u := (v.pushJob { j with phase := .peerLoad n k.dmg }).askPeer j n (if k.dmg then k.edition else 0)
          exec (.loadEdition m) s = .next { u with links := { u.links with streams := u.links.streams ++ [⟨n, [], none, u.ring.ms⟩] } })))
    ∧ (∀ n, s.freeStream = some n → (∀ i ∈ s.jobs, i.streams n = false))
    ∧ (s.startsOpen m 0x0020 [(0, 6)] j → leAt j.args 1 1 = 0 → k.dmg = false → k.st ≠ .empty → k.st ≠ .failed →
      exec (.loadEdition m) s = .next (t.putCompletion j 7 0x42 []))
    ∧ (s.startsOpen m 0x0021 [(0, 2), (8, 8)] j → leAt j.args 1 1 < 4 → k.st = .verified → k.dmg = false →
      ((s.ctx x).slotIn .pending = none → bitOf (leAt j.args 1 1) 0 = false →
        exec (.publish m) s = .next ((t.makeLive x e (bitOf (leAt j.args 1 1) 1) false).putCompletion j 0 0 [5]))
      ∧ ((s.ctx x).slotIn .pending = none → bitOf (leAt j.args 1 1) 0 = true → s.ring.ms + 1024 ≤ leAt j.args 8 8 →
        exec (.publish m) s = .next (((t.modSlot x e fun k => { k with st := .pending }).modCtx x fun k =>
          { k with at_ := leAt j.args 8 8, atKeep := bitOf (leAt j.args 1 1) 1 }).putCompletion j 0 0 [4]))
      ∧ ((s.ctx x).slotIn .pending = none → bitOf (leAt j.args 1 1) 0 = true → leAt j.args 8 8 < s.ring.ms + 1024 →
        exec (.publish m) s = .next (t.putCompletion j 7 0x44 [])))
    ∧ (s.startsOpen m 0x0022 [(0, 1)] j → k.st = .pending → exec (.unpublish m) s = .next
      (((t.modSlot x e fun k => { k with st := .verified }).modCtx x fun k => { k with at_ := 0, atKeep := false }).putCompletion j 0 0 []))
    ∧ (s.startsOpen m 0x0022 [(0, 1)] j → k.st ≠ .pending → exec (.unpublish m) s = .next (t.putCompletion j 7 0x42 []))
    ∧ (s.startsOpen m 0x0023 [(0, 1)] j → k.st = .verified ∨ k.st = .failed →
      exec (.unloadEdition m) s = .next ((t.releaseSlot x e).putCompletion j 0 0 []))

/-- RUN_BATCH begins the agreement, or waits while a batch holds the module; STOP_RUN stops the run that it names; DMA runs four transfers at
most, and a transfer that ends has moved exactly its bytes but for those that the host may not write (R307, R318, R365, R369, R415, R424). Which
ranges a DMA may use, that STOP_RUN stops a batch in agreement too, and the reason for another RUNID are the model's choices (log entries 58 and
138). -/
def Obligations.RunCommands : Prop :=
  ∀ (s : State) (m : MbxId) (j : Job) (r : DmaResult),
    let t := s.takeEntry m
    let x := j.ctx.toNat
    let o := leAt j.args 0x10 8
    let n := leAt j.args 0x18 8
    (s.startsOpen m 0x0030 [(0, 5)] j → leAt j.args 0 4 ≠ 0 → leAt j.args 4 1 < 64 ∨ leAt j.args 4 1 = 0xFF →
      (s.ctx x).loaded.isSome = true → (s.ctx x).tag.isSome = true →
      let w := { t with jobs := s.jobs ++ [{ j with phase := .runWaiting }] }
      exec (.runBatch m) s = .next (if s.runFree then w.beginRun { j with phase := .runWaiting } else w))
    ∧ (s.startsOpen m 0x0031 [(0, 4)] j → s.run.phase ≠ .idle → s.run.ctx.val = x → s.run.runid.toNat = leAt j.args 0 4 →
      exec (.stopRun m) s = .next ((t.stopAll 0 s.myPos s.myIdx s.schedStep).putCompletion j 0 0 []))
    ∧ (s.startsOpen m 0x0031 [(0, 4)] j → s.run.phase = .idle ∨ s.run.ctx.val ≠ x ∨ s.run.runid.toNat ≠ leAt j.args 0 4 →
      exec (.stopRun m) s = .next (t.putCompletion j 7 0x41 []))
    ∧ (s.startsOpen m 0x0040 [(0, 1), (8, 24)] j → n % 64 = 0 → n ≤ 2 ^ 36 →
      (leAt j.args 0 1 = 0 → (s.ctx x).mayWrite o n = true → exec (.dma m) s = .next
        { t with jobs := s.jobs ++ [{ j with phase := if s.dmaRunning < 4 then .dmaRunning else .dmaWaiting }] })
      ∧ (leAt j.args 0 1 = 1 → (s.ctx x).mayRead o n = true → exec (.dma m) s = .next
        { t with jobs := s.jobs ++ [{ j with phase := if s.dmaRunning < 4 then .dmaRunning else .dmaWaiting }] })
      ∧ (leAt j.args 0 1 = 1 → (s.ctx x).mayRead o n = false → exec (.dma m) s = .next (t.putCompletion j 3 0x40 [])))
    ∧ (s.jobs.find? (fun j => decide (j.phase = .dmaRunning)) = some j →
      let moved := if r.ok then n else Nat.min r.moved n
      let u := s.useTurns .remote o moved
      (leAt j.args 0 1 ≠ 1 → exec (.dmaTransferDone r) s = .next
        (((({ u with lpddr := putAllowed (s.ctx x) s.lpddr o ((r.bytes ++ zeros moved).take moved) }).logDropped x o moved).complete j
          (if r.ok then 0 else 0x10) 0 (leBytes 8 moved)).nextDma))
      ∧ (leAt j.args 0 1 = 1 → exec (.dmaTransferDone r) s = .next
        ((({ u with sent := u.sent ++ [Sys2Proof.Machine.Sent.toHost (leAt j.args 8 8) (rdBytes s.lpddr o moved)] }).complete j
          (if r.ok then 0 else 0x10) 0 (leBytes 8 moved)).nextDma)))
    ∧ (∀ (k : Ctx) (mem : Memory) (a : Nat) (d : List Byte) (i : Nat), Memory.wf mem →
      (k.mayWrite i 1 = false → rdByte (putAllowed k mem a d) i = rdByte mem i)
      ∧ (i < d.length → k.mayWrite (a + i) 1 = true → rdByte (putAllowed k mem a d) (a + i) = d.getD i 0))
    ∧ (s.jobs.find? (fun j => decide (j.phase = .dmaRunning)) = none → exec (.dmaTransferDone r) s = .next s)

/-- The commands of mailbox 0: SET_STRICT sets strict mode, ARM_MAILBOX arms a disarmed mailbox with a mask, DISARM_MAILBOX aborts what has not
started, SET_POLICY grants the expert level, or withdraws it from every mailbox at once, until it is locked (R159, R160, R425). What ARM_MAILBOX
and DISARM_MAILBOX do with a mailbox that is armed or disarmed already is the model's reading (log entry 59). -/
def Obligations.AdminCommands : Prop :=
  ∀ (s : State) (m : MbxId) (j : Job),
    let t := s.takeEntry m
    let n := leAt j.args 0 1
    (s.starts m 0x0050 .admin [] j → exec (.setStrict m) s = .next (({ t with boot := { s.boot with strict := true } }).putCompletion j 0 0 []))
    ∧ (s.starts m 0x0060 .admin [(0, 2), (8, 8)] j → 1 ≤ n → n ≤ 15 → leAt j.args 1 1 ≤ 1 → (t.mbox n).armed = false → t.inprog n = 0 →
      exec (.armMailbox m) s = .next ((t.modMbox n fun _ => { armed := true, expert := bitOf (leAt j.args 1 1) 0 && s.host.expert
                                                              mask := BitVec.ofNat 64 (leAt j.args 8 8) }).putCompletion j 0 0 []))
    ∧ (s.starts m 0x0061 .admin [(0, 1)] j → 1 ≤ n → n ≤ 15 → (t.mbox n).armed = true →
      exec (.disarmMailbox m) s = .next
        (((State.abortQueued 256 (Fin.ofNat 16 n) (t.modMbox n fun x => { x with armed := false })).pushJob
          { j with phase := .disarming (Fin.ofNat 16 n) }).disarmDone (Fin.ofNat 16 n)))
    ∧ (s.starts m 0x0062 .admin [(0, 1)] j → n < 4 → s.host.lock = false → bitOf n 0 = true →
      exec (.setPolicy m) s = .next (({ t with host := { t.host with expert := true, lock := bitOf n 1 } }).putCompletion j 0 0 []))
    ∧ (s.starts m 0x0062 .admin [(0, 1)] j → n < 4 → s.host.lock = false → bitOf n 0 = false →
      let u := (List.range 16).foldl (fun s m => s.modMbox m fun x => { x with expert := false })
        { t with host := { t.host with expert := false, lock := bitOf n 1 } }
      exec (.setPolicy m) s = .next (u.putCompletion j 0 0 []) ∧ ∀ i : MbxId, u.expertLevel i = false ∧ (Sparse.Wf {} s.mbx → (u.mbox i).expert = false))
    ∧ (s.starts m 0x0060 .admin [(0, 2), (8, 8)] j → 1 ≤ n → n ≤ 15 → leAt j.args 1 1 ≤ 1 → ((t.mbox n).armed = true ∨ t.inprog n ≠ 0) →
      exec (.armMailbox m) s = .next (t.putCompletion j 7 0x41 []))
    ∧ (s.starts m 0x0061 .admin [(0, 1)] j → 1 ≤ n → n ≤ 15 → (t.mbox n).armed = false →
      exec (.disarmMailbox m) s = .next (t.putCompletion j 7 0x41 []))
    ∧ (s.starts m 0x0062 .admin [(0, 1)] j → n < 4 → s.host.lock = true → exec (.setPolicy m) s = .next (t.putCompletion j 7 0x47 []))

/-- The commands of the expert level on physical positions: the debug map, the halt of a core, the three resets below module level, raw transfers
and raw descriptors. A reset begins when nothing outstanding carries the RGEN that it would produce, advances the RGENs of its unit, clears its cores
but for what they have outstanding and the substitutions, and a partition's Landing buffer, LND_STEP and partition Pass; it completes when what it
drains has been acknowledged (R9, R268, R426, R427, R453 to R456). How the brief words of R426 are read and what an absent core shows are the
model's (log entries 82 and 117), and that a partition reset clears LND_OVR (log entry 35). -/
def Obligations.ExpertCommands : Prop :=
  ∀ (s : State) (m : MbxId) (j : Job) (c : Nat) (m' : MbxId) (u : RstUnit) (i : Job),
    let t := s.takeEntry m
    let a := j.args
    let p : Fin 16 := Fin.ofNat 16 (physPart s.boot.enabled (leAt a 0 1))
    let cl : Fin 16 := Fin.ofNat 16 (leAt a 1 1)
    let k : Fin 9 := Fin.ofNat 9 (leAt a 2 1)
    (leAt a 0 1 < s.nparts → posArgs a = true →
      (s.starts m 0x8001 .expert [(0, 3)] j → exec (.debugMap m) s = .next
        (({ t with host := { t.host with mapped := some (s.coreOf p cl k, m) } }).putCompletion j 0 0 []))
      ∧ (s.starts m 0x8003 .expert [(0, 4)] j →
        (leAt a 3 1 = 1 → exec (.coreHalt m) s = .next ((t.modCore (s.coreOf p cl k) Core.stopNow).putCompletion j 0 0 []))
        ∧ (leAt a 3 1 = 2 → exec (.coreReset m) s = .next (t.commandReset j (.core p cl k)))
        ∧ (leAt a 3 1 = 3 → exec (.clusterReset m) s = .next (t.commandReset j (.cluster p cl)))
        ∧ (leAt a 3 1 = 4 → exec (.partitionReset m) s = .next (t.commandReset j (.partition p)))))
    ∧ (s.nparts ≤ leAt a 0 1 → posArgs a = true → s.starts m 0x8001 .expert [(0, 3)] j → exec (.debugMap m) s = .next
      (({ t with host := { t.host with mapped := some (absentCore, m) } }).putCompletion j 0 0 []))
    ∧ (s.starts m 0x8002 .expert [] j → exec (.debugUnmap m) s = .next
      (({ t with host := { t.host with mapped := none } }).putCompletion j 0 0 []))
    ∧ (s.starts m 0x8004 .expert [(0, 24)] j → leAt a 16 8 % 64 = 0 →
      (t.rawOk m (leAt a 0 8) (leAt a 16 8) false = true → t.rawOk m (leAt a 8 8) (leAt a 16 8) true = true →
        exec (.rawXfer m) s = .next ((((t.rawWrite (leAt a 8 8) (t.rawRead (leAt a 0 8) (leAt a 16 8))).rawTurns (leAt a 0 8)
          (leAt a 16 8)).rawTurns (leAt a 8 8) (leAt a 16 8)).putCompletion j 0 0 []))
      ∧ (t.rawOk m (leAt a 8 8) (leAt a 16 8) true = false → exec (.rawXfer m) s = .next (t.putCompletion j 3 0x40 [])))
    ∧ (s.starts m 0x8005 .expert [(0, 1), (8, 104)] j → leAt a 0 1 < 6 → s.host.mapped = some (c, m') →
      ((s.core c).status = .none → c ≠ absentCore → exec (.rawDesc m) s = .next
        ((t.rawArm c (leAt a 0 1) ((a.drop 8).take 104 ++ zeros 24)).putCompletion j 0 0 []))
      ∧ ((s.core c).status = .running → exec (.rawDesc m) s = .next (t.putCompletion j 7 0x45 [])))
    ∧ ((t.runHoldsUnit u = true → t.commandReset j u = t.putCompletion j 7 0x45 [])
      ∧ (t.runHoldsUnit u = false → t.commandReset j u = (t.pushJob { j with phase := .resetting u }).startResets))
    ∧ (s.jobs = [i] → i.phase = .resetting u → (s.mayReset u = true → s.startResets = s.beginReset u)
      ∧ (s.mayReset u = false → s.startResets = s))
    ∧ (s.mayReset u = true ↔ u ∉ s.resets ∧ ∀ n ∈ unitCores u, (∀ f ∈ (s.core (s.coreAt n)).fills, f.rgen ≠ s.posGen n + 1)
      ∧ s.posGen n + 1 ∉ (s.core (s.coreAt n)).issued)
    ∧ ((s.beginReset u).resets = s.resets ++ [u] ∧ (Sparse.Wf 0 s.rgen →
      (∀ g ∈ unitGens u, (s.beginReset u).gen g = s.gen g + 1) ∧ ∀ g, g ∉ unitGens u → (s.beginReset u).gen g = s.gen g))
    ∧ (∀ n, s.runHolds = false → s.resetPos n = s.modCore (s.coreAt n) fun k => k.cleared (s.posGen n))
    ∧ (∀ (x : Core) (g : BitVec 4),
      x.cleared g = { ({} : Core) with chans := (x.cleared g).chans, sramrep := x.sramrep }
      ∧ ∀ n < 6, (x.cleared g).chan n = { ({} : Chan) with
          fills := (x.chan n).fills.map fun (f : SlotFill) => { f with old := true }, outs := if n < 4 then [] else x.kept n g })
    ∧ (∀ q, s.boot.enabled.getLsbD q = true → Sparse.Wf {} s.parts → Sparse.Wf {} s.passes →
      let l := logPart s.boot.enabled q
      let r := s.resetPartition q
      r.part l = { s.part l with landing := [], step := 0, ovr := 0 }
      ∧ r.pass l = { ({} : Pass) with brk := (s.pass l).brk, by_ := (s.pass l).by_ })
    ∧ (s.resets.contains u = true → s.jobs.find? (fun j => j.resets u) = some i →
      ((∀ n ∈ unitCores u, (s.core (s.coreAt n)).issued = []) →
        exec (.resetComplete u) s = .next ((({ s with resets := s.resets.erase u }).complete i 0 0 []).startResets))
      ∧ ((∃ n ∈ unitCores u, (s.core (s.coreAt n)).issued ≠ []) → exec (.resetComplete u) s = .next s))
    ∧ (∀ n, (unitCores u).find? (fun n => (s.core (s.coreAt n)).fills.any fun f => decide (f.rgen ≠ s.posGen n)) = some n →
      exec (.staleResponseAbsorbed u) s = .next ((s.modCore (s.coreAt n) fun k => k.absorb (s.posGen n)).startResets))

/-- A presence-class command waits for a press. A press is counted and serves the oldest: it unlocks core debug with the EXPERT jumper fitted at
the press, commits the pending spares, or begins the steps of REGEN_IDENTITY with the SEAL loop closed; else it reports which input is missing;
30 s without a press time out. REGEN_IDENTITY waits until no digest of another class is on a lane, draws its seeds, writes them as pending with the
link record, burns IDGEN and makes the record current, one step at a time. EXPERT and SEAL take a level that 20 samples of 1 ms have shown; an
opened SEAL loop is counted (R428, R457, R486, R487, R490, R491, R498 to R502). That one TREE_BUILD_DONE stands for each step of REGEN_IDENTITY and
what a sealed record holds are the model's choices (log entries 13, 116 and 152). -/
def Obligations.PresenceCommands : Prop :=
  ∀ (s : State) (m : MbxId) (j : Job) (n : Nat) (seeds : List Byte) (ex se : Bool),
    let t := s.takeEntry m
    let wait := { t with jobs := s.jobs ++ [{ j with phase := .presence s.keep.ticks }] }
    let s1 := { s with trust := { s.trust with pres := true, sampled := true, presses := sat16 s.trust.presses 1 } }
    (s.starts m 0x8010 .expert [] j → exec (.unlockDebug m) s = .next wait)
    ∧ (s.starts m 0x8011 .expert [] j → s.runHolds = false → exec (.commitSpares m) s = .next wait)
    ∧ (s.starts m 0x8011 .expert [] j → s.runHolds = true → exec (.commitSpares m) s = .next (t.putCompletion j 7 0x45 []))
    ∧ (s.starts m 0x8012 .expert [] j → (∀ i ∈ s.jobs, i.regens = false) →
      (s.runHolds = false → s.trust.regened = false → s.keep.idgen < 16 → exec (.regenIdentity m) s = .next wait)
      ∧ (s.runHolds = true → exec (.regenIdentity m) s = .next (t.putCompletion j 7 0x45 []))
      ∧ (s.runHolds = false → s.trust.regened = true → exec (.regenIdentity m) s = .next (t.putCompletion j 7 0x48 []))
      ∧ (s.runHolds = false → s.trust.regened = false → 16 ≤ s.keep.idgen → exec (.regenIdentity m) s = .next (t.putCompletion j 8 0 [])))
    ∧ (s.boot.power = true → s.trust.pres = false → s.jobs.find? Job.waitsPress = some j →
      (j.opc = 0x8010 → s.trust.jumper = true → exec .presencePress s = .next
        (({ s1 with trust := { s1.trust with dbg := true }, keep := { s.keep with dbgcnt := s.keep.dbgcnt + 1 } }).complete j 0 0 []))
      ∧ (j.opc = 0x8010 → s.trust.jumper = false → exec .presencePress s = .next (s1.complete j 6 0x51 []))
      ∧ (j.opc = 0x8011 → exec .presencePress s = .next (s1.commitSpares j))
      ∧ (j.opc = 0x8012 → s.trust.sealed = false → exec .presencePress s = .next (s1.complete j 6 0x52 []))
      ∧ (j.opc = 0x8012 → s.trust.sealed = true → s.regenRefusal = none → exec .presencePress s = .next (s1.regenPhase j 0 [])))
    ∧ (s.boot.power = true → s.trust.pres = false → s.jobs.find? Job.waitsPress = none → exec .presencePress s = .next s1)
    ∧ (s.jobs.find? Job.regens = some j → j.phase = .regen n seeds →
      (n = 0 → (∀ i ∈ s.jobs, i.digests = false) → s.redigests = [] →
        exec .treeBuildDone s = .next (({ s with free := s.free + 1 }).regenPhase j 1 (seedsOf s.free)))
      ∧ (n = 0 → ((∃ i ∈ s.jobs, i.digests = true) ∨ s.redigests ≠ []) → exec .treeBuildDone s = .next s)
      ∧ (n = 1 → exec .treeBuildDone s = .next (s.regenPending j seeds))
      ∧ (n = 2 → exec .treeBuildDone s = .next (({ s with keep := { s.keep with idgen := s.keep.idgen + 1 } }).regenPhase j 3 seeds))
      ∧ (n = 3 → exec .treeBuildDone s = .next (({ s with
          free := s.free + 1
          keep := { s.keep with
            idKey := s.keep.idPend, idPend := none, idLim := some (sealRecord (s.trust.kn.getD []) (nonceOf s.free) (leBytes 8 4096)) }
          trust := { s.trust with regened := true, idrdy := true, next := 0, lim := 4096, seeds := some seeds
                                  building := false, built := false } }).complete j 0 0 [])))
    ∧ (s.trust.seeds = none ∨ s.trust.next < s.trust.lim →
      let u := s.regenPending j seeds
      u.keep.idPend = some (sealRecord (s.trust.kn.getD []) (nonceOf s.free) (keyPlain (s.keep.idgen + 1) seeds))
      ∧ u.keep.chain = s.keep.chain ++ s.linkRecord (s.keep.idgen + 1) seeds ∧ u.keep.idgen = s.keep.idgen ∧ u.keep.idKey = s.keep.idKey)
    ∧ (s.trust.seeds.isSome = true → s.trust.lim ≤ s.trust.next →
      (s.regenPending j seeds).keep.chain = s.keep.chain ++ s.reserve.linkRecord (s.keep.idgen + 1) seeds
      ∧ s.reserve.trust.lim = s.trust.lim + 4096)
    ∧ (s.runHolds = false →
      (s.keep.fuseFree < s.keep.commitNeeds → s.commitSpares j = s.complete j 8 0 [])
      ∧ (s.keep.commitNeeds ≤ s.keep.fuseFree → s.keep.pendRows = [] → s.commitSpares j = ({ s with keep := s.keep.commit }).complete j 0 0 []))
    ∧ (let c := s.keep.commit
      c.pend = [] ∧ c.pendRows = [] ∧ c.pendLost = [] ∧ c.pendUnits = [] ∧ c.pendDig = 0 ∧ c.spseq = s.keep.spseq + 1
      ∧ c.fuseFree = s.keep.fuseFree - s.keep.commitNeeds ∧ (∀ x ∈ s.keep.pend, x.1 ∈ c.fuseMarks) ∧ (∀ x ∈ s.keep.pendLost, x ∈ c.fuseLost)
      ∧ (∀ x ∈ s.keep.pendUnits, x ∈ c.fuseUnits) ∧ (s.keep.tokValid = false → c.token = s.keep.token)
      ∧ (s.keep.tokValid = true → s.keep.tokIntact = true → c.token = ({ c with token := [] } : Persist).tokenAt s.keep.tokWritten))
    ∧ (s.jobs.find? Job.waitsPress = some j → exec .presenceTimeout s = .next (s.complete j 6 0x50 []))
    ∧ (s.trust.pres = true → s.trust.stuck = false →
      exec .presenceStuck s = .next (({ s with trust := { s.trust with stuck := true } }).raise { code := 0x0805 }))
    ∧ exec .presenceRelease s = .next { s with trust := { s.trust with pres := false, stuck := false, sampled := true } }
    ∧ (s.boot.power = true → s.trust.sealed = true → exec .sealOpen s = .next
      { s with trust := { s.trust with sealed := false, sealedN := 0, sampled := true }, keep := { s.keep with sealcnt := s.keep.sealcnt + 1 } })
    ∧ (let u := s.sampleInputs ex se
      let a := decide (ex ≠ s.trust.jumper ∧ s.trust.jumperN = 19)
      let b := decide (se ≠ s.trust.sealed ∧ s.trust.sealedN = 19)
      u.trust.jumper = (if a then ex else s.trust.jumper) ∧ u.trust.jumperN = (if ex = s.trust.jumper ∨ a = true then 0 else s.trust.jumperN + 1)
      ∧ u.trust.sealed = (if b then se else s.trust.sealed)
      ∧ u.trust.sealedN = (if se = s.trust.sealed ∨ b = true then 0 else s.trust.sealedN + 1)
      ∧ u.keep.sealcnt = (if b = true ∧ se = false then s.keep.sealcnt + 1 else s.keep.sealcnt))

/-- Every mailbox command whose mailbox lacks the permission or the level, whose entry is not as required, whose module is halted or whose context
is not open completes with the status of R423; an entry of no known OPC completes with BAD_OPCODE or NO_EXPERT; a command that is not the next one
served, or not the one that the entry spells, is turned away. A refusal changes only CHEAD, the completion ring and RTAIL of its mailbox, the turn
of the mailboxes and the vector that its entry asks for (R411, R417, R419, R423, R425, R426, R471). -/
def Obligations.CommandsRefused : Prop :=
  (∀ (i : Instr) (m : MbxId) (d : Cmd) (mine : List Byte → Bool) (s : State), mailboxCmd i = some (m, d, mine) →
    let e := (s.mbox m).entry (s.mbox m).chead.toNat
    let j := parseJob m e
    let t := s.takeEntry m
    (s.boot.ready = false ∨ s.nextServed ≠ some m.val → exec i s = .next s)
    ∧ (s.boot.ready = true → s.nextServed = some m.val →
      (knownOpc j.opc.toNat = false → exec i s = .next
        (t.putCompletion j (if 0x8000 ≤ j.opc.toNat ∧ s.expertLevel m = false then 5 else 2) 0 []))
      ∧ (knownOpc j.opc.toNat = true → ¬ (j.opc.toNat = d.opc ∧ mine j.args = true) → exec i s = .next s)
      ∧ (j.opc.toNat = d.opc → mine j.args = true →
        (d.need = .context → ¬ (j.ctx.toNat < 64 ∧ (s.mbox m).mask.getLsbD j.ctx.toNat = true) → exec i s = .next (t.putCompletion j 4 0 []))
        ∧ (d.need = .admin → m ≠ 0 → exec i s = .next (t.putCompletion j 4 0 []))
        ∧ (d.need = .expert → s.expertLevel m = false → exec i s = .next (t.putCompletion j 5 0 []))
        ∧ (s.permission d j = 0 → d.entryOk e j = false → exec i s = .next (t.putCompletion j 3 0x40 []))
        ∧ (s.permission d j = 0 → d.entryOk e j = true → s.boot.halt = true → d.opc ≠ 1 → exec i s = .next (t.putCompletion j 7 0x46 []))
        ∧ (s.permission d j = 0 → d.entryOk e j = true → s.boot.halt = false → d.need = .context → d.opc ≠ 2 →
          (s.ctx j.ctx.toNat).opened = false → exec i s = .next (t.putCompletion j 7 0x41 []))))) ∧
  (∀ (s : State) (m n : MbxId) (j : Job) (st r : Nat) (data : List Byte), j.mbx = m → Sparse.Wf {} s.mbx →
    let x := s.mbox m
    let u := (s.takeEntry m).putCompletion j st r data
    { u with mbx := s.mbx, host := s.host, sent := s.sent } = s
    ∧ u.host = { s.host with served := (m.val + 1) % 16, pba := u.host.pba }
    ∧ (n ≠ m → u.mbox n = s.mbox n)
    ∧ u.mbox m = { x with
        chead := x.chead + 1, rtail := x.rtail + 1
        page := wrBytes x.page (0x9000 + 64 * (x.rtail.toNat % 256))
          (completionBytes j.tag j.opc st r (if data.isEmpty then j.blank else data)) }
    ∧ (j.flags.getLsbD 0 = false → u.sent = s.sent ∧ u.host.pba = s.host.pba))

/-! ### The host -/

/-- BAR2 reads and writes the ranges of its context's window alone; GLB_ERRSUM and the scrub and power configuration take writes as their Access
says; a request that R429 names is answered, counted and logged, and a malformed or poisoned one, or one with a wrong ECRC while ECRC is checked,
is reported (R10, R11, R14, R330, R402, R406, R412, R413, R429, R432, R479, R511). What the log shows of a request without an offset, the rest of
configuration space, and the answer to an access of three words or more are the model's choices (log entries 64, 119 and 139). -/
def Obligations.HostRegisters : Prop :=
  ∀ (s : State) (c : CtxId) (g off n : Nat) (d : List Byte) (v : Word32) (rid : BitVec 16) (k : BadTlp), s.alive = true → s.boot.ready = true →
    let a := g * 2 ^ 30 + off
    let ctx := s.ctx c
    let w := leBytes 4 v.toNat
    (s.window = some (c, g) → off + n ≤ bar2Size →
      ∃ t, exec (.bar2Access (.read off n)) s = .next { t with sent := t.sent ++ [.readData ((List.range n).map fun i =>
          if ctx.mayRead (a + i) 1 then rdByte s.lpddr (a + i) else 0)] }
        ∧ t.lpddr = s.lpddr ∧ (0 < n → ctx.mayRead a n = true → t = s.areaTurns ctx.readAreas a n))
    ∧ (s.window = some (c, g) → off + d.length ≤ bar2Size → d ≠ [] → ctx.mayWrite a d.length = true →
      exec (.bar2Access (.write off d)) s = .next (State.areaTurns { s with lpddr := wrBytes s.lpddr a d } ctx.writeAreas a d.length))
    ∧ (s.window = some (c, g) → off + d.length ≤ bar2Size → Memory.wf s.lpddr → ∀ t, exec (.bar2Access (.write off d)) s = .next t →
      ∀ x, ctx.mayWrite x 1 = false → rdByte t.lpddr x = rdByte s.lpddr x)
    ∧ (exec (.errsumClear v) s = .next { s with err := { s.err with
        errsum := w1c s.err.errsum 0xC000001F v
        lostCode := if v.getLsbD 30 then 0 else s.err.lostCode
        lostCount := if v.getLsbD 30 then 0 else s.err.lostCount } }
      ∧ exec (.registerWrite 0x200 ⟨w, rid⟩) s = exec (.errsumClear v) s)
    ∧ (exec (.digScrubcfgWrite v) s = .next { s with scrub := { s.scrub with cfg := v &&& 0xFFFF00FF } }
      ∧ exec (.registerWrite 0x36000 ⟨w, rid⟩) s = exec (.digScrubcfgWrite v) s)
    ∧ (exec (.glbPwrctlWrite v) s = .next { s with phys := { s.phys with pwrctl := v &&& 0x1F07FF } }
      ∧ exec (.registerWrite 0x400 ⟨w, rid⟩) s = exec (.glbPwrctlWrite v) s)
    ∧ exec (.registerWrite 0x210 ⟨w, rid⟩) s = .next { s with err := { s.err with logbase := v } }
    ∧ (off < 0x100000 → (off % 4 ≠ 0 ∨ (d.length ≠ 4 ∧ d.length ≠ 8)) →
      exec (.registerWrite off ⟨d, rid⟩) s = .next (s.unsupported (BitVec.ofNat 32 off) rid))
    ∧ (k = .noBar ∨ k = .reservedBar0 ∨ k = .notWholeWord → exec (.malformedTlp k v rid) s = .next
      ((({ s with host := { s.host with ur := sat16 s.host.ur 1, cfg := { s.host.cfg with aerUnsupported := true } } }).logViolation v rid 0).emit
        .unsupported))
    ∧ (exec (.malformedTlp .malformed v rid) s = .next
        (State.logViolation { s with host := { s.host with cfg := { s.host.cfg with aerMalformed := true } } } v rid 0xFFFFFFFF)
      ∧ exec (.malformedTlp .poisoned v rid) s = .next
        (State.logViolation { s with host := { s.host with cfg := { s.host.cfg with aerPoisoned := true } } } v rid 0xFFFFFFFF)
      ∧ exec (.malformedTlp .ecrc v rid) s = .next (if s.host.cfg.ecrcCheck then
        State.logViolation { s with host := { s.host with cfg := { s.host.cfg with aerEcrc := true } } } v rid 0xFFFFFFFF else s))

/-- An attestation request of the host or the SMC starts when none is in progress and 10 ms have passed, and ends with a signed report under a
fresh index or with a code of R494; GO reads 1 until it ends, of a request that is refused at once too. An index is reserved in steps of 4,096, in a
sealed record that opens under the key that sealed it; half way through a lower tree the build of the next begins, which takes its place at its
end. The test access port answers beyond its basic instructions only with core debug unlocked and the SEAL loop open (R13, R486 to R488, R492 to
R494, R502, R503). What a sealed record holds and the tree that is not built in time are the model's choices (log entries 13, 116 and 153). -/
def Obligations.Attestation : Prop :=
  (∀ (s : State) (v tag : Word32) (nonce : List Byte) (ctx : Byte) (basic : Bool),
    let s1 := { s with trust := { s.trust with attCtx := v.truncate 8 } }
    (s.boot.ready = true → v.getLsbD 31 = false → exec (.attestationGo v) s = .next s1)
    ∧ (s.boot.ready = true → v.getLsbD 31 = true → s.trust.attGo = false → attFree false s.trust.hostLast s.keep.ticks = true →
      exec (.attestationGo v) s = .next { s1 with trust := { s1.trust with
        attGo := true, attState := 1, attCode := 0, report := [], hostReq := some ((s.trust.nonce ++ zeros 32).take 32, v.truncate 8)
        hostLast := some s.keep.ticks } })
    ∧ (s.boot.ready = true → v.getLsbD 31 = true → s.trust.attGo = false → attFree false s.trust.hostLast s.keep.ticks = false →
      exec (.attestationGo v) s = .next { s1 with trust := { s1.trust with
        attGo := true, attState := 3, attCode := 1, report := [], hostReq := none } })
    ∧ (s.boot.ready = true → v.getLsbD 31 = true → s.trust.attGo = true →
      exec (.attestationGo v) s = .next { s1 with trust := { s1.trust with attCode := 1 } })
    ∧ (s.trust.hostReq = none → exec (.attestationReport false) s = .next { s with trust := { s.trust with attGo := false } })
    ∧ (s.trust.hostReq = some (nonce, ctx) →
      (s.attCheck ctx = 0 → s.trust.next < s.trust.lim → exec (.attestationReport false) s = .next { s with trust := { s.trust.useIndex with
        attGo := false, attState := 2, attCode := 0, attCount := sat16 s.trust.attCount 1, report := s.signedReport false nonce ctx
        hostReq := none } })
      ∧ (s.attCheck ctx ≠ 0 → exec (.attestationReport false) s = .next { s with trust := { s.trust with
        attGo := false, attState := 3, attCode := BitVec.ofNat 8 (s.attCheck ctx), report := [], hostReq := none } })
      ∧ (s.attCheck ctx = 0 → s.trust.lim ≤ s.trust.next →
        exec (.attestationReport false) s = .next s
          ∧ exec (.identityReserve true) s = .next { s with
            free := s.free + 1
            keep := { s.keep with idLim := some (sealRecord s.trust.sealing (nonceOf s.free) (leBytes 8 (s.trust.lim + 4096))) }
            trust := { s.trust with lim := s.trust.lim + 4096 } }))
    ∧ (s.trust.smcReq = some (tag, nonce, ctx) →
      let answer (s : State) (status : Byte) (r : List Byte) : State :=
        { s with sent := s.sent ++ [.mctp s.smbAddress (mctpMsg 0x0005 (leBytes 4 tag.toNat ++ [status] ++ r))] }
      (s.attCheck ctx = 0 → s.trust.next < s.trust.lim → exec (.attestationReport true) s = .next
        (answer { s with trust := { s.trust.useIndex with smcReq := none } } 0 (s.signedReport true nonce ctx)))
      ∧ (s.attCheck ctx ≠ 0 → exec (.attestationReport true) s = .next
        (answer { s with trust := { s.trust with smcReq := none } } (BitVec.ofNat 8 (s.attCheck ctx)) []))
      ∧ (s.attCheck ctx = 0 → s.trust.lim ≤ s.trust.next → exec (.attestationReport true) s = .next s))
    ∧ (s.serves = true → nonce.length = 32 →
      (attFree s.trust.smcReq.isSome s.trust.smcLast s.keep.ticks = true →
        exec (.smcAttestationRequest tag nonce ctx) s = .next { s.smcAck tag 0 0 with
          trust := { s.trust with smcReq := some (tag, nonce, ctx), smcLast := some s.keep.ticks } })
      ∧ (attFree s.trust.smcReq.isSome s.trust.smcLast s.keep.ticks = false →
        exec (.smcAttestationRequest tag nonce ctx) s = .next ((s.smcAck tag 0 0).smcReport tag 1 [])))
    ∧ (s.serves = true → nonce.length ≠ 32 → exec (.smcAttestationRequest tag nonce ctx) s = .next (s.smcAck tag 3 0))
    ∧ (s.boot.ready = true → (∀ i ∈ s.jobs, i.regens = false) →
      (s.trust.idrdy = false → s.trust.seeds.isSome = true →
        exec .treeBuildDone s = .next { s with trust := { s.trust with idrdy := true, building := false } })
      ∧ (s.trust.idrdy = true → s.trust.building = true →
        exec .treeBuildDone s = .next { s with trust := { s.trust with building := false, built := true } }))
    ∧ exec (.testAccessPortInstruction basic) s = .next
      { s with sent := s.sent ++ [.tap (basic || (s.trust.dbg && !s.trust.sealed))] }) ∧
  (∀ t : Trust,
    let n := t.next + 1
    t.useIndex.next = n ∧ (n % 2 ^ 20 = 2 ^ 19 → t.useIndex.building = true ∧ t.useIndex.built = false ∧ t.useIndex.idrdy = t.idrdy)
    ∧ (n % 2 ^ 20 = 0 → t.useIndex.idrdy = t.built ∧ t.useIndex.built = false)
    ∧ (n % 2 ^ 20 ≠ 0 → n % 2 ^ 20 ≠ 2 ^ 19 → t.useIndex = { t with next := n })) ∧
  (∀ (key nonce plain : List Byte) (n : Nat), (sealRecord key nonce plain).opened key = some plain
    ∧ (n < 2 ^ 64 → limOf key (some (sealRecord key nonce (leBytes 8 n))) = some n)) ∧
  (∀ (r : Sealed) (key : List Byte), sealTag key r.nonce r.text ≠ r.tag → r.opened key = none ∧ limOf key (some r) = none)

/-! ### Resets and start-up -/

/-- Every reset of module level leaves the reset state but for what R453 lets stand: the fuses and the keeping flash, the inputs of the carrier with
their debounced levels, LPDDR, and the resident firmware unless DISCARD was set or its digest is no longer the one recorded; it sends STOP for a
running job first, and an event that calls for the cold path has invalidated the token. A ROM test that fails, or finds no sponge lane, stands until
power-good. A power loss leaves the keeping flash alone (R405, R435, R436, R437, R439, R451, R453, R478, R495, R498, R503, R508). What stays beyond
R453's words, the host link after a reset and the sticky values of configuration space are the model's choices (log entries 70, 71 and 119). -/
def Obligations.ModuleResets : Prop :=
  ∀ (s : State) (st : Straps) (rom : RomTest) (tag : Word32) (e : Byte),
    (s.alive = true → exec (.moduleReset st rom) s = .next (s.moduleReset st rom false)
      ∧ exec (.hotReset st rom) s = .next ((s.moduleReset st rom false).keepSticky s.host.cfg)
      ∧ exec (.functionLevelReset st rom) s = .next ((s.moduleReset st rom true).keepSticky s.host.cfg))
    ∧ (s.serves = true → exec (.smcReset tag st rom) s = .next ((s.smcAck tag 0 0).moduleReset st rom false))
    ∧ (s.alive = true → s.boot.fwstate = 4 → exec (.watchdog st rom) s = .next (State.moduleReset (State.dropToken { s with
        free := s.free + 1, keep := s.flushed.log (s.mkRecord { code := 0x0604, a0 := BitVec.ofNat 32 s.boot.phase.toNat })
        err := { s.err with ppend := [] } }) st rom false))
    ∧ (let t := s.moduleReset st rom (decide (e = 0))
      t.cores = [] ∧ t.parts = [] ∧ t.passes = [] ∧ t.ctxs = [] ∧ t.mbx = [] ∧ t.jobs = [] ∧ t.run = {} ∧ t.err = {} ∧ t.links = {}
        ∧ t.ring = {} ∧ t.phys = {} ∧ t.resets = [] ∧ t.boot.ready = false ∧ t.boot.strict = false ∧ t.boot.halt = false ∧ t.trust.dbg = false
        ∧ t.boot.straps = st ∧ t.lpddr = s.lpddr ∧ t.keep = s.stopForReset.keepAtReset
        ∧ t.host.expert = st.expert ∧ t.host.lock = false ∧ t.trust.jumper = s.trust.jumper ∧ t.trust.sealed = s.trust.sealed
        ∧ t.trust.stuck = false ∧ t.trust.sampled = false
        ∧ (s.err.tokDue = true → t.keep.tokValid = false)
        ∧ (s.boot.discard = true → t.boot.fw = none)
        ∧ (s.boot.romOk = false ∨ rom.ok = false ∨ rom.lanes = 0xF → t.boot.fwstate = 0xF)
        ∧ (∀ f, s.boot.discard = false → s.boot.fw = some f → s.boot.romOk = true → rom.ok = true → rom.lanes ≠ 0xF →
          (digest512 f.image = f.digest → t.boot.fw = some f ∧ t.boot.fwstate = 4)
          ∧ (digest512 f.image ≠ f.digest → t.boot.fw = none ∧ t.boot.fwstate = 1))
        ∧ t.boot.romDig = rom.lanes
        ∧ t.pending = s.pending)
    ∧ (s.boot.power = false →
      let t := State.resetBase { s with
        lpddr := [], err := {}, run := {}, keep := { s.keep with ticks := 0, cycles := s.keep.cycles + 1 }
        boot := { s.boot with power := true, romOk := true, smbAdr := st.smbAdr, fw := none, results := none } } st
      t.boot.power = true ∧ t.boot.fw = none ∧ t.boot.ready = false ∧ t.lpddr = []
        ∧ (s.boot.perst = true → exec (.powerGood st rom) s = .next t)
        ∧ (s.boot.perst = false → exec (.powerGood st rom) s = .next (t.trainHost.romRun rom)))
    ∧ (s.boot.power = true → exec .powerGoodDrop s = .next
      { pending := s.pending, sent := s.sent, free := s.free, keep := s.keep, boot := { perst := s.boot.perst } })
    ∧ (s.boot.perst = false → s.boot.power = true → exec (.perstAssert st) s = .next
      { s.stopForReset.resetBase st with boot := { (s.stopForReset.resetBase st).boot with perst := true } })
    ∧ (s.boot.perst = true → s.boot.power = true → exec (.perstDeassert rom) s = .next
      (({ s with boot := { s.boot with perst := false } }).trainHost.romRun rom))
    ∧ (s.boot.perst = true → s.boot.power = false → exec (.perstDeassert rom) s = .next { s with boot := { s.boot with perst := false } })

/-- The firmware load: GO starts the pull; when the transfer has ended the ROM holds the image and verifies it; the first failing check of R483 gives
its code, an image that passes them all starts, is kept with its digest, may raise the floor and takes the cold path (R438, R439, R440, R459, R480,
R482 to R484). That one FIRMWARE_VERIFIED ends the transfer and the next gives the verdict, the reading of the XMSS signature and the code of a
RELEASE out of range are the model's choices (log entries 146, 116 and 135). -/
def Obligations.FirmwareLoads : Prop :=
  (∀ (s : State) (v : Word32) (img : Option (List Byte)) (l : List Byte),
    let n := s.boot.fwlen.toNat
    let b := s.boot.fwImg
    let s1 := { s with boot := { s.boot with discard := v.getLsbD 1 } }
    let failed (code : Byte) : State := { s with boot := { s.boot with fwcode := code, fwstate := 1, fwImg := [], go := false } }
    let lenOk := n ≠ 0 ∧ n % 64 = 0 ∧ n ≤ 8388608
    (s.alive = true → v.getLsbD 0 = false → exec (.fwLoadGo v) s = .next s1)
    ∧ (s.alive = true → v.getLsbD 0 = true → s.boot.fwstate = 1 → exec (.fwLoadGo v) s = .next
      { s with boot := { s.boot with
        discard := v.getLsbD 1, att := BitVec.ofNat 8 (Nat.min (s.boot.att.toNat + 1) 0xFF), fwstate := 2, go := true } })
    ∧ (s.boot.fwstate = 2 →
      (¬ lenOk → exec (.firmwareVerified img) s = .next (failed 1))
      ∧ (lenOk → exec (.firmwareVerified none) s = .next (failed 2))
      ∧ (lenOk → exec (.firmwareVerified (some l)) s = .next
        { s with boot := { s.boot with fwstate := 3, fwImg := (l ++ zeros n).take n } }))
    ∧ (s.boot.fwstate = 3 →
      (fwHeaderOk b = false → exec (.firmwareVerified img) s = .next (failed 3))
      ∧ (fwHeaderOk b = true → fwSigned s.keep.vkeyBytes b = false → exec (.firmwareVerified img) s = .next (failed 4))
      ∧ (fwHeaderOk b = true → fwSigned s.keep.vkeyBytes b = true → leAt b 8 4 < s.keep.floor →
        exec (.firmwareVerified img) s = .next (failed 5))
      ∧ (fwHeaderOk b = true → fwSigned s.keep.vkeyBytes b = true → s.keep.floor ≤ leAt b 8 4 →
        exec (.firmwareVerified img) s = .next (State.goCold { s with
          keep := s.keep.raiseFloor (leAt b 12 4)
          boot := { s.boot with fw := some (Firmware.mk b (digest512 b) (leAt b 8 4)), fwstate := 4, fwImg := [], go := false } })))
    ∧ (s.boot.fwstate ≠ 2 → s.boot.fwstate ≠ 3 → exec (.firmwareVerified img) s = .next s)
    ∧ s.goCold = { s with boot := { s.boot with path := 1, tok := s.tokCode, phase := 3 } }) ∧
  (∀ (k : Persist) (f : Nat),
    (k.floor < f → k.floors.length < 16 → k.raiseFloor f = { k with floors := k.floors ++ [BitVec.ofNat 20 f] })
    ∧ (f ≤ k.floor ∨ 16 ≤ k.floors.length → k.raiseFloor f = k)) ∧
  (∀ b : List Byte, fwHeaderOk b = true → 1 ≤ leAt b 8 4 ∧ leAt b 8 4 < 2 ^ 20 ∧ leAt b 12 4 ≤ leAt b 8 4 ∧ leAt b 4 2 = 1
    ∧ 0x100 + leAt b 0x10 8 + 2820 ≤ b.length ∧ b.length < 0x100 + leAt b 0x10 8 + 2884)

/-- The two paths of a start-up. Without a valid token every unit is tested, the results are resolved, a second test repeats until nothing more
fails, and then the token is written and READY set; with one the warm path trains LPDDR, resolves the exclusions that stand and tests nothing. The
token has the layout of R449 and serves while R450 holds. Strict mode takes its strap at READY, and the identity's next index stands at the limit
that its sealed record holds (R159, R440 to R450, R487). The contents of LPDDR after the tests, how often exclusions are logged, what a record
holds, the token's CHECK and that each COLD_PATH or WARM_PATH is one phase are the model's choices (log entries 6, 73, 116, 132 and 146). -/
def Obligations.StartUpPaths : Prop :=
  (∀ (s : State) (t x : TestResults) (f : List Nat),
    (s.awaitsPath = true → s.tokCode ≠ 0 → exec (.coldPath t) s = .next s.goCold ∧ exec (.warmPath f) s = .next s)
    ∧ (s.awaitsPath = true → s.tokCode = 0 → exec (.coldPath t) s = .next s
      ∧ exec (.warmPath f) s = .next { s with boot := { s.boot with path := 2, tok := 0, phase := 7, testBad := [] } })
    ∧ (s.alive = true → s.boot.ready = false → s.boot.path = 1 →
      (s.boot.phase = 3 → exec (.coldPath t) s = .next { s with lpddr := [], boot := { s.boot with
        phase := 4, testBad := t.cores, results := some { t with digest := t.digest ||| s.boot.romDig } } })
      ∧ (s.boot.phase = 4 → s.boot.results = some t → exec (.coldPath x) s = .next
        ((({ s with boot := { s.boot with phase := 5 } }).resolve t (~~~s.keep.fuseOff) []).raiseRows t))
      ∧ (s.boot.phase = 5 → s.boot.results = some t →
        (s.keep.addsResults t x = false → exec (.startupRetest x) s = .next (s.finishCold t))
        ∧ (s.keep.addsResults t x = true → exec (.startupRetest x) s = .next
          ((({ s with boot := { s.boot with
              testBad := (plusResults t x).cores, results := some (plusResults t x)
              repeats := BitVec.ofNat 7 (Nat.min (s.boot.repeats.toNat + 1) 127) } }).resolve (plusResults t x) s.boot.enabled
                s.keep.unserved).raiseRows x))))
    ∧ (s.alive = true → s.boot.ready = false → s.boot.path = 2 →
      (s.boot.phase = 7 → exec (.warmPath f) s = .next { s with boot := { s.boot with phase := 4, lpdBad := f } })
      ∧ (s.boot.phase = 4 → s.boot.results = some t → exec (.warmPath f) s = .next
        (((s.applyExcl (s.keep.exclWith []) t s.boot.lpdBad).raiseLost (enabledMask s.keep.fuseOff s.keep.vouched s.keep.units)).finishStart
          t s.boot.lpdBad 120)))
    ∧ ((s.finishStart t f 120).boot.ready = true ∧ (s.finishStart t f 120).boot.strict = s.boot.straps.strict
      ∧ (s.finishStart t f 120).lpddr = s.lpddr)
    ∧ (∀ sd n, keySeeds s.trust.kf s.keep.idgen s.keep.idPend = none → keySeeds (s.trust.kn.getD []) (s.keep.idgen + 1) s.keep.idPend = none →
      keySeeds s.trust.kf s.keep.idgen s.keep.idKey = some sd → limOf s.trust.kf s.keep.idLim = some n →
      s.openIdentity.trust.seeds = some sd ∧ s.openIdentity.trust.next = n ∧ s.openIdentity.trust.lim = n)
    ∧ ((s.finishCold t).keep.token = s.keep.tokenAt s.keep.powered ∧ (s.finishCold t).boot.ready = true
      ∧ (s.finishCold t).err.tokDue = false)
    ∧ (s.tokCode = 0 ↔ s.keep.token ≠ [] ∧ s.keep.tokIntact = true ∧ s.keep.tokModser = s.keep.modser.toNat ∧ s.keep.tokFuses = s.keep.mapDigest
      ∧ s.keep.tokWritten ≤ s.keep.powered ∧ s.keep.powered < s.keep.tokWritten + 604800 ∧ s.boot.results ≠ none ∧ s.keep.tokValid = true
      ∧ s.boot.straps.cold = false ∧ s.boot.att = 0)) ∧
  (∀ (k : Persist) (w : Nat), w < 2 ^ 64 →
    let y := { k with token := k.tokenAt w }
    y.token.length = 64 ∧ y.tokIntact = true ∧ y.tokValid = true ∧ y.tokModser = k.modser.toNat ∧ y.tokFuses = k.mapDigest
    ∧ y.tokSpseq = k.spseq % 2 ^ 32 ∧ y.tokWritten = w)

/-! ### Physics and faults -/

/-- Sensor samples, of which every tenth is one of the presence inputs too and ends a round of the digest engine, rails, floors, wear, whose samples
come once in 2^20 steps and keep the lowest margin, and LPDDR link errors (R393, R400, R458, R498, R504, R511, R512, R514, R515). When the
refresh-rate codes are read and how the window average is formed are the model's choices (log entries 122 and 66). -/
def Obligations.SensorsAndRails : Prop :=
  ∀ (s : State) (x : Sensors) (q : Fin 256) (n : Fin 12) (ch : Fin 4) (off : Nat) (l : List (Nat × Nat)), s.alive = true →
    let s1 := State.readTref { s with keep := { s.keep with ticks := s.keep.ticks + 1 }, phys := s.phys.sample x }
    let s2 := s1.sampleInputs x.expert x.sealed
    ((s.keep.ticks + 1) % 10 ≠ 0 → exec (.junctionSample x) s = .next ((s.phys.sample x).tripped.foldl (fun s q => s.junctionTrip q) s1))
    ∧ ((s.keep.ticks + 1) % 10 = 0 → exec (.junctionSample x) s = .next ((s.phys.sample x).tripped.foldl (fun s q => s.junctionTrip q)
      { s2 with trust := { s2.trust with round := if s.boot.ready then s2.digRound else 0 } }))
    ∧ (s.boot.fwstate = 4 → s.phys.va ≠ 0 → exec .vcoreStep s = .next { s with phys := { s.phys with
        plim := s.phys.limit
        va := railStep s.phys.va s.phys.vmax s.phys.pin.toNat s.phys.limit (hottest (s.dieTj false)).toInt
        vb := railStep s.phys.vb s.phys.vmax s.phys.pin.toNat s.phys.limit (hottest (s.dieTj true)).toInt } })
    ∧ (∀ v vmax avg plim hot, 650 ≤ v → 650 ≤ vmax → v % 10 = 0 → vmax % 10 = 0 → 650 ≤ railStep v vmax avg plim hot ∧ railStep v vmax avg plim hot ≤ Nat.max v vmax
      ∧ (plim < avg → railStep v vmax avg plim hot = Nat.max 650 (v - 10)))
    ∧ (s.runHolds = true → 100 ≤ s.phys.powerOver → 100 ≤ sget 0 s.phys.hot lowKey → exec .powerFloor s = .next
      (s.raise { code := 0x0206, ctx := BitVec.ofNat 8 s.run.ctx.val, a0 := BitVec.ofNat 32 s.phys.pin.toNat, a1 := BitVec.ofNat 32 s.phys.va }))
    ∧ (s.runHolds = true → 100 ≤ sget 0 s.phys.hot q.val → s.phys.tripped = [] → exec (.thermalFloor q) s = .next
      (s.raise { code := 0x0207, unit := clusterUnit q.val, ctx := BitVec.ofNat 8 s.run.ctx.val
                 a0 := BitVec.ofInt 32 (junction s.phys.tj q.val).toInt }))
    ∧ (s.boot.ready = true → (∀ y ∈ l, y.1 < 2304 ∧ y.2 < 1024) → s.boot.wearAt ≤ s.ring.ms / 2 ^ 20 →
      exec (.wearSample l) s = .next (l.foldl (fun s y => s.wearOf y.1 y.2)
        { s with boot := { s.boot with wearAt := s.ring.ms / 2 ^ 20 + 1 } }))
    ∧ (s.ring.ms / 2 ^ 20 < s.boot.wearAt → exec (.wearSample l) s = .next s)
    ∧ (∀ p m, (s.wearOf p m).keep.margin p = some (match s.keep.margin p with
      | some o => Nat.min o m
      | none => m))
    ∧ (exec (.lpddrLinkError n off ch true) s = .next (s.modLctl n fun c => { c with cor := sat16 c.cor 1 })
      ∧ exec (.lpddrLinkError n off ch false) s = .next ((s.modLctl n fun c => { c with unc := sat16 c.unc 1 }).raise
        { code := 0x0205, unit := BitVec.ofNat 32 (0x40000000 + n.val), a0 := BitVec.ofNat 32 off, a1 := BitVec.ofNat 32 (off / 2 ^ 32)
          a2 := BitVec.ofNat 32 ch.val }))

/-- An event raises its record with the immediate action of its class; handling takes the head in order, first into the volatile log, then out of
the queue, with the actions of a CONDITION: a damaged slot is marked, batches are refused for a worn position that no start-up has excluded, the
token falls. Scheduled records go to the persistent log one by one; the SMC's halt is a Module-class event once (R325, R451, R458, R465, R468, R475,
R476). -/
def Obligations.EventsHandled : Prop :=
  ∀ (s : State) (e : EvReq) (r : EvRec) (l : List EvRec) (tag : Word32), s.alive = true →
    let s1 := if e.code.toNat / 256 = 1 ∧ e.unit.toNat / 2 ^ 28 = 1 then s.modCore (unitCore e.unit) Core.stopNow else s
    (eventKnown e.code = true → e.code ≠ 0x0604 → exec (.eventRaise e) s = .next (s1.raise
      { code := e.code, unit := e.unit, layer := e.layer, pc := e.pc, ctx := (e.ctx.map fun x => BitVec.ofNat 8 x.val).getD 0xFF
        a0 := e.arg0, a1 := e.arg1, a2 := e.arg2, a3 := e.arg3 }))
    ∧ (eventKnown e.code = false → exec (.eventRaise e) s = .next s)
    ∧ (s.boot.fwstate = 4 → s.err.queue = r :: l →
      (s.err.busy = false → exec .recordHandling s = .next
        { s with err := { s.err with busy := true, vlog := s.err.vlog.filter (fun x => decide (x.seq % 4096 ≠ r.seq % 4096)) ++ [r] } })
      ∧ (s.err.busy = true → s.accounts r = false ∨ s.run.stopLeft = 0 → exec .recordHandling s = .next (s.endHandling r))
      ∧ (s.err.busy = true → s.accounts r = true → s.run.stopLeft ≠ 0 → exec .recordHandling s = .next s))
    ∧ (∀ (x k i : Nat) (ed : Word32) (n : Nat), r.code ≠ 0x0802 →
      let t := { s with err := { s.err with acts := [] } }
      (s.err.acts = [(r.code, .damage x k (some i) ed)] → s.condStep r = t.markDamage x k (some i) ed)
      ∧ (s.err.acts = [(r.code, .wear n)] → s.condStep r = if n ∈ s.boot.excl then t else { t with boot := { s.boot with wearCrit := true } })
      ∧ ((∀ a ∈ s.err.acts, a.1 ≠ r.code) → s.condStep r = s))
    ∧ (r.remote = false → r.code = 0x0401 ∨ r.code = 0x0205 ∨ r.code = 0x0602 ∨ r.code = 0x0603 ∨ r.code = 0x0804 → s.boot.tokSeq ≤ r.seq →
      s.tokenStep r = s.dropToken)
    ∧ (s.err.ppend = r :: l → exec .persistentLogWrite s = .next { s with keep := s.keep.log r, err := { s.err with ppend := l } })
    ∧ (s.serves = true → s.boot.halt = false → exec (.smcHalt tag) s = .next ((s.raise { code := 0x0803, a0 := tag }).smcAck tag 0 0))
    ∧ (s.serves = true → s.boot.halt = true → exec (.smcHalt tag) s = .next (s.smcAck tag 0 0))

/-- Raising an event sets the bit of its class; a JOB event stops the running job, a MODULE event halts the module, any other changes neither the
cores nor LPDDR. A record with the key of one that waits adds to its COUNT, up to 255, and a code that the run has entered makes no other; a full
queue of 32 records loses the record and counts it. An event that calls for the cold path is noted for the next reset (R451, R461, R465, R466,
R470, R471, R479). -/
def Obligations.EventClasses : Prop :=
  ∀ (s : State) (e : Ev),
    (s.raise e).err.errsum.getLsbD (eventClass e.code).toNat = true
    ∧ (eventClass e.code = clsModule → s.boot.halt = false → (s.raise e).boot.halt = true)
    ∧ (eventClass e.code ≠ clsModule → eventClass e.code ≠ clsJob →
      (s.raise e).cores = s.cores ∧ (s.raise e).lpddr = s.lpddr ∧ (s.raise e).run = s.run ∧ (s.raise e).boot = s.boot)
    ∧ (eventClass e.code = clsJob → s.runBound = true → e.remote = none → (s.raise e).run.stopped = true)
    ∧ (eventClass e.code = clsJob → s.run.phase = .idle → e.remote = none → s.err.busy = false → (s.raise e).cores = s.cores)
    ∧ (dropsToken e = true → (s.raise e).err.tokDue = true)
    ∧ (∀ r : EvRec,
      ((∃ q ∈ s.err.queue, q.sameKey r = true) → s.offer r = { s with err := { s.err with queue := bumpCount r s.err.queue } })
      ∧ ((∀ q ∈ s.err.queue, q.sameKey r = false) →
        (r.runid ≠ 0 → (r.runid, r.code) ∈ s.err.entered → s.offer r = s)
        ∧ (r.runid = 0 ∨ (r.runid, r.code) ∉ s.err.entered → s.offer r = s.enqueue r))
      ∧ (∀ (a : List EvRec) (q : EvRec) (b : List EvRec), (∀ y ∈ a, y.sameKey r = false) → q.sameKey r = true →
        bumpCount r (a ++ q :: b) = a ++ { q with count := Nat.min (q.count + 1) 255 } :: b)
      ∧ (s.err.queue.length < 32 → (s.enqueue r).err.queue = s.err.queue ++ [{ r with seq := s.err.seq }] ∧ (s.enqueue r).err.seq = s.err.seq + 1)
      ∧ (32 ≤ s.err.queue.length → (s.enqueue r).err.queue = s.err.queue ∧ (s.enqueue r).err.lostCount = sat16 s.err.lostCount 1
        ∧ (s.enqueue r).err.seq = s.err.seq))

/-- The messages of the SMC: plans, routing entries and power limits are checked, acknowledged with the first reason that fails, and taken; telemetry
and the MCTP control requests are answered; queued messages go out once an endpoint ID is set (R349, R350, R354, R356 to R358, R511, R520 to R523).
The bytes of the control responses, of which one is free, the order of the reasons for a routing entry and which messages wait for an endpoint ID are
the model's choices (log entries 60, 147, 69 and 81). -/
def Obligations.Sideband : Prop :=
  ∀ (s : State) (tag : Word32) (b : List Byte) (n : BitVec 16) (a r p i : Byte) (m : List Byte) (l : List (List Byte)), s.serves = true →
    (b.length = 224 → leAt b 0x10 8 = s.keep.modser.toNat → planOk b = true → s.boot.straps.coord = false →
      exec (.cablingPlan tag b) s = .next ((s.takePlan (parsePlan b)).smcAck tag 0 0))
    ∧ (b.length = 224 → leAt b 0x10 8 ≠ s.keep.modser.toNat → exec (.cablingPlan tag b) s = .next (s.smcAck tag 1 1))
    ∧ (s.boot.straps.coord = true → shapeOk a.toNat r.toNat p.toNat i.toNat = true → exec (.coordinateMessage tag a r p i) s = .next
      ((s.takePlan { cmode := true, dres := 1, xwrap := false, planid := 0, ringlen := a.toNat, rings := r.toNat, pos := p.toNat
                     idx := i.toNat, ports := [] }).smcAck tag 0 0))
    ∧ (s.boot.straps.coord = false → exec (.coordinateMessage tag a r p i) s = .next (s.smcAck tag 1 0x20))
    ∧ (b.length = 32 → s.routeCheck n (parseRoute b) = 0 → exec (.routingEntryWrite tag n b) s = .next
      ((s.writeRoute n.toNat (parseRoute b)).smcAck tag 0 0))
    ∧ (b.length = 32 → s.routeCheck n (parseRoute b) ≠ 0 → exec (.routingEntryWrite tag n b) s = .next
      (s.smcAck tag 1 (BitVec.ofNat 8 (s.routeCheck n (parseRoute b)))))
    ∧ exec (.smcPowerLimit tag n) s = .next (({ s with phys := { s.phys with slim := n.toNat } }).smcAck tag 0 0)
    ∧ exec (.telemetryRequest tag) s = .next { s.smcAck tag 0 0 with
        sent := (s.smcAck tag 0 0).sent ++ [.mctp s.smbAddress (mctpMsg 0x0021 (leBytes 4 tag.toNat ++ s.telemetry))] }
    ∧ (a ≠ 0 → a ≠ 0xFF → exec (.setEndpointId a) s = .next (({ s with phys := { s.phys with eid := some a } }).control 0x01 0x00 [0x00, a, 0x00]))
    ∧ (exec .getEndpointId s = .next (s.control 0x02 0x00 [s.phys.eid.getD 0, 0x00, 0x00])
      ∧ exec (.getMctpVersionSupport 0x7E) s = .next (s.control 0x04 0x00 [0x01, 0xF1, 0xF3, 0xF0, 0x00])
      ∧ exec .getMessageTypeSupport s = .next (s.control 0x05 0x00 [0x02, 0x00, 0x7E])
      ∧ exec (.getVendorDefinedMessageSupport 0) s = .next (s.control 0x06 0x00 [0xFF, 0x00, 0x1F, 0x4C, 0x00, 0x00]))
    ∧ (s.phys.eid.isSome = true → s.phys.smcq = m :: l → exec .smcMessageSent s = .next
      { s with phys := { s.phys with smcq := l }, sent := s.sent ++ [.mctp s.smbAddress m] })
    ∧ s.smbAddress.toNat = 0x60 + s.boot.smbAdr.toNat
    ∧ (∀ (cmd cc : Byte) (d : List Byte), s.control cmd cc d = { s with
        free := s.free + 1, sent := s.sent ++ [.mctp s.smbAddress ([0x00, (Config.freeWord64 s.free).truncate 8, cmd, cc] ++ d)] })
    ∧ (s.phys.eid = none → exec .smcMessageSent s = .next s)

/-! ### Invariants -/

/-- Every step keeps LPDDR in canonical form, whatever command it takes. -/
def Obligations.LpddrStaysCanonical : Prop :=
  ∀ s t : State, s.lpddrWf → step s = .next t → t.lpddrWf

/-- Strict mode leaves a module that has started by a module reset alone: no other command, in whatever state, clears it (R159). -/
def Obligations.StrictModeStays : Prop :=
  ∀ (s t : State) (i : Instr), s.strictOn → resetsModule i = false → exec i s = .next t → t.strictOn

/-- Only a module reset ends a halt: no other command, in whatever state, clears HALT or changes GLB_HALT or GLB_HALTSEQ (R472). -/
def Obligations.HaltStays : Prop :=
  ∀ (s t : State) (i : Instr) (c : BitVec 16) (n : Word32), s.haltedWith c n → resetsModule i = false → exec i s = .next t → t.haltedWith c n

/-- The state after reset: nothing waits, nothing is listed in any memory, LPDDR, BOT, send slots and mailbox pages included, every core is without a
program with its latch sets ready and its header slots Open, every Waymark is zero, no run, no context, mailbox 0 alone is armed, with every context
in its mask, the policy is not locked and grants nothing (R192, R246, R283, R306, R391, R409, R425, R454). Power-good is not asserted (log entry 4);
what memory reads before it is written is the model's choice (log entries 5 and 6). -/
def Obligations.ResetState : Prop :=
  State.reset.pending = [] ∧ State.reset.lpddrWf
    ∧ (∀ c : CoreId,
      let k := State.reset.core c
      k.status = .none ∧ k.sram = [] ∧ (∀ r : Reg, k.sc r = 0) ∧ (∀ t : Tile16, (k.tile t).texp = 0xFFFFFFFF
        ∧ (k.tile t).hdr = 0x0F00000000000000000000#128 ∧ (k.tile t).bytes = [])
      ∧ (∀ ls, (k.latch ls).ready = true) ∧ (∀ n : Fin 32, (k.wm n).value = 0 ∧ (k.wm n).level = 0 ∧ (k.wm n).desig = false)
      ∧ k.vc = 0 ∧ k.xlkind = 0xF)
    ∧ (∀ p : Fin 16, (State.reset.part p).landing = [] ∧ (State.reset.part p).step = 0)
    ∧ (∀ m : MbxId, (State.reset.mbox m).armed = decide (m = 0)
      ∧ ((State.reset.mbox m).mask = if m = 0 then 0xFFFFFFFFFFFFFFFF else 0) ∧ (State.reset.mbox m).page = []
      ∧ (State.reset.mbox m).chead = 0 ∧ (State.reset.mbox m).ctail = 0 ∧ (State.reset.mbox m).rtail = 0 ∧ (State.reset.mbox m).ntail = 0)
    ∧ State.reset.host.lock = false ∧ State.reset.host.expert = false ∧ State.reset.lpddr = [] ∧ State.reset.bot = []
    ∧ (∀ (q : PortId) (i : Fin 16), (State.reset.sendSlot q i).valid = 0 ∧ (State.reset.sendSlot q i).bytes = [])
    ∧ State.reset.jobs = [] ∧ State.reset.notices = [] ∧ State.reset.err.queue = []
    ∧ (∀ x : CtxId, (State.reset.ctx x).opened = false) ∧ (∀ q : PortId, (State.reset.port q).st = .down)
    ∧ State.reset.run.phase = .idle ∧ State.reset.boot.ready = false ∧ State.reset.boot.power = false ∧ State.reset.ring.ms = 0
    ∧ State.reset.lpd.rd = 8 ∧ State.reset.lpd.wr = 5 ∧ State.reset.lpd.rm = 3 ∧ State.reset.scrub.active = 0x05A00005
end

