-- ==== Sys2Proof/Laws/State.lean ====
section
/-! SUPPORT. One lemma per field per update of the state and of a core, each true by rfl, so that no proof unfolds a record update. -/
namespace Sys2Proof.Machine

section
variable (s : State)

@[simp] theorem State.setCore_pending (c : Nat) (k : Core) : (s.setCore c k).pending = s.pending := rfl
@[simp] theorem State.setCore_cores (c : Nat) (k : Core) : (s.setCore c k).cores = sset {} s.cores c k := rfl
@[simp] theorem State.setCore_parts (c : Nat) (k : Core) : (s.setCore c k).parts = s.parts := rfl
@[simp] theorem State.setCore_passes (c : Nat) (k : Core) : (s.setCore c k).passes = s.passes := rfl
@[simp] theorem State.setCore_notices (c : Nat) (k : Core) : (s.setCore c k).notices = s.notices := rfl
@[simp] theorem State.setCore_ring (c : Nat) (k : Core) : (s.setCore c k).ring = s.ring := rfl
@[simp] theorem State.setCore_ports (c : Nat) (k : Core) : (s.setCore c k).ports = s.ports := rfl
@[simp] theorem State.setCore_links (c : Nat) (k : Core) : (s.setCore c k).links = s.links := rfl
@[simp] theorem State.setCore_ctxs (c : Nat) (k : Core) : (s.setCore c k).ctxs = s.ctxs := rfl
@[simp] theorem State.setCore_run (c : Nat) (k : Core) : (s.setCore c k).run = s.run := rfl
@[simp] theorem State.setCore_scrub (c : Nat) (k : Core) : (s.setCore c k).scrub = s.scrub := rfl
@[simp] theorem State.setCore_redigests (c : Nat) (k : Core) : (s.setCore c k).redigests = s.redigests := rfl
@[simp] theorem State.setCore_lpddr (c : Nat) (k : Core) : (s.setCore c k).lpddr = s.lpddr := rfl
@[simp] theorem State.setCore_bot (c : Nat) (k : Core) : (s.setCore c k).bot = s.bot := rfl
@[simp] theorem State.setCore_lpd (c : Nat) (k : Core) : (s.setCore c k).lpd = s.lpd := rfl
@[simp] theorem State.setCore_mbx (c : Nat) (k : Core) : (s.setCore c k).mbx = s.mbx := rfl
@[simp] theorem State.setCore_jobs (c : Nat) (k : Core) : (s.setCore c k).jobs = s.jobs := rfl
@[simp] theorem State.setCore_host (c : Nat) (k : Core) : (s.setCore c k).host = s.host := rfl
@[simp] theorem State.setCore_keep (c : Nat) (k : Core) : (s.setCore c k).keep = s.keep := rfl
@[simp] theorem State.setCore_boot (c : Nat) (k : Core) : (s.setCore c k).boot = s.boot := rfl
@[simp] theorem State.setCore_err (c : Nat) (k : Core) : (s.setCore c k).err = s.err := rfl
@[simp] theorem State.setCore_trust (c : Nat) (k : Core) : (s.setCore c k).trust = s.trust := rfl
@[simp] theorem State.setCore_phys (c : Nat) (k : Core) : (s.setCore c k).phys = s.phys := rfl
@[simp] theorem State.setCore_rgen (c : Nat) (k : Core) : (s.setCore c k).rgen = s.rgen := rfl
@[simp] theorem State.setCore_resets (c : Nat) (k : Core) : (s.setCore c k).resets = s.resets := rfl
@[simp] theorem State.setCore_sent (c : Nat) (k : Core) : (s.setCore c k).sent = s.sent := rfl
@[simp] theorem State.setCore_free (c : Nat) (k : Core) : (s.setCore c k).free = s.free := rfl

@[simp] theorem State.modCore_pending (c : Nat) (f : Core → Core) : (s.modCore c f).pending = s.pending := rfl
@[simp] theorem State.modCore_cores (c : Nat) (f : Core → Core) : (s.modCore c f).cores = sset {} s.cores c (f (s.core c)) := rfl
@[simp] theorem State.modCore_parts (c : Nat) (f : Core → Core) : (s.modCore c f).parts = s.parts := rfl
@[simp] theorem State.modCore_passes (c : Nat) (f : Core → Core) : (s.modCore c f).passes = s.passes := rfl
@[simp] theorem State.modCore_notices (c : Nat) (f : Core → Core) : (s.modCore c f).notices = s.notices := rfl
@[simp] theorem State.modCore_ring (c : Nat) (f : Core → Core) : (s.modCore c f).ring = s.ring := rfl
@[simp] theorem State.modCore_ports (c : Nat) (f : Core → Core) : (s.modCore c f).ports = s.ports := rfl
@[simp] theorem State.modCore_links (c : Nat) (f : Core → Core) : (s.modCore c f).links = s.links := rfl
@[simp] theorem State.modCore_ctxs (c : Nat) (f : Core → Core) : (s.modCore c f).ctxs = s.ctxs := rfl
@[simp] theorem State.modCore_run (c : Nat) (f : Core → Core) : (s.modCore c f).run = s.run := rfl
@[simp] theorem State.modCore_scrub (c : Nat) (f : Core → Core) : (s.modCore c f).scrub = s.scrub := rfl
@[simp] theorem State.modCore_redigests (c : Nat) (f : Core → Core) : (s.modCore c f).redigests = s.redigests := rfl
@[simp] theorem State.modCore_lpddr (c : Nat) (f : Core → Core) : (s.modCore c f).lpddr = s.lpddr := rfl
@[simp] theorem State.modCore_bot (c : Nat) (f : Core → Core) : (s.modCore c f).bot = s.bot := rfl
@[simp] theorem State.modCore_lpd (c : Nat) (f : Core → Core) : (s.modCore c f).lpd = s.lpd := rfl
@[simp] theorem State.modCore_mbx (c : Nat) (f : Core → Core) : (s.modCore c f).mbx = s.mbx := rfl
@[simp] theorem State.modCore_jobs (c : Nat) (f : Core → Core) : (s.modCore c f).jobs = s.jobs := rfl
@[simp] theorem State.modCore_host (c : Nat) (f : Core → Core) : (s.modCore c f).host = s.host := rfl
@[simp] theorem State.modCore_keep (c : Nat) (f : Core → Core) : (s.modCore c f).keep = s.keep := rfl
@[simp] theorem State.modCore_boot (c : Nat) (f : Core → Core) : (s.modCore c f).boot = s.boot := rfl
@[simp] theorem State.modCore_err (c : Nat) (f : Core → Core) : (s.modCore c f).err = s.err := rfl
@[simp] theorem State.modCore_trust (c : Nat) (f : Core → Core) : (s.modCore c f).trust = s.trust := rfl
@[simp] theorem State.modCore_phys (c : Nat) (f : Core → Core) : (s.modCore c f).phys = s.phys := rfl
@[simp] theorem State.modCore_rgen (c : Nat) (f : Core → Core) : (s.modCore c f).rgen = s.rgen := rfl
@[simp] theorem State.modCore_resets (c : Nat) (f : Core → Core) : (s.modCore c f).resets = s.resets := rfl
@[simp] theorem State.modCore_sent (c : Nat) (f : Core → Core) : (s.modCore c f).sent = s.sent := rfl
@[simp] theorem State.modCore_free (c : Nat) (f : Core → Core) : (s.modCore c f).free = s.free := rfl

@[simp] theorem State.modPart_pending (p : Nat) (f : Part → Part) : (s.modPart p f).pending = s.pending := rfl
@[simp] theorem State.modPart_cores (p : Nat) (f : Part → Part) : (s.modPart p f).cores = s.cores := rfl
@[simp] theorem State.modPart_parts (p : Nat) (f : Part → Part) : (s.modPart p f).parts = sset {} s.parts p (f (s.part p)) := rfl
@[simp] theorem State.modPart_passes (p : Nat) (f : Part → Part) : (s.modPart p f).passes = s.passes := rfl
@[simp] theorem State.modPart_notices (p : Nat) (f : Part → Part) : (s.modPart p f).notices = s.notices := rfl
@[simp] theorem State.modPart_ring (p : Nat) (f : Part → Part) : (s.modPart p f).ring = s.ring := rfl
@[simp] theorem State.modPart_ports (p : Nat) (f : Part → Part) : (s.modPart p f).ports = s.ports := rfl
@[simp] theorem State.modPart_links (p : Nat) (f : Part → Part) : (s.modPart p f).links = s.links := rfl
@[simp] theorem State.modPart_ctxs (p : Nat) (f : Part → Part) : (s.modPart p f).ctxs = s.ctxs := rfl
@[simp] theorem State.modPart_run (p : Nat) (f : Part → Part) : (s.modPart p f).run = s.run := rfl
@[simp] theorem State.modPart_scrub (p : Nat) (f : Part → Part) : (s.modPart p f).scrub = s.scrub := rfl
@[simp] theorem State.modPart_redigests (p : Nat) (f : Part → Part) : (s.modPart p f).redigests = s.redigests := rfl
@[simp] theorem State.modPart_lpddr (p : Nat) (f : Part → Part) : (s.modPart p f).lpddr = s.lpddr := rfl
@[simp] theorem State.modPart_bot (p : Nat) (f : Part → Part) : (s.modPart p f).bot = s.bot := rfl
@[simp] theorem State.modPart_lpd (p : Nat) (f : Part → Part) : (s.modPart p f).lpd = s.lpd := rfl
@[simp] theorem State.modPart_mbx (p : Nat) (f : Part → Part) : (s.modPart p f).mbx = s.mbx := rfl
@[simp] theorem State.modPart_jobs (p : Nat) (f : Part → Part) : (s.modPart p f).jobs = s.jobs := rfl
@[simp] theorem State.modPart_host (p : Nat) (f : Part → Part) : (s.modPart p f).host = s.host := rfl
@[simp] theorem State.modPart_keep (p : Nat) (f : Part → Part) : (s.modPart p f).keep = s.keep := rfl
@[simp] theorem State.modPart_boot (p : Nat) (f : Part → Part) : (s.modPart p f).boot = s.boot := rfl
@[simp] theorem State.modPart_err (p : Nat) (f : Part → Part) : (s.modPart p f).err = s.err := rfl
@[simp] theorem State.modPart_trust (p : Nat) (f : Part → Part) : (s.modPart p f).trust = s.trust := rfl
@[simp] theorem State.modPart_phys (p : Nat) (f : Part → Part) : (s.modPart p f).phys = s.phys := rfl
@[simp] theorem State.modPart_rgen (p : Nat) (f : Part → Part) : (s.modPart p f).rgen = s.rgen := rfl
@[simp] theorem State.modPart_resets (p : Nat) (f : Part → Part) : (s.modPart p f).resets = s.resets := rfl
@[simp] theorem State.modPart_sent (p : Nat) (f : Part → Part) : (s.modPart p f).sent = s.sent := rfl
@[simp] theorem State.modPart_free (p : Nat) (f : Part → Part) : (s.modPart p f).free = s.free := rfl

@[simp] theorem State.modPass_pending (p : Nat) (f : Pass → Pass) : (s.modPass p f).pending = s.pending := rfl
@[simp] theorem State.modPass_cores (p : Nat) (f : Pass → Pass) : (s.modPass p f).cores = s.cores := rfl
@[simp] theorem State.modPass_parts (p : Nat) (f : Pass → Pass) : (s.modPass p f).parts = s.parts := rfl
@[simp] theorem State.modPass_passes (p : Nat) (f : Pass → Pass) : (s.modPass p f).passes = sset {} s.passes p (f (s.pass p)) := rfl
@[simp] theorem State.modPass_notices (p : Nat) (f : Pass → Pass) : (s.modPass p f).notices = s.notices := rfl
@[simp] theorem State.modPass_ring (p : Nat) (f : Pass → Pass) : (s.modPass p f).ring = s.ring := rfl
@[simp] theorem State.modPass_ports (p : Nat) (f : Pass → Pass) : (s.modPass p f).ports = s.ports := rfl
@[simp] theorem State.modPass_links (p : Nat) (f : Pass → Pass) : (s.modPass p f).links = s.links := rfl
@[simp] theorem State.modPass_ctxs (p : Nat) (f : Pass → Pass) : (s.modPass p f).ctxs = s.ctxs := rfl
@[simp] theorem State.modPass_run (p : Nat) (f : Pass → Pass) : (s.modPass p f).run = s.run := rfl
@[simp] theorem State.modPass_scrub (p : Nat) (f : Pass → Pass) : (s.modPass p f).scrub = s.scrub := rfl
@[simp] theorem State.modPass_redigests (p : Nat) (f : Pass → Pass) : (s.modPass p f).redigests = s.redigests := rfl
@[simp] theorem State.modPass_lpddr (p : Nat) (f : Pass → Pass) : (s.modPass p f).lpddr = s.lpddr := rfl
@[simp] theorem State.modPass_bot (p : Nat) (f : Pass → Pass) : (s.modPass p f).bot = s.bot := rfl
@[simp] theorem State.modPass_lpd (p : Nat) (f : Pass → Pass) : (s.modPass p f).lpd = s.lpd := rfl
@[simp] theorem State.modPass_mbx (p : Nat) (f : Pass → Pass) : (s.modPass p f).mbx = s.mbx := rfl
@[simp] theorem State.modPass_jobs (p : Nat) (f : Pass → Pass) : (s.modPass p f).jobs = s.jobs := rfl
@[simp] theorem State.modPass_host (p : Nat) (f : Pass → Pass) : (s.modPass p f).host = s.host := rfl
@[simp] theorem State.modPass_keep (p : Nat) (f : Pass → Pass) : (s.modPass p f).keep = s.keep := rfl
@[simp] theorem State.modPass_boot (p : Nat) (f : Pass → Pass) : (s.modPass p f).boot = s.boot := rfl
@[simp] theorem State.modPass_err (p : Nat) (f : Pass → Pass) : (s.modPass p f).err = s.err := rfl
@[simp] theorem State.modPass_trust (p : Nat) (f : Pass → Pass) : (s.modPass p f).trust = s.trust := rfl
@[simp] theorem State.modPass_phys (p : Nat) (f : Pass → Pass) : (s.modPass p f).phys = s.phys := rfl
@[simp] theorem State.modPass_rgen (p : Nat) (f : Pass → Pass) : (s.modPass p f).rgen = s.rgen := rfl
@[simp] theorem State.modPass_resets (p : Nat) (f : Pass → Pass) : (s.modPass p f).resets = s.resets := rfl
@[simp] theorem State.modPass_sent (p : Nat) (f : Pass → Pass) : (s.modPass p f).sent = s.sent := rfl
@[simp] theorem State.modPass_free (p : Nat) (f : Pass → Pass) : (s.modPass p f).free = s.free := rfl

@[simp] theorem State.modPort_pending (q : Nat) (f : Port → Port) : (s.modPort q f).pending = s.pending := rfl
@[simp] theorem State.modPort_cores (q : Nat) (f : Port → Port) : (s.modPort q f).cores = s.cores := rfl
@[simp] theorem State.modPort_parts (q : Nat) (f : Port → Port) : (s.modPort q f).parts = s.parts := rfl
@[simp] theorem State.modPort_passes (q : Nat) (f : Port → Port) : (s.modPort q f).passes = s.passes := rfl
@[simp] theorem State.modPort_notices (q : Nat) (f : Port → Port) : (s.modPort q f).notices = s.notices := rfl
@[simp] theorem State.modPort_ring (q : Nat) (f : Port → Port) : (s.modPort q f).ring = s.ring := rfl
@[simp] theorem State.modPort_ports (q : Nat) (f : Port → Port) : (s.modPort q f).ports = sset {} s.ports q (f (s.port q)) := rfl
@[simp] theorem State.modPort_links (q : Nat) (f : Port → Port) : (s.modPort q f).links = s.links := rfl
@[simp] theorem State.modPort_ctxs (q : Nat) (f : Port → Port) : (s.modPort q f).ctxs = s.ctxs := rfl
@[simp] theorem State.modPort_run (q : Nat) (f : Port → Port) : (s.modPort q f).run = s.run := rfl
@[simp] theorem State.modPort_scrub (q : Nat) (f : Port → Port) : (s.modPort q f).scrub = s.scrub := rfl
@[simp] theorem State.modPort_redigests (q : Nat) (f : Port → Port) : (s.modPort q f).redigests = s.redigests := rfl
@[simp] theorem State.modPort_lpddr (q : Nat) (f : Port → Port) : (s.modPort q f).lpddr = s.lpddr := rfl
@[simp] theorem State.modPort_bot (q : Nat) (f : Port → Port) : (s.modPort q f).bot = s.bot := rfl
@[simp] theorem State.modPort_lpd (q : Nat) (f : Port → Port) : (s.modPort q f).lpd = s.lpd := rfl
@[simp] theorem State.modPort_mbx (q : Nat) (f : Port → Port) : (s.modPort q f).mbx = s.mbx := rfl
@[simp] theorem State.modPort_jobs (q : Nat) (f : Port → Port) : (s.modPort q f).jobs = s.jobs := rfl
@[simp] theorem State.modPort_host (q : Nat) (f : Port → Port) : (s.modPort q f).host = s.host := rfl
@[simp] theorem State.modPort_keep (q : Nat) (f : Port → Port) : (s.modPort q f).keep = s.keep := rfl
@[simp] theorem State.modPort_boot (q : Nat) (f : Port → Port) : (s.modPort q f).boot = s.boot := rfl
@[simp] theorem State.modPort_err (q : Nat) (f : Port → Port) : (s.modPort q f).err = s.err := rfl
@[simp] theorem State.modPort_trust (q : Nat) (f : Port → Port) : (s.modPort q f).trust = s.trust := rfl
@[simp] theorem State.modPort_phys (q : Nat) (f : Port → Port) : (s.modPort q f).phys = s.phys := rfl
@[simp] theorem State.modPort_rgen (q : Nat) (f : Port → Port) : (s.modPort q f).rgen = s.rgen := rfl
@[simp] theorem State.modPort_resets (q : Nat) (f : Port → Port) : (s.modPort q f).resets = s.resets := rfl
@[simp] theorem State.modPort_sent (q : Nat) (f : Port → Port) : (s.modPort q f).sent = s.sent := rfl
@[simp] theorem State.modPort_free (q : Nat) (f : Port → Port) : (s.modPort q f).free = s.free := rfl

@[simp] theorem State.modCtx_pending (x : Nat) (f : Ctx → Ctx) : (s.modCtx x f).pending = s.pending := rfl
@[simp] theorem State.modCtx_cores (x : Nat) (f : Ctx → Ctx) : (s.modCtx x f).cores = s.cores := rfl
@[simp] theorem State.modCtx_parts (x : Nat) (f : Ctx → Ctx) : (s.modCtx x f).parts = s.parts := rfl
@[simp] theorem State.modCtx_passes (x : Nat) (f : Ctx → Ctx) : (s.modCtx x f).passes = s.passes := rfl
@[simp] theorem State.modCtx_notices (x : Nat) (f : Ctx → Ctx) : (s.modCtx x f).notices = s.notices := rfl
@[simp] theorem State.modCtx_ring (x : Nat) (f : Ctx → Ctx) : (s.modCtx x f).ring = s.ring := rfl
@[simp] theorem State.modCtx_ports (x : Nat) (f : Ctx → Ctx) : (s.modCtx x f).ports = s.ports := rfl
@[simp] theorem State.modCtx_links (x : Nat) (f : Ctx → Ctx) : (s.modCtx x f).links = s.links := rfl
@[simp] theorem State.modCtx_ctxs (x : Nat) (f : Ctx → Ctx) : (s.modCtx x f).ctxs = sset {} s.ctxs x (f (s.ctx x)) := rfl
@[simp] theorem State.modCtx_run (x : Nat) (f : Ctx → Ctx) : (s.modCtx x f).run = s.run := rfl
@[simp] theorem State.modCtx_scrub (x : Nat) (f : Ctx → Ctx) : (s.modCtx x f).scrub = s.scrub := rfl
@[simp] theorem State.modCtx_redigests (x : Nat) (f : Ctx → Ctx) : (s.modCtx x f).redigests = s.redigests := rfl
@[simp] theorem State.modCtx_lpddr (x : Nat) (f : Ctx → Ctx) : (s.modCtx x f).lpddr = s.lpddr := rfl
@[simp] theorem State.modCtx_bot (x : Nat) (f : Ctx → Ctx) : (s.modCtx x f).bot = s.bot := rfl
@[simp] theorem State.modCtx_lpd (x : Nat) (f : Ctx → Ctx) : (s.modCtx x f).lpd = s.lpd := rfl
@[simp] theorem State.modCtx_mbx (x : Nat) (f : Ctx → Ctx) : (s.modCtx x f).mbx = s.mbx := rfl
@[simp] theorem State.modCtx_jobs (x : Nat) (f : Ctx → Ctx) : (s.modCtx x f).jobs = s.jobs := rfl
@[simp] theorem State.modCtx_host (x : Nat) (f : Ctx → Ctx) : (s.modCtx x f).host = s.host := rfl
@[simp] theorem State.modCtx_keep (x : Nat) (f : Ctx → Ctx) : (s.modCtx x f).keep = s.keep := rfl
@[simp] theorem State.modCtx_boot (x : Nat) (f : Ctx → Ctx) : (s.modCtx x f).boot = s.boot := rfl
@[simp] theorem State.modCtx_err (x : Nat) (f : Ctx → Ctx) : (s.modCtx x f).err = s.err := rfl
@[simp] theorem State.modCtx_trust (x : Nat) (f : Ctx → Ctx) : (s.modCtx x f).trust = s.trust := rfl
@[simp] theorem State.modCtx_phys (x : Nat) (f : Ctx → Ctx) : (s.modCtx x f).phys = s.phys := rfl
@[simp] theorem State.modCtx_rgen (x : Nat) (f : Ctx → Ctx) : (s.modCtx x f).rgen = s.rgen := rfl
@[simp] theorem State.modCtx_resets (x : Nat) (f : Ctx → Ctx) : (s.modCtx x f).resets = s.resets := rfl
@[simp] theorem State.modCtx_sent (x : Nat) (f : Ctx → Ctx) : (s.modCtx x f).sent = s.sent := rfl
@[simp] theorem State.modCtx_free (x : Nat) (f : Ctx → Ctx) : (s.modCtx x f).free = s.free := rfl

@[simp] theorem State.modSlot_pending (x e : Nat) (f : Slot → Slot) : (s.modSlot x e f).pending = s.pending := rfl
@[simp] theorem State.modSlot_cores (x e : Nat) (f : Slot → Slot) : (s.modSlot x e f).cores = s.cores := rfl
@[simp] theorem State.modSlot_parts (x e : Nat) (f : Slot → Slot) : (s.modSlot x e f).parts = s.parts := rfl
@[simp] theorem State.modSlot_passes (x e : Nat) (f : Slot → Slot) : (s.modSlot x e f).passes = s.passes := rfl
@[simp] theorem State.modSlot_notices (x e : Nat) (f : Slot → Slot) : (s.modSlot x e f).notices = s.notices := rfl
@[simp] theorem State.modSlot_ring (x e : Nat) (f : Slot → Slot) : (s.modSlot x e f).ring = s.ring := rfl
@[simp] theorem State.modSlot_ports (x e : Nat) (f : Slot → Slot) : (s.modSlot x e f).ports = s.ports := rfl
@[simp] theorem State.modSlot_links (x e : Nat) (f : Slot → Slot) : (s.modSlot x e f).links = s.links := rfl
@[simp] theorem State.modSlot_ctxs (x e : Nat) (f : Slot → Slot) : (s.modSlot x e f).ctxs = sset {} s.ctxs x ((s.ctx x).modSlot e f) := rfl
@[simp] theorem State.modSlot_run (x e : Nat) (f : Slot → Slot) : (s.modSlot x e f).run = s.run := rfl
@[simp] theorem State.modSlot_scrub (x e : Nat) (f : Slot → Slot) : (s.modSlot x e f).scrub = s.scrub := rfl
@[simp] theorem State.modSlot_redigests (x e : Nat) (f : Slot → Slot) : (s.modSlot x e f).redigests = s.redigests := rfl
@[simp] theorem State.modSlot_lpddr (x e : Nat) (f : Slot → Slot) : (s.modSlot x e f).lpddr = s.lpddr := rfl
@[simp] theorem State.modSlot_bot (x e : Nat) (f : Slot → Slot) : (s.modSlot x e f).bot = s.bot := rfl
@[simp] theorem State.modSlot_lpd (x e : Nat) (f : Slot → Slot) : (s.modSlot x e f).lpd = s.lpd := rfl
@[simp] theorem State.modSlot_mbx (x e : Nat) (f : Slot → Slot) : (s.modSlot x e f).mbx = s.mbx := rfl
@[simp] theorem State.modSlot_jobs (x e : Nat) (f : Slot → Slot) : (s.modSlot x e f).jobs = s.jobs := rfl
@[simp] theorem State.modSlot_host (x e : Nat) (f : Slot → Slot) : (s.modSlot x e f).host = s.host := rfl
@[simp] theorem State.modSlot_keep (x e : Nat) (f : Slot → Slot) : (s.modSlot x e f).keep = s.keep := rfl
@[simp] theorem State.modSlot_boot (x e : Nat) (f : Slot → Slot) : (s.modSlot x e f).boot = s.boot := rfl
@[simp] theorem State.modSlot_err (x e : Nat) (f : Slot → Slot) : (s.modSlot x e f).err = s.err := rfl
@[simp] theorem State.modSlot_trust (x e : Nat) (f : Slot → Slot) : (s.modSlot x e f).trust = s.trust := rfl
@[simp] theorem State.modSlot_phys (x e : Nat) (f : Slot → Slot) : (s.modSlot x e f).phys = s.phys := rfl
@[simp] theorem State.modSlot_rgen (x e : Nat) (f : Slot → Slot) : (s.modSlot x e f).rgen = s.rgen := rfl
@[simp] theorem State.modSlot_resets (x e : Nat) (f : Slot → Slot) : (s.modSlot x e f).resets = s.resets := rfl
@[simp] theorem State.modSlot_sent (x e : Nat) (f : Slot → Slot) : (s.modSlot x e f).sent = s.sent := rfl
@[simp] theorem State.modSlot_free (x e : Nat) (f : Slot → Slot) : (s.modSlot x e f).free = s.free := rfl

@[simp] theorem State.modMbox_pending (m : Nat) (f : Mbx → Mbx) : (s.modMbox m f).pending = s.pending := rfl
@[simp] theorem State.modMbox_cores (m : Nat) (f : Mbx → Mbx) : (s.modMbox m f).cores = s.cores := rfl
@[simp] theorem State.modMbox_parts (m : Nat) (f : Mbx → Mbx) : (s.modMbox m f).parts = s.parts := rfl
@[simp] theorem State.modMbox_passes (m : Nat) (f : Mbx → Mbx) : (s.modMbox m f).passes = s.passes := rfl
@[simp] theorem State.modMbox_notices (m : Nat) (f : Mbx → Mbx) : (s.modMbox m f).notices = s.notices := rfl
@[simp] theorem State.modMbox_ring (m : Nat) (f : Mbx → Mbx) : (s.modMbox m f).ring = s.ring := rfl
@[simp] theorem State.modMbox_ports (m : Nat) (f : Mbx → Mbx) : (s.modMbox m f).ports = s.ports := rfl
@[simp] theorem State.modMbox_links (m : Nat) (f : Mbx → Mbx) : (s.modMbox m f).links = s.links := rfl
@[simp] theorem State.modMbox_ctxs (m : Nat) (f : Mbx → Mbx) : (s.modMbox m f).ctxs = s.ctxs := rfl
@[simp] theorem State.modMbox_run (m : Nat) (f : Mbx → Mbx) : (s.modMbox m f).run = s.run := rfl
@[simp] theorem State.modMbox_scrub (m : Nat) (f : Mbx → Mbx) : (s.modMbox m f).scrub = s.scrub := rfl
@[simp] theorem State.modMbox_redigests (m : Nat) (f : Mbx → Mbx) : (s.modMbox m f).redigests = s.redigests := rfl
@[simp] theorem State.modMbox_lpddr (m : Nat) (f : Mbx → Mbx) : (s.modMbox m f).lpddr = s.lpddr := rfl
@[simp] theorem State.modMbox_bot (m : Nat) (f : Mbx → Mbx) : (s.modMbox m f).bot = s.bot := rfl
@[simp] theorem State.modMbox_lpd (m : Nat) (f : Mbx → Mbx) : (s.modMbox m f).lpd = s.lpd := rfl
@[simp] theorem State.modMbox_mbx (m : Nat) (f : Mbx → Mbx) : (s.modMbox m f).mbx = sset {} s.mbx m (mboxFix m (f (s.mbox m))) := rfl
@[simp] theorem State.modMbox_jobs (m : Nat) (f : Mbx → Mbx) : (s.modMbox m f).jobs = s.jobs := rfl
@[simp] theorem State.modMbox_host (m : Nat) (f : Mbx → Mbx) : (s.modMbox m f).host = s.host := rfl
@[simp] theorem State.modMbox_keep (m : Nat) (f : Mbx → Mbx) : (s.modMbox m f).keep = s.keep := rfl
@[simp] theorem State.modMbox_boot (m : Nat) (f : Mbx → Mbx) : (s.modMbox m f).boot = s.boot := rfl
@[simp] theorem State.modMbox_err (m : Nat) (f : Mbx → Mbx) : (s.modMbox m f).err = s.err := rfl
@[simp] theorem State.modMbox_trust (m : Nat) (f : Mbx → Mbx) : (s.modMbox m f).trust = s.trust := rfl
@[simp] theorem State.modMbox_phys (m : Nat) (f : Mbx → Mbx) : (s.modMbox m f).phys = s.phys := rfl
@[simp] theorem State.modMbox_rgen (m : Nat) (f : Mbx → Mbx) : (s.modMbox m f).rgen = s.rgen := rfl
@[simp] theorem State.modMbox_resets (m : Nat) (f : Mbx → Mbx) : (s.modMbox m f).resets = s.resets := rfl
@[simp] theorem State.modMbox_sent (m : Nat) (f : Mbx → Mbx) : (s.modMbox m f).sent = s.sent := rfl
@[simp] theorem State.modMbox_free (m : Nat) (f : Mbx → Mbx) : (s.modMbox m f).free = s.free := rfl

@[simp] theorem State.modLctl_pending (n : Nat) (f : LpdCtl → LpdCtl) : (s.modLctl n f).pending = s.pending := rfl
@[simp] theorem State.modLctl_cores (n : Nat) (f : LpdCtl → LpdCtl) : (s.modLctl n f).cores = s.cores := rfl
@[simp] theorem State.modLctl_parts (n : Nat) (f : LpdCtl → LpdCtl) : (s.modLctl n f).parts = s.parts := rfl
@[simp] theorem State.modLctl_passes (n : Nat) (f : LpdCtl → LpdCtl) : (s.modLctl n f).passes = s.passes := rfl
@[simp] theorem State.modLctl_notices (n : Nat) (f : LpdCtl → LpdCtl) : (s.modLctl n f).notices = s.notices := rfl
@[simp] theorem State.modLctl_ring (n : Nat) (f : LpdCtl → LpdCtl) : (s.modLctl n f).ring = s.ring := rfl
@[simp] theorem State.modLctl_ports (n : Nat) (f : LpdCtl → LpdCtl) : (s.modLctl n f).ports = s.ports := rfl
@[simp] theorem State.modLctl_links (n : Nat) (f : LpdCtl → LpdCtl) : (s.modLctl n f).links = s.links := rfl
@[simp] theorem State.modLctl_ctxs (n : Nat) (f : LpdCtl → LpdCtl) : (s.modLctl n f).ctxs = s.ctxs := rfl
@[simp] theorem State.modLctl_run (n : Nat) (f : LpdCtl → LpdCtl) : (s.modLctl n f).run = s.run := rfl
@[simp] theorem State.modLctl_scrub (n : Nat) (f : LpdCtl → LpdCtl) : (s.modLctl n f).scrub = s.scrub := rfl
@[simp] theorem State.modLctl_redigests (n : Nat) (f : LpdCtl → LpdCtl) : (s.modLctl n f).redigests = s.redigests := rfl
@[simp] theorem State.modLctl_lpddr (n : Nat) (f : LpdCtl → LpdCtl) : (s.modLctl n f).lpddr = s.lpddr := rfl
@[simp] theorem State.modLctl_bot (n : Nat) (f : LpdCtl → LpdCtl) : (s.modLctl n f).bot = s.bot := rfl
@[simp] theorem State.modLctl_lpd (n : Nat) (f : LpdCtl → LpdCtl) : (s.modLctl n f).lpd = { s.lpd with ctl := sset {} s.lpd.ctl n (f (s.lctl n)) } := rfl
@[simp] theorem State.modLctl_mbx (n : Nat) (f : LpdCtl → LpdCtl) : (s.modLctl n f).mbx = s.mbx := rfl
@[simp] theorem State.modLctl_jobs (n : Nat) (f : LpdCtl → LpdCtl) : (s.modLctl n f).jobs = s.jobs := rfl
@[simp] theorem State.modLctl_host (n : Nat) (f : LpdCtl → LpdCtl) : (s.modLctl n f).host = s.host := rfl
@[simp] theorem State.modLctl_keep (n : Nat) (f : LpdCtl → LpdCtl) : (s.modLctl n f).keep = s.keep := rfl
@[simp] theorem State.modLctl_boot (n : Nat) (f : LpdCtl → LpdCtl) : (s.modLctl n f).boot = s.boot := rfl
@[simp] theorem State.modLctl_err (n : Nat) (f : LpdCtl → LpdCtl) : (s.modLctl n f).err = s.err := rfl
@[simp] theorem State.modLctl_trust (n : Nat) (f : LpdCtl → LpdCtl) : (s.modLctl n f).trust = s.trust := rfl
@[simp] theorem State.modLctl_phys (n : Nat) (f : LpdCtl → LpdCtl) : (s.modLctl n f).phys = s.phys := rfl
@[simp] theorem State.modLctl_rgen (n : Nat) (f : LpdCtl → LpdCtl) : (s.modLctl n f).rgen = s.rgen := rfl
@[simp] theorem State.modLctl_resets (n : Nat) (f : LpdCtl → LpdCtl) : (s.modLctl n f).resets = s.resets := rfl
@[simp] theorem State.modLctl_sent (n : Nat) (f : LpdCtl → LpdCtl) : (s.modLctl n f).sent = s.sent := rfl
@[simp] theorem State.modLctl_free (n : Nat) (f : LpdCtl → LpdCtl) : (s.modLctl n f).free = s.free := rfl

@[simp] theorem State.modSendSlot_pending (q i : Nat) (f : SendSlot → SendSlot) : (s.modSendSlot q i f).pending = s.pending := rfl
@[simp] theorem State.modSendSlot_cores (q i : Nat) (f : SendSlot → SendSlot) : (s.modSendSlot q i f).cores = s.cores := rfl
@[simp] theorem State.modSendSlot_parts (q i : Nat) (f : SendSlot → SendSlot) : (s.modSendSlot q i f).parts = s.parts := rfl
@[simp] theorem State.modSendSlot_passes (q i : Nat) (f : SendSlot → SendSlot) : (s.modSendSlot q i f).passes = s.passes := rfl
@[simp] theorem State.modSendSlot_notices (q i : Nat) (f : SendSlot → SendSlot) : (s.modSendSlot q i f).notices = s.notices := rfl
@[simp] theorem State.modSendSlot_ring (q i : Nat) (f : SendSlot → SendSlot) : (s.modSendSlot q i f).ring = { s.ring with slots := sset {} s.ring.slots (q * 16 + i) (f (s.sendSlot q i)) } := rfl
@[simp] theorem State.modSendSlot_ports (q i : Nat) (f : SendSlot → SendSlot) : (s.modSendSlot q i f).ports = s.ports := rfl
@[simp] theorem State.modSendSlot_links (q i : Nat) (f : SendSlot → SendSlot) : (s.modSendSlot q i f).links = s.links := rfl
@[simp] theorem State.modSendSlot_ctxs (q i : Nat) (f : SendSlot → SendSlot) : (s.modSendSlot q i f).ctxs = s.ctxs := rfl
@[simp] theorem State.modSendSlot_run (q i : Nat) (f : SendSlot → SendSlot) : (s.modSendSlot q i f).run = s.run := rfl
@[simp] theorem State.modSendSlot_scrub (q i : Nat) (f : SendSlot → SendSlot) : (s.modSendSlot q i f).scrub = s.scrub := rfl
@[simp] theorem State.modSendSlot_redigests (q i : Nat) (f : SendSlot → SendSlot) : (s.modSendSlot q i f).redigests = s.redigests := rfl
@[simp] theorem State.modSendSlot_lpddr (q i : Nat) (f : SendSlot → SendSlot) : (s.modSendSlot q i f).lpddr = s.lpddr := rfl
@[simp] theorem State.modSendSlot_bot (q i : Nat) (f : SendSlot → SendSlot) : (s.modSendSlot q i f).bot = s.bot := rfl
@[simp] theorem State.modSendSlot_lpd (q i : Nat) (f : SendSlot → SendSlot) : (s.modSendSlot q i f).lpd = s.lpd := rfl
@[simp] theorem State.modSendSlot_mbx (q i : Nat) (f : SendSlot → SendSlot) : (s.modSendSlot q i f).mbx = s.mbx := rfl
@[simp] theorem State.modSendSlot_jobs (q i : Nat) (f : SendSlot → SendSlot) : (s.modSendSlot q i f).jobs = s.jobs := rfl
@[simp] theorem State.modSendSlot_host (q i : Nat) (f : SendSlot → SendSlot) : (s.modSendSlot q i f).host = s.host := rfl
@[simp] theorem State.modSendSlot_keep (q i : Nat) (f : SendSlot → SendSlot) : (s.modSendSlot q i f).keep = s.keep := rfl
@[simp] theorem State.modSendSlot_boot (q i : Nat) (f : SendSlot → SendSlot) : (s.modSendSlot q i f).boot = s.boot := rfl
@[simp] theorem State.modSendSlot_err (q i : Nat) (f : SendSlot → SendSlot) : (s.modSendSlot q i f).err = s.err := rfl
@[simp] theorem State.modSendSlot_trust (q i : Nat) (f : SendSlot → SendSlot) : (s.modSendSlot q i f).trust = s.trust := rfl
@[simp] theorem State.modSendSlot_phys (q i : Nat) (f : SendSlot → SendSlot) : (s.modSendSlot q i f).phys = s.phys := rfl
@[simp] theorem State.modSendSlot_rgen (q i : Nat) (f : SendSlot → SendSlot) : (s.modSendSlot q i f).rgen = s.rgen := rfl
@[simp] theorem State.modSendSlot_resets (q i : Nat) (f : SendSlot → SendSlot) : (s.modSendSlot q i f).resets = s.resets := rfl
@[simp] theorem State.modSendSlot_sent (q i : Nat) (f : SendSlot → SendSlot) : (s.modSendSlot q i f).sent = s.sent := rfl
@[simp] theorem State.modSendSlot_free (q i : Nat) (f : SendSlot → SendSlot) : (s.modSendSlot q i f).free = s.free := rfl

@[simp] theorem State.emit_pending (o : Sent) : (s.emit o).pending = s.pending := rfl
@[simp] theorem State.emit_cores (o : Sent) : (s.emit o).cores = s.cores := rfl
@[simp] theorem State.emit_parts (o : Sent) : (s.emit o).parts = s.parts := rfl
@[simp] theorem State.emit_passes (o : Sent) : (s.emit o).passes = s.passes := rfl
@[simp] theorem State.emit_notices (o : Sent) : (s.emit o).notices = s.notices := rfl
@[simp] theorem State.emit_ring (o : Sent) : (s.emit o).ring = s.ring := rfl
@[simp] theorem State.emit_ports (o : Sent) : (s.emit o).ports = s.ports := rfl
@[simp] theorem State.emit_links (o : Sent) : (s.emit o).links = s.links := rfl
@[simp] theorem State.emit_ctxs (o : Sent) : (s.emit o).ctxs = s.ctxs := rfl
@[simp] theorem State.emit_run (o : Sent) : (s.emit o).run = s.run := rfl
@[simp] theorem State.emit_scrub (o : Sent) : (s.emit o).scrub = s.scrub := rfl
@[simp] theorem State.emit_redigests (o : Sent) : (s.emit o).redigests = s.redigests := rfl
@[simp] theorem State.emit_lpddr (o : Sent) : (s.emit o).lpddr = s.lpddr := rfl
@[simp] theorem State.emit_bot (o : Sent) : (s.emit o).bot = s.bot := rfl
@[simp] theorem State.emit_lpd (o : Sent) : (s.emit o).lpd = s.lpd := rfl
@[simp] theorem State.emit_mbx (o : Sent) : (s.emit o).mbx = s.mbx := rfl
@[simp] theorem State.emit_jobs (o : Sent) : (s.emit o).jobs = s.jobs := rfl
@[simp] theorem State.emit_host (o : Sent) : (s.emit o).host = s.host := rfl
@[simp] theorem State.emit_keep (o : Sent) : (s.emit o).keep = s.keep := rfl
@[simp] theorem State.emit_boot (o : Sent) : (s.emit o).boot = s.boot := rfl
@[simp] theorem State.emit_err (o : Sent) : (s.emit o).err = s.err := rfl
@[simp] theorem State.emit_trust (o : Sent) : (s.emit o).trust = s.trust := rfl
@[simp] theorem State.emit_phys (o : Sent) : (s.emit o).phys = s.phys := rfl
@[simp] theorem State.emit_rgen (o : Sent) : (s.emit o).rgen = s.rgen := rfl
@[simp] theorem State.emit_resets (o : Sent) : (s.emit o).resets = s.resets := rfl
@[simp] theorem State.emit_sent (o : Sent) : (s.emit o).sent = s.sent ++ [o] := rfl
@[simp] theorem State.emit_free (o : Sent) : (s.emit o).free = s.free := rfl

end

section
variable (k : Core)

@[simp] theorem Core.setTile_status (t : Nat) (x : Tile) : (k.setTile t x).status = k.status := rfl
@[simp] theorem Core.setTile_pc (t : Nat) (x : Tile) : (k.setTile t x).pc = k.pc := rfl
@[simp] theorem Core.setTile_beat (t : Nat) (x : Tile) : (k.setTile t x).beat = k.beat := rfl
@[simp] theorem Core.setTile_parkt (t : Nat) (x : Tile) : (k.setTile t x).parkt = k.parkt := rfl
@[simp] theorem Core.setTile_vseen (t : Nat) (x : Tile) : (k.setTile t x).vseen = k.vseen := rfl
@[simp] theorem Core.setTile_cwd (t : Nat) (x : Tile) : (k.setTile t x).cwd = k.cwd := rfl
@[simp] theorem Core.setTile_codeLen (t : Nat) (x : Tile) : (k.setTile t x).codeLen = k.codeLen := rfl
@[simp] theorem Core.setTile_haltAt (t : Nat) (x : Tile) : (k.setTile t x).haltAt = k.haltAt := rfl
@[simp] theorem Core.setTile_beats (t : Nat) (x : Tile) : (k.setTile t x).beats = k.beats := rfl
@[simp] theorem Core.setTile_lastDone (t : Nat) (x : Tile) : (k.setTile t x).lastDone = k.lastDone := rfl
@[simp] theorem Core.setTile_upto (t : Nat) (x : Tile) : (k.setTile t x).upto = k.upto := rfl
@[simp] theorem Core.setTile_seq (t : Nat) (x : Tile) : (k.setTile t x).seq = k.seq := rfl
@[simp] theorem Core.setTile_scal (t : Nat) (x : Tile) : (k.setTile t x).scal = k.scal := rfl
@[simp] theorem Core.setTile_avail (t : Nat) (x : Tile) : (k.setTile t x).avail = k.avail := rfl
@[simp] theorem Core.setTile_pendRes (t : Nat) (x : Tile) : (k.setTile t x).pendRes = k.pendRes := rfl
@[simp] theorem Core.setTile_pendSig (t : Nat) (x : Tile) : (k.setTile t x).pendSig = k.pendSig := rfl
@[simp] theorem Core.setTile_layer (t : Nat) (x : Tile) : (k.setTile t x).layer = k.layer := rfl
@[simp] theorem Core.setTile_lstep (t : Nat) (x : Tile) : (k.setTile t x).lstep = k.lstep := rfl
@[simp] theorem Core.setTile_lstepOld (t : Nat) (x : Tile) : (k.setTile t x).lstepOld = k.lstepOld := rfl
@[simp] theorem Core.setTile_lstepAt (t : Nat) (x : Tile) : (k.setTile t x).lstepAt = k.lstepAt := rfl
@[simp] theorem Core.setTile_advMs (t : Nat) (x : Tile) : (k.setTile t x).advMs = k.advMs := rfl
@[simp] theorem Core.setTile_advFrom (t : Nat) (x : Tile) : (k.setTile t x).advFrom = k.advFrom := rfl
@[simp] theorem Core.setTile_crossAt (t : Nat) (x : Tile) : (k.setTile t x).crossAt = k.crossAt := rfl
@[simp] theorem Core.setTile_ctx (t : Nat) (x : Tile) : (k.setTile t x).ctx = k.ctx := rfl
@[simp] theorem Core.setTile_sram (t : Nat) (x : Tile) : (k.setTile t x).sram = k.sram := rfl
@[simp] theorem Core.setTile_tiles (t : Nat) (x : Tile) : (k.setTile t x).tiles = sset {} k.tiles t x := rfl
@[simp] theorem Core.setTile_banks (t : Nat) (x : Tile) : (k.setTile t x).banks = k.banks := rfl
@[simp] theorem Core.setTile_l0 (t : Nat) (x : Tile) : (k.setTile t x).l0 = k.l0 := rfl
@[simp] theorem Core.setTile_l1 (t : Nat) (x : Tile) : (k.setTile t x).l1 = k.l1 := rfl
@[simp] theorem Core.setTile_clips (t : Nat) (x : Tile) : (k.setTile t x).clips = k.clips := rfl
@[simp] theorem Core.setTile_pendClip (t : Nat) (x : Tile) : (k.setTile t x).pendClip = k.pendClip := rfl
@[simp] theorem Core.setTile_mmbusy (t : Nat) (x : Tile) : (k.setTile t x).mmbusy = k.mmbusy := rfl
@[simp] theorem Core.setTile_mmwait (t : Nat) (x : Tile) : (k.setTile t x).mmwait = k.mmwait := rfl
@[simp] theorem Core.setTile_vebusy (t : Nat) (x : Tile) : (k.setTile t x).vebusy = k.vebusy := rfl
@[simp] theorem Core.setTile_vc (t : Nat) (x : Tile) : (k.setTile t x).vc = k.vc := rfl
@[simp] theorem Core.setTile_mq (t : Nat) (x : Tile) : (k.setTile t x).mq = k.mq := rfl
@[simp] theorem Core.setTile_vq (t : Nat) (x : Tile) : (k.setTile t x).vq = k.vq := rfl
@[simp] theorem Core.setTile_sq (t : Nat) (x : Tile) : (k.setTile t x).sq = k.sq := rfl
@[simp] theorem Core.setTile_mdisp (t : Nat) (x : Tile) : (k.setTile t x).mdisp = k.mdisp := rfl
@[simp] theorem Core.setTile_vdisp (t : Nat) (x : Tile) : (k.setTile t x).vdisp = k.vdisp := rfl
@[simp] theorem Core.setTile_sdisp (t : Nat) (x : Tile) : (k.setTile t x).sdisp = k.sdisp := rfl
@[simp] theorem Core.setTile_disps (t : Nat) (x : Tile) : (k.setTile t x).disps = k.disps := rfl
@[simp] theorem Core.setTile_lws (t : Nat) (x : Tile) : (k.setTile t x).lws = k.lws := rfl
@[simp] theorem Core.setTile_cmps (t : Nat) (x : Tile) : (k.setTile t x).cmps = k.cmps := rfl
@[simp] theorem Core.setTile_rds (t : Nat) (x : Tile) : (k.setTile t x).rds = k.rds := rfl
@[simp] theorem Core.setTile_ves (t : Nat) (x : Tile) : (k.setTile t x).ves = k.ves := rfl
@[simp] theorem Core.setTile_sts (t : Nat) (x : Tile) : (k.setTile t x).sts = k.sts := rfl
@[simp] theorem Core.setTile_fillNext (t : Nat) (x : Tile) : (k.setTile t x).fillNext = k.fillNext := rfl
@[simp] theorem Core.setTile_cmpFree (t : Nat) (x : Tile) : (k.setTile t x).cmpFree = k.cmpFree := rfl
@[simp] theorem Core.setTile_cmpNext (t : Nat) (x : Tile) : (k.setTile t x).cmpNext = k.cmpNext := rfl
@[simp] theorem Core.setTile_rdNext (t : Nat) (x : Tile) : (k.setTile t x).rdNext = k.rdNext := rfl
@[simp] theorem Core.setTile_veNext (t : Nat) (x : Tile) : (k.setTile t x).veNext = k.veNext := rfl
@[simp] theorem Core.setTile_stNext (t : Nat) (x : Tile) : (k.setTile t x).stNext = k.stNext := rfl
@[simp] theorem Core.setTile_veDone (t : Nat) (x : Tile) : (k.setTile t x).veDone = k.veDone := rfl
@[simp] theorem Core.setTile_bankAt (t : Nat) (x : Tile) : (k.setTile t x).bankAt = k.bankAt := rfl
@[simp] theorem Core.setTile_held (t : Nat) (x : Tile) : (k.setTile t x).held = k.held := rfl
@[simp] theorem Core.setTile_xfail (t : Nat) (x : Tile) : (k.setTile t x).xfail = k.xfail := rfl
@[simp] theorem Core.setTile_xcause (t : Nat) (x : Tile) : (k.setTile t x).xcause = k.xcause := rfl
@[simp] theorem Core.setTile_xftr (t : Nat) (x : Tile) : (k.setTile t x).xftr = k.xftr := rfl
@[simp] theorem Core.setTile_xfls (t : Nat) (x : Tile) : (k.setTile t x).xfls = k.xfls := rfl
@[simp] theorem Core.setTile_xlkind (t : Nat) (x : Tile) : (k.setTile t x).xlkind = k.xlkind := rfl
@[simp] theorem Core.setTile_xltr (t : Nat) (x : Tile) : (k.setTile t x).xltr = k.xltr := rfl
@[simp] theorem Core.setTile_xfills (t : Nat) (x : Tile) : (k.setTile t x).xfills = k.xfills := rfl
@[simp] theorem Core.setTile_xopen (t : Nat) (x : Tile) : (k.setTile t x).xopen = k.xopen := rfl
@[simp] theorem Core.setTile_xftile (t : Nat) (x : Tile) : (k.setTile t x).xftile = k.xftile := rfl
@[simp] theorem Core.setTile_tables (t : Nat) (x : Tile) : (k.setTile t x).tables = k.tables := rfl
@[simp] theorem Core.setTile_chans (t : Nat) (x : Tile) : (k.setTile t x).chans = k.chans := rfl
@[simp] theorem Core.setTile_stmFault (t : Nat) (x : Tile) : (k.setTile t x).stmFault = k.stmFault := rfl
@[simp] theorem Core.setTile_stmFaultPc (t : Nat) (x : Tile) : (k.setTile t x).stmFaultPc = k.stmFaultPc := rfl
@[simp] theorem Core.setTile_wms (t : Nat) (x : Tile) : (k.setTile t x).wms = k.wms := rfl
@[simp] theorem Core.setTile_pv (t : Nat) (x : Tile) : (k.setTile t x).pv = k.pv := rfl
@[simp] theorem Core.setTile_brk (t : Nat) (x : Tile) : (k.setTile t x).brk = k.brk := rfl
@[simp] theorem Core.setTile_povr (t : Nat) (x : Tile) : (k.setTile t x).povr = k.povr := rfl
@[simp] theorem Core.setTile_fence (t : Nat) (x : Tile) : (k.setTile t x).fence = k.fence := rfl
@[simp] theorem Core.setTile_sigWait (t : Nat) (x : Tile) : (k.setTile t x).sigWait = k.sigWait := rfl
@[simp] theorem Core.setTile_sramrep (t : Nat) (x : Tile) : (k.setTile t x).sramrep = k.sramrep := rfl

@[simp] theorem Core.modChan_status (n : Nat) (f : Chan → Chan) : (k.modChan n f).status = k.status := rfl
@[simp] theorem Core.modChan_pc (n : Nat) (f : Chan → Chan) : (k.modChan n f).pc = k.pc := rfl
@[simp] theorem Core.modChan_beat (n : Nat) (f : Chan → Chan) : (k.modChan n f).beat = k.beat := rfl
@[simp] theorem Core.modChan_parkt (n : Nat) (f : Chan → Chan) : (k.modChan n f).parkt = k.parkt := rfl
@[simp] theorem Core.modChan_vseen (n : Nat) (f : Chan → Chan) : (k.modChan n f).vseen = k.vseen := rfl
@[simp] theorem Core.modChan_cwd (n : Nat) (f : Chan → Chan) : (k.modChan n f).cwd = k.cwd := rfl
@[simp] theorem Core.modChan_codeLen (n : Nat) (f : Chan → Chan) : (k.modChan n f).codeLen = k.codeLen := rfl
@[simp] theorem Core.modChan_haltAt (n : Nat) (f : Chan → Chan) : (k.modChan n f).haltAt = k.haltAt := rfl
@[simp] theorem Core.modChan_beats (n : Nat) (f : Chan → Chan) : (k.modChan n f).beats = k.beats := rfl
@[simp] theorem Core.modChan_lastDone (n : Nat) (f : Chan → Chan) : (k.modChan n f).lastDone = k.lastDone := rfl
@[simp] theorem Core.modChan_upto (n : Nat) (f : Chan → Chan) : (k.modChan n f).upto = k.upto := rfl
@[simp] theorem Core.modChan_seq (n : Nat) (f : Chan → Chan) : (k.modChan n f).seq = k.seq := rfl
@[simp] theorem Core.modChan_scal (n : Nat) (f : Chan → Chan) : (k.modChan n f).scal = k.scal := rfl
@[simp] theorem Core.modChan_avail (n : Nat) (f : Chan → Chan) : (k.modChan n f).avail = k.avail := rfl
@[simp] theorem Core.modChan_pendRes (n : Nat) (f : Chan → Chan) : (k.modChan n f).pendRes = k.pendRes := rfl
@[simp] theorem Core.modChan_pendSig (n : Nat) (f : Chan → Chan) : (k.modChan n f).pendSig = k.pendSig := rfl
@[simp] theorem Core.modChan_layer (n : Nat) (f : Chan → Chan) : (k.modChan n f).layer = k.layer := rfl
@[simp] theorem Core.modChan_lstep (n : Nat) (f : Chan → Chan) : (k.modChan n f).lstep = k.lstep := rfl
@[simp] theorem Core.modChan_lstepOld (n : Nat) (f : Chan → Chan) : (k.modChan n f).lstepOld = k.lstepOld := rfl
@[simp] theorem Core.modChan_lstepAt (n : Nat) (f : Chan → Chan) : (k.modChan n f).lstepAt = k.lstepAt := rfl
@[simp] theorem Core.modChan_advMs (n : Nat) (f : Chan → Chan) : (k.modChan n f).advMs = k.advMs := rfl
@[simp] theorem Core.modChan_advFrom (n : Nat) (f : Chan → Chan) : (k.modChan n f).advFrom = k.advFrom := rfl
@[simp] theorem Core.modChan_crossAt (n : Nat) (f : Chan → Chan) : (k.modChan n f).crossAt = k.crossAt := rfl
@[simp] theorem Core.modChan_ctx (n : Nat) (f : Chan → Chan) : (k.modChan n f).ctx = k.ctx := rfl
@[simp] theorem Core.modChan_sram (n : Nat) (f : Chan → Chan) : (k.modChan n f).sram = k.sram := rfl
@[simp] theorem Core.modChan_tiles (n : Nat) (f : Chan → Chan) : (k.modChan n f).tiles = k.tiles := rfl
@[simp] theorem Core.modChan_banks (n : Nat) (f : Chan → Chan) : (k.modChan n f).banks = k.banks := rfl
@[simp] theorem Core.modChan_l0 (n : Nat) (f : Chan → Chan) : (k.modChan n f).l0 = k.l0 := rfl
@[simp] theorem Core.modChan_l1 (n : Nat) (f : Chan → Chan) : (k.modChan n f).l1 = k.l1 := rfl
@[simp] theorem Core.modChan_clips (n : Nat) (f : Chan → Chan) : (k.modChan n f).clips = k.clips := rfl
@[simp] theorem Core.modChan_pendClip (n : Nat) (f : Chan → Chan) : (k.modChan n f).pendClip = k.pendClip := rfl
@[simp] theorem Core.modChan_mmbusy (n : Nat) (f : Chan → Chan) : (k.modChan n f).mmbusy = k.mmbusy := rfl
@[simp] theorem Core.modChan_mmwait (n : Nat) (f : Chan → Chan) : (k.modChan n f).mmwait = k.mmwait := rfl
@[simp] theorem Core.modChan_vebusy (n : Nat) (f : Chan → Chan) : (k.modChan n f).vebusy = k.vebusy := rfl
@[simp] theorem Core.modChan_vc (n : Nat) (f : Chan → Chan) : (k.modChan n f).vc = k.vc := rfl
@[simp] theorem Core.modChan_mq (n : Nat) (f : Chan → Chan) : (k.modChan n f).mq = k.mq := rfl
@[simp] theorem Core.modChan_vq (n : Nat) (f : Chan → Chan) : (k.modChan n f).vq = k.vq := rfl
@[simp] theorem Core.modChan_sq (n : Nat) (f : Chan → Chan) : (k.modChan n f).sq = k.sq := rfl
@[simp] theorem Core.modChan_mdisp (n : Nat) (f : Chan → Chan) : (k.modChan n f).mdisp = k.mdisp := rfl
@[simp] theorem Core.modChan_vdisp (n : Nat) (f : Chan → Chan) : (k.modChan n f).vdisp = k.vdisp := rfl
@[simp] theorem Core.modChan_sdisp (n : Nat) (f : Chan → Chan) : (k.modChan n f).sdisp = k.sdisp := rfl
@[simp] theorem Core.modChan_disps (n : Nat) (f : Chan → Chan) : (k.modChan n f).disps = k.disps := rfl
@[simp] theorem Core.modChan_lws (n : Nat) (f : Chan → Chan) : (k.modChan n f).lws = k.lws := rfl
@[simp] theorem Core.modChan_cmps (n : Nat) (f : Chan → Chan) : (k.modChan n f).cmps = k.cmps := rfl
@[simp] theorem Core.modChan_rds (n : Nat) (f : Chan → Chan) : (k.modChan n f).rds = k.rds := rfl
@[simp] theorem Core.modChan_ves (n : Nat) (f : Chan → Chan) : (k.modChan n f).ves = k.ves := rfl
@[simp] theorem Core.modChan_sts (n : Nat) (f : Chan → Chan) : (k.modChan n f).sts = k.sts := rfl
@[simp] theorem Core.modChan_fillNext (n : Nat) (f : Chan → Chan) : (k.modChan n f).fillNext = k.fillNext := rfl
@[simp] theorem Core.modChan_cmpFree (n : Nat) (f : Chan → Chan) : (k.modChan n f).cmpFree = k.cmpFree := rfl
@[simp] theorem Core.modChan_cmpNext (n : Nat) (f : Chan → Chan) : (k.modChan n f).cmpNext = k.cmpNext := rfl
@[simp] theorem Core.modChan_rdNext (n : Nat) (f : Chan → Chan) : (k.modChan n f).rdNext = k.rdNext := rfl
@[simp] theorem Core.modChan_veNext (n : Nat) (f : Chan → Chan) : (k.modChan n f).veNext = k.veNext := rfl
@[simp] theorem Core.modChan_stNext (n : Nat) (f : Chan → Chan) : (k.modChan n f).stNext = k.stNext := rfl
@[simp] theorem Core.modChan_veDone (n : Nat) (f : Chan → Chan) : (k.modChan n f).veDone = k.veDone := rfl
@[simp] theorem Core.modChan_bankAt (n : Nat) (f : Chan → Chan) : (k.modChan n f).bankAt = k.bankAt := rfl
@[simp] theorem Core.modChan_held (n : Nat) (f : Chan → Chan) : (k.modChan n f).held = k.held := rfl
@[simp] theorem Core.modChan_xfail (n : Nat) (f : Chan → Chan) : (k.modChan n f).xfail = k.xfail := rfl
@[simp] theorem Core.modChan_xcause (n : Nat) (f : Chan → Chan) : (k.modChan n f).xcause = k.xcause := rfl
@[simp] theorem Core.modChan_xftr (n : Nat) (f : Chan → Chan) : (k.modChan n f).xftr = k.xftr := rfl
@[simp] theorem Core.modChan_xfls (n : Nat) (f : Chan → Chan) : (k.modChan n f).xfls = k.xfls := rfl
@[simp] theorem Core.modChan_xlkind (n : Nat) (f : Chan → Chan) : (k.modChan n f).xlkind = k.xlkind := rfl
@[simp] theorem Core.modChan_xltr (n : Nat) (f : Chan → Chan) : (k.modChan n f).xltr = k.xltr := rfl
@[simp] theorem Core.modChan_xfills (n : Nat) (f : Chan → Chan) : (k.modChan n f).xfills = k.xfills := rfl
@[simp] theorem Core.modChan_xopen (n : Nat) (f : Chan → Chan) : (k.modChan n f).xopen = k.xopen := rfl
@[simp] theorem Core.modChan_xftile (n : Nat) (f : Chan → Chan) : (k.modChan n f).xftile = k.xftile := rfl
@[simp] theorem Core.modChan_tables (n : Nat) (f : Chan → Chan) : (k.modChan n f).tables = k.tables := rfl
@[simp] theorem Core.modChan_chans (n : Nat) (f : Chan → Chan) : (k.modChan n f).chans = sset {} k.chans n (f (k.chan n)) := rfl
@[simp] theorem Core.modChan_stmFault (n : Nat) (f : Chan → Chan) : (k.modChan n f).stmFault = k.stmFault := rfl
@[simp] theorem Core.modChan_stmFaultPc (n : Nat) (f : Chan → Chan) : (k.modChan n f).stmFaultPc = k.stmFaultPc := rfl
@[simp] theorem Core.modChan_wms (n : Nat) (f : Chan → Chan) : (k.modChan n f).wms = k.wms := rfl
@[simp] theorem Core.modChan_pv (n : Nat) (f : Chan → Chan) : (k.modChan n f).pv = k.pv := rfl
@[simp] theorem Core.modChan_brk (n : Nat) (f : Chan → Chan) : (k.modChan n f).brk = k.brk := rfl
@[simp] theorem Core.modChan_povr (n : Nat) (f : Chan → Chan) : (k.modChan n f).povr = k.povr := rfl
@[simp] theorem Core.modChan_fence (n : Nat) (f : Chan → Chan) : (k.modChan n f).fence = k.fence := rfl
@[simp] theorem Core.modChan_sigWait (n : Nat) (f : Chan → Chan) : (k.modChan n f).sigWait = k.sigWait := rfl
@[simp] theorem Core.modChan_sramrep (n : Nat) (f : Chan → Chan) : (k.modChan n f).sramrep = k.sramrep := rfl

@[simp] theorem Core.setWm_status (n : Nat) (x : Waymark) : (k.setWm n x).status = k.status := rfl
@[simp] theorem Core.setWm_pc (n : Nat) (x : Waymark) : (k.setWm n x).pc = k.pc := rfl
@[simp] theorem Core.setWm_beat (n : Nat) (x : Waymark) : (k.setWm n x).beat = k.beat := rfl
@[simp] theorem Core.setWm_parkt (n : Nat) (x : Waymark) : (k.setWm n x).parkt = k.parkt := rfl
@[simp] theorem Core.setWm_vseen (n : Nat) (x : Waymark) : (k.setWm n x).vseen = k.vseen := rfl
@[simp] theorem Core.setWm_cwd (n : Nat) (x : Waymark) : (k.setWm n x).cwd = k.cwd := rfl
@[simp] theorem Core.setWm_codeLen (n : Nat) (x : Waymark) : (k.setWm n x).codeLen = k.codeLen := rfl
@[simp] theorem Core.setWm_haltAt (n : Nat) (x : Waymark) : (k.setWm n x).haltAt = k.haltAt := rfl
@[simp] theorem Core.setWm_beats (n : Nat) (x : Waymark) : (k.setWm n x).beats = k.beats := rfl
@[simp] theorem Core.setWm_lastDone (n : Nat) (x : Waymark) : (k.setWm n x).lastDone = k.lastDone := rfl
@[simp] theorem Core.setWm_upto (n : Nat) (x : Waymark) : (k.setWm n x).upto = k.upto := rfl
@[simp] theorem Core.setWm_seq (n : Nat) (x : Waymark) : (k.setWm n x).seq = k.seq := rfl
@[simp] theorem Core.setWm_scal (n : Nat) (x : Waymark) : (k.setWm n x).scal = k.scal := rfl
@[simp] theorem Core.setWm_avail (n : Nat) (x : Waymark) : (k.setWm n x).avail = k.avail := rfl
@[simp] theorem Core.setWm_pendRes (n : Nat) (x : Waymark) : (k.setWm n x).pendRes = k.pendRes := rfl
@[simp] theorem Core.setWm_pendSig (n : Nat) (x : Waymark) : (k.setWm n x).pendSig = k.pendSig := rfl
@[simp] theorem Core.setWm_layer (n : Nat) (x : Waymark) : (k.setWm n x).layer = k.layer := rfl
@[simp] theorem Core.setWm_lstep (n : Nat) (x : Waymark) : (k.setWm n x).lstep = k.lstep := rfl
@[simp] theorem Core.setWm_lstepOld (n : Nat) (x : Waymark) : (k.setWm n x).lstepOld = k.lstepOld := rfl
@[simp] theorem Core.setWm_lstepAt (n : Nat) (x : Waymark) : (k.setWm n x).lstepAt = k.lstepAt := rfl
@[simp] theorem Core.setWm_advMs (n : Nat) (x : Waymark) : (k.setWm n x).advMs = k.advMs := rfl
@[simp] theorem Core.setWm_advFrom (n : Nat) (x : Waymark) : (k.setWm n x).advFrom = k.advFrom := rfl
@[simp] theorem Core.setWm_crossAt (n : Nat) (x : Waymark) : (k.setWm n x).crossAt = k.crossAt := rfl
@[simp] theorem Core.setWm_ctx (n : Nat) (x : Waymark) : (k.setWm n x).ctx = k.ctx := rfl
@[simp] theorem Core.setWm_sram (n : Nat) (x : Waymark) : (k.setWm n x).sram = k.sram := rfl
@[simp] theorem Core.setWm_tiles (n : Nat) (x : Waymark) : (k.setWm n x).tiles = k.tiles := rfl
@[simp] theorem Core.setWm_banks (n : Nat) (x : Waymark) : (k.setWm n x).banks = k.banks := rfl
@[simp] theorem Core.setWm_l0 (n : Nat) (x : Waymark) : (k.setWm n x).l0 = k.l0 := rfl
@[simp] theorem Core.setWm_l1 (n : Nat) (x : Waymark) : (k.setWm n x).l1 = k.l1 := rfl
@[simp] theorem Core.setWm_clips (n : Nat) (x : Waymark) : (k.setWm n x).clips = k.clips := rfl
@[simp] theorem Core.setWm_pendClip (n : Nat) (x : Waymark) : (k.setWm n x).pendClip = k.pendClip := rfl
@[simp] theorem Core.setWm_mmbusy (n : Nat) (x : Waymark) : (k.setWm n x).mmbusy = k.mmbusy := rfl
@[simp] theorem Core.setWm_mmwait (n : Nat) (x : Waymark) : (k.setWm n x).mmwait = k.mmwait := rfl
@[simp] theorem Core.setWm_vebusy (n : Nat) (x : Waymark) : (k.setWm n x).vebusy = k.vebusy := rfl
@[simp] theorem Core.setWm_vc (n : Nat) (x : Waymark) : (k.setWm n x).vc = k.vc := rfl
@[simp] theorem Core.setWm_mq (n : Nat) (x : Waymark) : (k.setWm n x).mq = k.mq := rfl
@[simp] theorem Core.setWm_vq (n : Nat) (x : Waymark) : (k.setWm n x).vq = k.vq := rfl
@[simp] theorem Core.setWm_sq (n : Nat) (x : Waymark) : (k.setWm n x).sq = k.sq := rfl
@[simp] theorem Core.setWm_mdisp (n : Nat) (x : Waymark) : (k.setWm n x).mdisp = k.mdisp := rfl
@[simp] theorem Core.setWm_vdisp (n : Nat) (x : Waymark) : (k.setWm n x).vdisp = k.vdisp := rfl
@[simp] theorem Core.setWm_sdisp (n : Nat) (x : Waymark) : (k.setWm n x).sdisp = k.sdisp := rfl
@[simp] theorem Core.setWm_disps (n : Nat) (x : Waymark) : (k.setWm n x).disps = k.disps := rfl
@[simp] theorem Core.setWm_lws (n : Nat) (x : Waymark) : (k.setWm n x).lws = k.lws := rfl
@[simp] theorem Core.setWm_cmps (n : Nat) (x : Waymark) : (k.setWm n x).cmps = k.cmps := rfl
@[simp] theorem Core.setWm_rds (n : Nat) (x : Waymark) : (k.setWm n x).rds = k.rds := rfl
@[simp] theorem Core.setWm_ves (n : Nat) (x : Waymark) : (k.setWm n x).ves = k.ves := rfl
@[simp] theorem Core.setWm_sts (n : Nat) (x : Waymark) : (k.setWm n x).sts = k.sts := rfl
@[simp] theorem Core.setWm_fillNext (n : Nat) (x : Waymark) : (k.setWm n x).fillNext = k.fillNext := rfl
@[simp] theorem Core.setWm_cmpFree (n : Nat) (x : Waymark) : (k.setWm n x).cmpFree = k.cmpFree := rfl
@[simp] theorem Core.setWm_cmpNext (n : Nat) (x : Waymark) : (k.setWm n x).cmpNext = k.cmpNext := rfl
@[simp] theorem Core.setWm_rdNext (n : Nat) (x : Waymark) : (k.setWm n x).rdNext = k.rdNext := rfl
@[simp] theorem Core.setWm_veNext (n : Nat) (x : Waymark) : (k.setWm n x).veNext = k.veNext := rfl
@[simp] theorem Core.setWm_stNext (n : Nat) (x : Waymark) : (k.setWm n x).stNext = k.stNext := rfl
@[simp] theorem Core.setWm_veDone (n : Nat) (x : Waymark) : (k.setWm n x).veDone = k.veDone := rfl
@[simp] theorem Core.setWm_bankAt (n : Nat) (x : Waymark) : (k.setWm n x).bankAt = k.bankAt := rfl
@[simp] theorem Core.setWm_held (n : Nat) (x : Waymark) : (k.setWm n x).held = k.held := rfl
@[simp] theorem Core.setWm_xfail (n : Nat) (x : Waymark) : (k.setWm n x).xfail = k.xfail := rfl
@[simp] theorem Core.setWm_xcause (n : Nat) (x : Waymark) : (k.setWm n x).xcause = k.xcause := rfl
@[simp] theorem Core.setWm_xftr (n : Nat) (x : Waymark) : (k.setWm n x).xftr = k.xftr := rfl
@[simp] theorem Core.setWm_xfls (n : Nat) (x : Waymark) : (k.setWm n x).xfls = k.xfls := rfl
@[simp] theorem Core.setWm_xlkind (n : Nat) (x : Waymark) : (k.setWm n x).xlkind = k.xlkind := rfl
@[simp] theorem Core.setWm_xltr (n : Nat) (x : Waymark) : (k.setWm n x).xltr = k.xltr := rfl
@[simp] theorem Core.setWm_xfills (n : Nat) (x : Waymark) : (k.setWm n x).xfills = k.xfills := rfl
@[simp] theorem Core.setWm_xopen (n : Nat) (x : Waymark) : (k.setWm n x).xopen = k.xopen := rfl
@[simp] theorem Core.setWm_xftile (n : Nat) (x : Waymark) : (k.setWm n x).xftile = k.xftile := rfl
@[simp] theorem Core.setWm_tables (n : Nat) (x : Waymark) : (k.setWm n x).tables = k.tables := rfl
@[simp] theorem Core.setWm_chans (n : Nat) (x : Waymark) : (k.setWm n x).chans = k.chans := rfl
@[simp] theorem Core.setWm_stmFault (n : Nat) (x : Waymark) : (k.setWm n x).stmFault = k.stmFault := rfl
@[simp] theorem Core.setWm_stmFaultPc (n : Nat) (x : Waymark) : (k.setWm n x).stmFaultPc = k.stmFaultPc := rfl
@[simp] theorem Core.setWm_wms (n : Nat) (x : Waymark) : (k.setWm n x).wms = sset {} k.wms n x := rfl
@[simp] theorem Core.setWm_pv (n : Nat) (x : Waymark) : (k.setWm n x).pv = k.pv := rfl
@[simp] theorem Core.setWm_brk (n : Nat) (x : Waymark) : (k.setWm n x).brk = k.brk := rfl
@[simp] theorem Core.setWm_povr (n : Nat) (x : Waymark) : (k.setWm n x).povr = k.povr := rfl
@[simp] theorem Core.setWm_fence (n : Nat) (x : Waymark) : (k.setWm n x).fence = k.fence := rfl
@[simp] theorem Core.setWm_sigWait (n : Nat) (x : Waymark) : (k.setWm n x).sigWait = k.sigWait := rfl
@[simp] theorem Core.setWm_sramrep (n : Nat) (x : Waymark) : (k.setWm n x).sramrep = k.sramrep := rfl

@[simp] theorem Core.setPview_status (n : Nat) (x : PassView) : (k.setPview n x).status = k.status := rfl
@[simp] theorem Core.setPview_pc (n : Nat) (x : PassView) : (k.setPview n x).pc = k.pc := rfl
@[simp] theorem Core.setPview_beat (n : Nat) (x : PassView) : (k.setPview n x).beat = k.beat := rfl
@[simp] theorem Core.setPview_parkt (n : Nat) (x : PassView) : (k.setPview n x).parkt = k.parkt := rfl
@[simp] theorem Core.setPview_vseen (n : Nat) (x : PassView) : (k.setPview n x).vseen = k.vseen := rfl
@[simp] theorem Core.setPview_cwd (n : Nat) (x : PassView) : (k.setPview n x).cwd = k.cwd := rfl
@[simp] theorem Core.setPview_codeLen (n : Nat) (x : PassView) : (k.setPview n x).codeLen = k.codeLen := rfl
@[simp] theorem Core.setPview_haltAt (n : Nat) (x : PassView) : (k.setPview n x).haltAt = k.haltAt := rfl
@[simp] theorem Core.setPview_beats (n : Nat) (x : PassView) : (k.setPview n x).beats = k.beats := rfl
@[simp] theorem Core.setPview_lastDone (n : Nat) (x : PassView) : (k.setPview n x).lastDone = k.lastDone := rfl
@[simp] theorem Core.setPview_upto (n : Nat) (x : PassView) : (k.setPview n x).upto = k.upto := rfl
@[simp] theorem Core.setPview_seq (n : Nat) (x : PassView) : (k.setPview n x).seq = k.seq := rfl
@[simp] theorem Core.setPview_scal (n : Nat) (x : PassView) : (k.setPview n x).scal = k.scal := rfl
@[simp] theorem Core.setPview_avail (n : Nat) (x : PassView) : (k.setPview n x).avail = k.avail := rfl
@[simp] theorem Core.setPview_pendRes (n : Nat) (x : PassView) : (k.setPview n x).pendRes = k.pendRes := rfl
@[simp] theorem Core.setPview_pendSig (n : Nat) (x : PassView) : (k.setPview n x).pendSig = k.pendSig := rfl
@[simp] theorem Core.setPview_layer (n : Nat) (x : PassView) : (k.setPview n x).layer = k.layer := rfl
@[simp] theorem Core.setPview_lstep (n : Nat) (x : PassView) : (k.setPview n x).lstep = k.lstep := rfl
@[simp] theorem Core.setPview_lstepOld (n : Nat) (x : PassView) : (k.setPview n x).lstepOld = k.lstepOld := rfl
@[simp] theorem Core.setPview_lstepAt (n : Nat) (x : PassView) : (k.setPview n x).lstepAt = k.lstepAt := rfl
@[simp] theorem Core.setPview_advMs (n : Nat) (x : PassView) : (k.setPview n x).advMs = k.advMs := rfl
@[simp] theorem Core.setPview_advFrom (n : Nat) (x : PassView) : (k.setPview n x).advFrom = k.advFrom := rfl
@[simp] theorem Core.setPview_crossAt (n : Nat) (x : PassView) : (k.setPview n x).crossAt = k.crossAt := rfl
@[simp] theorem Core.setPview_ctx (n : Nat) (x : PassView) : (k.setPview n x).ctx = k.ctx := rfl
@[simp] theorem Core.setPview_sram (n : Nat) (x : PassView) : (k.setPview n x).sram = k.sram := rfl
@[simp] theorem Core.setPview_tiles (n : Nat) (x : PassView) : (k.setPview n x).tiles = k.tiles := rfl
@[simp] theorem Core.setPview_banks (n : Nat) (x : PassView) : (k.setPview n x).banks = k.banks := rfl
@[simp] theorem Core.setPview_l0 (n : Nat) (x : PassView) : (k.setPview n x).l0 = k.l0 := rfl
@[simp] theorem Core.setPview_l1 (n : Nat) (x : PassView) : (k.setPview n x).l1 = k.l1 := rfl
@[simp] theorem Core.setPview_clips (n : Nat) (x : PassView) : (k.setPview n x).clips = k.clips := rfl
@[simp] theorem Core.setPview_pendClip (n : Nat) (x : PassView) : (k.setPview n x).pendClip = k.pendClip := rfl
@[simp] theorem Core.setPview_mmbusy (n : Nat) (x : PassView) : (k.setPview n x).mmbusy = k.mmbusy := rfl
@[simp] theorem Core.setPview_mmwait (n : Nat) (x : PassView) : (k.setPview n x).mmwait = k.mmwait := rfl
@[simp] theorem Core.setPview_vebusy (n : Nat) (x : PassView) : (k.setPview n x).vebusy = k.vebusy := rfl
@[simp] theorem Core.setPview_vc (n : Nat) (x : PassView) : (k.setPview n x).vc = k.vc := rfl
@[simp] theorem Core.setPview_mq (n : Nat) (x : PassView) : (k.setPview n x).mq = k.mq := rfl
@[simp] theorem Core.setPview_vq (n : Nat) (x : PassView) : (k.setPview n x).vq = k.vq := rfl
@[simp] theorem Core.setPview_sq (n : Nat) (x : PassView) : (k.setPview n x).sq = k.sq := rfl
@[simp] theorem Core.setPview_mdisp (n : Nat) (x : PassView) : (k.setPview n x).mdisp = k.mdisp := rfl
@[simp] theorem Core.setPview_vdisp (n : Nat) (x : PassView) : (k.setPview n x).vdisp = k.vdisp := rfl
@[simp] theorem Core.setPview_sdisp (n : Nat) (x : PassView) : (k.setPview n x).sdisp = k.sdisp := rfl
@[simp] theorem Core.setPview_disps (n : Nat) (x : PassView) : (k.setPview n x).disps = k.disps := rfl
@[simp] theorem Core.setPview_lws (n : Nat) (x : PassView) : (k.setPview n x).lws = k.lws := rfl
@[simp] theorem Core.setPview_cmps (n : Nat) (x : PassView) : (k.setPview n x).cmps = k.cmps := rfl
@[simp] theorem Core.setPview_rds (n : Nat) (x : PassView) : (k.setPview n x).rds = k.rds := rfl
@[simp] theorem Core.setPview_ves (n : Nat) (x : PassView) : (k.setPview n x).ves = k.ves := rfl
@[simp] theorem Core.setPview_sts (n : Nat) (x : PassView) : (k.setPview n x).sts = k.sts := rfl
@[simp] theorem Core.setPview_fillNext (n : Nat) (x : PassView) : (k.setPview n x).fillNext = k.fillNext := rfl
@[simp] theorem Core.setPview_cmpFree (n : Nat) (x : PassView) : (k.setPview n x).cmpFree = k.cmpFree := rfl
@[simp] theorem Core.setPview_cmpNext (n : Nat) (x : PassView) : (k.setPview n x).cmpNext = k.cmpNext := rfl
@[simp] theorem Core.setPview_rdNext (n : Nat) (x : PassView) : (k.setPview n x).rdNext = k.rdNext := rfl
@[simp] theorem Core.setPview_veNext (n : Nat) (x : PassView) : (k.setPview n x).veNext = k.veNext := rfl
@[simp] theorem Core.setPview_stNext (n : Nat) (x : PassView) : (k.setPview n x).stNext = k.stNext := rfl
@[simp] theorem Core.setPview_veDone (n : Nat) (x : PassView) : (k.setPview n x).veDone = k.veDone := rfl
@[simp] theorem Core.setPview_bankAt (n : Nat) (x : PassView) : (k.setPview n x).bankAt = k.bankAt := rfl
@[simp] theorem Core.setPview_held (n : Nat) (x : PassView) : (k.setPview n x).held = k.held := rfl
@[simp] theorem Core.setPview_xfail (n : Nat) (x : PassView) : (k.setPview n x).xfail = k.xfail := rfl
@[simp] theorem Core.setPview_xcause (n : Nat) (x : PassView) : (k.setPview n x).xcause = k.xcause := rfl
@[simp] theorem Core.setPview_xftr (n : Nat) (x : PassView) : (k.setPview n x).xftr = k.xftr := rfl
@[simp] theorem Core.setPview_xfls (n : Nat) (x : PassView) : (k.setPview n x).xfls = k.xfls := rfl
@[simp] theorem Core.setPview_xlkind (n : Nat) (x : PassView) : (k.setPview n x).xlkind = k.xlkind := rfl
@[simp] theorem Core.setPview_xltr (n : Nat) (x : PassView) : (k.setPview n x).xltr = k.xltr := rfl
@[simp] theorem Core.setPview_xfills (n : Nat) (x : PassView) : (k.setPview n x).xfills = k.xfills := rfl
@[simp] theorem Core.setPview_xopen (n : Nat) (x : PassView) : (k.setPview n x).xopen = k.xopen := rfl
@[simp] theorem Core.setPview_xftile (n : Nat) (x : PassView) : (k.setPview n x).xftile = k.xftile := rfl
@[simp] theorem Core.setPview_tables (n : Nat) (x : PassView) : (k.setPview n x).tables = k.tables := rfl
@[simp] theorem Core.setPview_chans (n : Nat) (x : PassView) : (k.setPview n x).chans = k.chans := rfl
@[simp] theorem Core.setPview_stmFault (n : Nat) (x : PassView) : (k.setPview n x).stmFault = k.stmFault := rfl
@[simp] theorem Core.setPview_stmFaultPc (n : Nat) (x : PassView) : (k.setPview n x).stmFaultPc = k.stmFaultPc := rfl
@[simp] theorem Core.setPview_wms (n : Nat) (x : PassView) : (k.setPview n x).wms = k.wms := rfl
@[simp] theorem Core.setPview_pv (n : Nat) (x : PassView) : (k.setPview n x).pv = sset {} k.pv n x := rfl
@[simp] theorem Core.setPview_brk (n : Nat) (x : PassView) : (k.setPview n x).brk = k.brk := rfl
@[simp] theorem Core.setPview_povr (n : Nat) (x : PassView) : (k.setPview n x).povr = k.povr := rfl
@[simp] theorem Core.setPview_fence (n : Nat) (x : PassView) : (k.setPview n x).fence = k.fence := rfl
@[simp] theorem Core.setPview_sigWait (n : Nat) (x : PassView) : (k.setPview n x).sigWait = k.sigWait := rfl
@[simp] theorem Core.setPview_sramrep (n : Nat) (x : PassView) : (k.setPview n x).sramrep = k.sramrep := rfl

@[simp] theorem Core.past_status (b occ : Nat) : (k.past b occ).status = k.status := rfl
@[simp] theorem Core.past_pc (b occ : Nat) : (k.past b occ).pc = k.pc + 1 := rfl
@[simp] theorem Core.past_beat (b occ : Nat) : (k.past b occ).beat = b + occ := rfl
@[simp] theorem Core.past_parkt (b occ : Nat) : (k.past b occ).parkt = k.parkt := rfl
@[simp] theorem Core.past_vseen (b occ : Nat) : (k.past b occ).vseen = k.vseen := rfl
@[simp] theorem Core.past_cwd (b occ : Nat) : (k.past b occ).cwd = k.cwd := rfl
@[simp] theorem Core.past_codeLen (b occ : Nat) : (k.past b occ).codeLen = k.codeLen := rfl
@[simp] theorem Core.past_haltAt (b occ : Nat) : (k.past b occ).haltAt = k.haltAt := rfl
@[simp] theorem Core.past_beats (b occ : Nat) : (k.past b occ).beats = k.beats := rfl
@[simp] theorem Core.past_lastDone (b occ : Nat) : (k.past b occ).lastDone = k.lastDone := rfl
@[simp] theorem Core.past_upto (b occ : Nat) : (k.past b occ).upto = k.upto := rfl
@[simp] theorem Core.past_seq (b occ : Nat) : (k.past b occ).seq = k.seq := rfl
@[simp] theorem Core.past_scal (b occ : Nat) : (k.past b occ).scal = k.scal := rfl
@[simp] theorem Core.past_avail (b occ : Nat) : (k.past b occ).avail = k.avail := rfl
@[simp] theorem Core.past_pendRes (b occ : Nat) : (k.past b occ).pendRes = k.pendRes := rfl
@[simp] theorem Core.past_pendSig (b occ : Nat) : (k.past b occ).pendSig = k.pendSig := rfl
@[simp] theorem Core.past_layer (b occ : Nat) : (k.past b occ).layer = k.layer := rfl
@[simp] theorem Core.past_lstep (b occ : Nat) : (k.past b occ).lstep = k.lstep := rfl
@[simp] theorem Core.past_lstepOld (b occ : Nat) : (k.past b occ).lstepOld = k.lstepOld := rfl
@[simp] theorem Core.past_lstepAt (b occ : Nat) : (k.past b occ).lstepAt = k.lstepAt := rfl
@[simp] theorem Core.past_advMs (b occ : Nat) : (k.past b occ).advMs = k.advMs := rfl
@[simp] theorem Core.past_advFrom (b occ : Nat) : (k.past b occ).advFrom = k.advFrom := rfl
@[simp] theorem Core.past_crossAt (b occ : Nat) : (k.past b occ).crossAt = k.crossAt := rfl
@[simp] theorem Core.past_ctx (b occ : Nat) : (k.past b occ).ctx = k.ctx := rfl
@[simp] theorem Core.past_sram (b occ : Nat) : (k.past b occ).sram = k.sram := rfl
@[simp] theorem Core.past_tiles (b occ : Nat) : (k.past b occ).tiles = k.tiles := rfl
@[simp] theorem Core.past_banks (b occ : Nat) : (k.past b occ).banks = k.banks := rfl
@[simp] theorem Core.past_l0 (b occ : Nat) : (k.past b occ).l0 = k.l0 := rfl
@[simp] theorem Core.past_l1 (b occ : Nat) : (k.past b occ).l1 = k.l1 := rfl
@[simp] theorem Core.past_clips (b occ : Nat) : (k.past b occ).clips = k.clips := rfl
@[simp] theorem Core.past_pendClip (b occ : Nat) : (k.past b occ).pendClip = k.pendClip := rfl
@[simp] theorem Core.past_mmbusy (b occ : Nat) : (k.past b occ).mmbusy = k.mmbusy := rfl
@[simp] theorem Core.past_mmwait (b occ : Nat) : (k.past b occ).mmwait = k.mmwait := rfl
@[simp] theorem Core.past_vebusy (b occ : Nat) : (k.past b occ).vebusy = k.vebusy := rfl
@[simp] theorem Core.past_vc (b occ : Nat) : (k.past b occ).vc = k.vc := rfl
@[simp] theorem Core.past_mq (b occ : Nat) : (k.past b occ).mq = k.mq := rfl
@[simp] theorem Core.past_vq (b occ : Nat) : (k.past b occ).vq = k.vq := rfl
@[simp] theorem Core.past_sq (b occ : Nat) : (k.past b occ).sq = k.sq := rfl
@[simp] theorem Core.past_mdisp (b occ : Nat) : (k.past b occ).mdisp = k.mdisp := rfl
@[simp] theorem Core.past_vdisp (b occ : Nat) : (k.past b occ).vdisp = k.vdisp := rfl
@[simp] theorem Core.past_sdisp (b occ : Nat) : (k.past b occ).sdisp = k.sdisp := rfl
@[simp] theorem Core.past_disps (b occ : Nat) : (k.past b occ).disps = k.disps := rfl
@[simp] theorem Core.past_lws (b occ : Nat) : (k.past b occ).lws = k.lws := rfl
@[simp] theorem Core.past_cmps (b occ : Nat) : (k.past b occ).cmps = k.cmps := rfl
@[simp] theorem Core.past_rds (b occ : Nat) : (k.past b occ).rds = k.rds := rfl
@[simp] theorem Core.past_ves (b occ : Nat) : (k.past b occ).ves = k.ves := rfl
@[simp] theorem Core.past_sts (b occ : Nat) : (k.past b occ).sts = k.sts := rfl
@[simp] theorem Core.past_fillNext (b occ : Nat) : (k.past b occ).fillNext = k.fillNext := rfl
@[simp] theorem Core.past_cmpFree (b occ : Nat) : (k.past b occ).cmpFree = k.cmpFree := rfl
@[simp] theorem Core.past_cmpNext (b occ : Nat) : (k.past b occ).cmpNext = k.cmpNext := rfl
@[simp] theorem Core.past_rdNext (b occ : Nat) : (k.past b occ).rdNext = k.rdNext := rfl
@[simp] theorem Core.past_veNext (b occ : Nat) : (k.past b occ).veNext = k.veNext := rfl
@[simp] theorem Core.past_stNext (b occ : Nat) : (k.past b occ).stNext = k.stNext := rfl
@[simp] theorem Core.past_veDone (b occ : Nat) : (k.past b occ).veDone = k.veDone := rfl
@[simp] theorem Core.past_bankAt (b occ : Nat) : (k.past b occ).bankAt = k.bankAt := rfl
@[simp] theorem Core.past_held (b occ : Nat) : (k.past b occ).held = k.held := rfl
@[simp] theorem Core.past_xfail (b occ : Nat) : (k.past b occ).xfail = k.xfail := rfl
@[simp] theorem Core.past_xcause (b occ : Nat) : (k.past b occ).xcause = k.xcause := rfl
@[simp] theorem Core.past_xftr (b occ : Nat) : (k.past b occ).xftr = k.xftr := rfl
@[simp] theorem Core.past_xfls (b occ : Nat) : (k.past b occ).xfls = k.xfls := rfl
@[simp] theorem Core.past_xlkind (b occ : Nat) : (k.past b occ).xlkind = k.xlkind := rfl
@[simp] theorem Core.past_xltr (b occ : Nat) : (k.past b occ).xltr = k.xltr := rfl
@[simp] theorem Core.past_xfills (b occ : Nat) : (k.past b occ).xfills = k.xfills := rfl
@[simp] theorem Core.past_xopen (b occ : Nat) : (k.past b occ).xopen = k.xopen := rfl
@[simp] theorem Core.past_xftile (b occ : Nat) : (k.past b occ).xftile = k.xftile := rfl
@[simp] theorem Core.past_tables (b occ : Nat) : (k.past b occ).tables = k.tables := rfl
@[simp] theorem Core.past_chans (b occ : Nat) : (k.past b occ).chans = k.chans := rfl
@[simp] theorem Core.past_stmFault (b occ : Nat) : (k.past b occ).stmFault = k.stmFault := rfl
@[simp] theorem Core.past_stmFaultPc (b occ : Nat) : (k.past b occ).stmFaultPc = k.stmFaultPc := rfl
@[simp] theorem Core.past_wms (b occ : Nat) : (k.past b occ).wms = k.wms := rfl
@[simp] theorem Core.past_pv (b occ : Nat) : (k.past b occ).pv = k.pv := rfl
@[simp] theorem Core.past_brk (b occ : Nat) : (k.past b occ).brk = k.brk := rfl
@[simp] theorem Core.past_povr (b occ : Nat) : (k.past b occ).povr = k.povr := rfl
@[simp] theorem Core.past_fence (b occ : Nat) : (k.past b occ).fence = k.fence := rfl
@[simp] theorem Core.past_sigWait (b occ : Nat) : (k.past b occ).sigWait = k.sigWait := rfl
@[simp] theorem Core.past_sramrep (b occ : Nat) : (k.past b occ).sramrep = k.sramrep := rfl

end

end Sys2Proof.Machine
end

