-- ==== Sys2Proof/Laws/Issue.lean ====
section
/-! SUPPORT. What an issue does, once for every instruction: where `State.issueAt` and `State.placeAt` answer, and where they do not. -/
namespace Sys2Proof.Machine

/-- A core that does not stand before the instruction turns it away. -/
theorem issueCc_away (s : State) (c : Nat) (op : CcOp) (h : Hdr) (regs : List Reg) (f : State → Nat → State)
    (hi : (s.core c).atInstr (.cc op) h = false) : s.issueCc c op h regs f = s := by
  simp [State.issueCc, hi]

/-- Where a control-core instruction issues, it acts on the state brought forward to its beat. -/
theorem issueCc_at {s u : State} {c : Nat} {op : CcOp} {h : Hdr} {regs : List Reg} {f : State → Nat → State} {b : Nat}
    (hu : s.issueAt c op h regs = some (u, b)) : s.issueCc c op h regs f = f u b := by
  unfold State.issueAt at hu
  by_cases h1 : (s.core c).atInstr (.cc op) h = true
  · rw [if_pos h1] at hu
    unfold State.issueCc
    simp only [h1, Bool.not_true, Bool.false_eq_true, if_false]
    cases h3 : s.toWait 4 c h ((s.core c).issueBeat regs) with
    | mk s1 o =>
      cases o with
      | none => rw [h3] at hu; cases hu
      | some w =>
        rw [h3] at hu
        dsimp only at hu ⊢
        by_cases h4 : ((s1.core c).engLive && ((s1.settle c w).core c).engLive) = true
        · rw [if_pos h4] at hu
          simp only [Bool.and_eq_true] at h4
          rw [Option.some.injEq, Prod.mk.injEq] at hu
          obtain ⟨rfl, rfl⟩ := hu
          simp only [h4.1, h4.2, Bool.not_true, Bool.false_eq_true, if_false]
        · rw [if_neg h4] at hu; cases hu
  · rw [if_neg h1] at hu; cases hu

/-- Where an engine instruction has a place, it is placed on the state brought forward to its beat. -/
theorem issueEng_at {s u : State} {c : Nat} {op : AnyOp} {h : Hdr} {regs : List Reg} {len : Core → Nat} {f : Core → Nat → Core} {b : Nat}
    (hu : s.placeAt c op h regs len = some (u, b)) :
    s.issueEng c op h regs len f
      = u.modCore c fun k => { (f k b).past b 1 with seq := k.seq + 1, disps := k.disps.filter fun x => decide (b < x.2) } := by
  unfold State.placeAt at hu
  by_cases h1 : (s.core c).atInstr op h = true
  · rw [if_pos h1] at hu
    unfold State.issueEng
    dsimp only at hu ⊢
    generalize (if len ((s.sync c ((s.core c).issueBeat regs - 1)).core c) < 32 then s.sync c ((s.core c).issueBeat regs - 1)
      else (s.sync c ((s.core c).issueBeat regs - 1)).pump c ((s.core c).issueBeat regs)) = s2 at hu ⊢
    cases h2 : (s2.core c).roomAt op.eng (len (s2.core c)) ((s.core c).issueBeat regs) with
    | none => rw [h2] at hu; cases hu
    | some w =>
      rw [h2] at hu
      dsimp only at hu ⊢
      by_cases h4 : ((s2.core c).engLive && ((s2.settle c w).core c).engLive) = true
      · rw [if_pos h4] at hu
        simp only [Bool.and_eq_true] at h4
        rw [Option.some.injEq, Prod.mk.injEq] at hu
        obtain ⟨rfl, rfl⟩ := hu
        simp only [h1, h4.1, h4.2, Bool.not_true, Bool.false_eq_true, if_false]
      · rw [if_neg h4] at hu; cases hu
  · rw [if_neg h1] at hu; cases hu

/-- A core that does not stand before an engine instruction turns it away. -/
theorem issueEng_away (s : State) (c : Nat) (op : AnyOp) (h : Hdr) (regs : List Reg) (len : Core → Nat) (f : Core → Nat → Core)
    (hi : (s.core c).atInstr op h = false) : s.issueEng c op h regs len f = s := by
  simp [State.issueEng, hi]

/-- The result of a one-beat instruction, as the claims say it. -/
theorem withResult_eq (k : Core) (rd : Reg) (v : Word64) (h : Hdr) (b : Nat) :
    ((k.setSc rd v).past b 1).sigAt h 0 k.pc (b + 1) = k.withResult rd v h b := by
  obtain ⟨w, x⟩ := h
  unfold Core.setSc Core.past Core.sigAt Core.withResult
  cases x <;> by_cases hr : rd.val = 0 <;> simp [hr]

end Sys2Proof.Machine
end

