-- ==== Sys2Proof/Laws/Memory.lean ====
section
/-! SUPPORT. The laws of sparse maps and memories: a read after a write, and that every operation keeps the canonical form. -/
namespace Sys2Proof.Machine

section
variable {α : Type} {d : α}

/-- A map whose keys all lie above i reads its default at i. -/
theorem sget_above (m : Sparse α) (i : Nat) (h : ∀ e ∈ m, i < e.1) : sget d m i = d := by
  induction m with
  | nil => rfl
  | cons x r ih =>
    obtain ⟨k, w⟩ := x
    have hk : i < k := h (k, w) (by simp)
    simp only [sget]
    rw [if_neg (by omega)]
    exact ih fun e he => h e (by simp [he])

/-- The keys of a map in canonical form rise, head first. -/
theorem wf_tail {x : Nat × α} {r : Sparse α} (h : Sparse.Wf d (x :: r)) : Sparse.Wf d r ∧ (∀ e ∈ r, x.1 < e.1) ∧ x.2 ≠ d := by
  obtain ⟨hp, hd⟩ := h
  rw [List.pairwise_cons] at hp
  exact ⟨⟨hp.2, fun e he => hd e (by simp [he])⟩, hp.1, hd x (by simp)⟩

/-- Removing the entries of a range keeps the canonical form. -/
theorem clrRange_wf (m : Sparse α) (a n : Nat) (h : Sparse.Wf d m) : Sparse.Wf d (clrRange m a n) :=
  ⟨h.1.sublist List.filter_sublist, fun e he => h.2 e (List.mem_filter.1 he).1⟩

variable [DecidableEq α]

/-- Every key of a map after a write is the written key or a key of the map. -/
theorem sset_keys (m : Sparse α) (i : Nat) (v : α) : ∀ e ∈ sset d m i v, e.1 = i ∨ ∃ e' ∈ m, e'.1 = e.1 := by
  induction m with
  | nil =>
    intro e he
    simp only [sset] at he
    split at he
    · cases he
    · simp only [List.mem_singleton] at he
      exact .inl (by rw [he])
  | cons x r ih =>
    obtain ⟨k, w⟩ := x
    intro e he
    simp only [sset] at he
    split at he
    · split at he
      · exact .inr ⟨e, he, rfl⟩
      · rcases List.mem_cons.1 he with rfl | he
        · exact .inl rfl
        · exact .inr ⟨e, he, rfl⟩
    · split at he
      · split at he
        · exact .inr ⟨e, by simp [he], rfl⟩
        · rcases List.mem_cons.1 he with rfl | he
          · exact .inl rfl
          · exact .inr ⟨e, by simp [he], rfl⟩
      · rcases List.mem_cons.1 he with rfl | he
        · exact .inr ⟨(k, w), by simp, rfl⟩
        · rcases ih e he with h | ⟨e', h', h⟩
          · exact .inl h
          · exact .inr ⟨e', by simp [h'], h⟩

/-- A write keeps the canonical form. -/
theorem sset_wf (m : Sparse α) (i : Nat) (v : α) (h : Sparse.Wf d m) : Sparse.Wf d (sset d m i v) := by
  induction m with
  | nil =>
    simp only [sset]
    split
    · exact h
    · rename_i hv
      exact ⟨by simp, fun e he => by simp only [List.mem_singleton] at he; rw [he]; exact hv⟩
  | cons x r ih =>
    obtain ⟨k, w⟩ := x
    obtain ⟨hr, hk, hw⟩ := wf_tail h
    simp only [sset]
    split
    · rename_i hlt
      split
      · exact h
      · rename_i hv
        refine ⟨List.pairwise_cons.2 ⟨fun e he => ?_, h.1⟩, fun e he => ?_⟩
        · rcases List.mem_cons.1 he with rfl | he
          · exact hlt
          · exact Nat.lt_trans hlt (hk e he)
        · rcases List.mem_cons.1 he with rfl | he
          · exact hv
          · exact h.2 e he
    · split
      · rename_i _ heq
        split
        · exact hr
        · rename_i hv
          refine ⟨List.pairwise_cons.2 ⟨fun e he => heq ▸ hk e he, hr.1⟩, fun e he => ?_⟩
          rcases List.mem_cons.1 he with rfl | he
          · exact hv
          · exact hr.2 e he
      · rename_i hnlt hne
        obtain ⟨hp, hd⟩ := ih hr
        refine ⟨List.pairwise_cons.2 ⟨fun e he => ?_, hp⟩, fun e he => ?_⟩
        · rcases sset_keys r i v e he with h' | ⟨e', h', h''⟩
          · show k < e.1
            omega
          · have h3 : k < e'.1 := hk e' h'
            show k < e.1
            omega
        · rcases List.mem_cons.1 he with rfl | he
          · exact hw
          · exact hd e he

/-- A read after a write to the same key. -/
theorem sget_sset_same (m : Sparse α) (i : Nat) (v : α) (h : Sparse.Wf d m) : sget d (sset d m i v) i = v := by
  induction m with
  | nil =>
    simp only [sset]
    split
    · rename_i hv
      simp [sget, hv]
    · simp [sget]
  | cons x r ih =>
    obtain ⟨k, w⟩ := x
    obtain ⟨hr, hk, -⟩ := wf_tail h
    simp only [sset]
    split
    · rename_i hlt
      split
      · rename_i hv
        rw [hv]
        refine sget_above _ _ fun e he => ?_
        rcases List.mem_cons.1 he with rfl | he
        · exact hlt
        · exact Nat.lt_trans hlt (hk e he)
      · simp [sget]
    · split
      · rename_i _ heq
        split
        · rename_i hv
          rw [hv]
          exact sget_above _ _ fun e he => heq ▸ hk e he
        · simp [sget]
      · rename_i _ hne
        simp only [sget]
        rw [if_neg (Ne.symm hne)]
        exact ih hr

/-- A write leaves every other key alone. -/
theorem sget_sset_ne (m : Sparse α) (i j : Nat) (v : α) (h : Sparse.Wf d m) (hij : j ≠ i) : sget d (sset d m i v) j = sget d m j := by
  induction m with
  | nil =>
    simp only [sset]
    split
    · rfl
    · simp [sget, Ne.symm hij]
  | cons x r ih =>
    obtain ⟨k, w⟩ := x
    obtain ⟨hr, hk, -⟩ := wf_tail h
    simp only [sset]
    split
    · split
      · rfl
      · simp [sget, Ne.symm hij]
    · split
      · rename_i _ heq
        have hkj : ¬ k = j := by omega
        split
        · simp [sget, hkj]
        · simp [sget, hkj, Ne.symm hij]
      · simp only [sget]
        split
        · rfl
        · exact ih hr

/-- A value at a key of a map in canonical form, written back, leaves the map as it is. -/
theorem sset_same (m : Sparse α) (i : Nat) (h : Sparse.Wf d m) : sset d m i (sget d m i) = m := by
  induction m with
  | nil => simp [sget, sset]
  | cons x r ih =>
    obtain ⟨k, w⟩ := x
    obtain ⟨hr, hk, hw⟩ := wf_tail h
    rcases Nat.lt_trichotomy i k with hlt | heq | hgt
    · have hd : sget d ((k, w) :: r) i = d := sget_above _ _ fun e he => by
        rcases List.mem_cons.1 he with rfl | he
        · exact hlt
        · exact Nat.lt_trans hlt (hk e he)
      rw [hd]
      simp [sset, hlt]
    · subst heq
      have hw' : ¬ w = d := hw
      simp [sget, sset, hw']
    · have h1 : ¬ k = i := by omega
      have h2 : ¬ i < k := by omega
      simp only [sget, h1, if_false, sset, h2, Ne.symm h1]
      rw [ih hr]

end

/-- A byte write keeps the canonical form. -/
theorem wrByte_wf (m : Memory) (a : Nat) (b : Byte) (h : Memory.wf m) : Memory.wf (wrByte m a b) := sset_wf m a b h

/-- A read of the byte just written. -/
theorem rdByte_wrByte_same (m : Memory) (a : Nat) (b : Byte) (h : Memory.wf m) : rdByte (wrByte m a b) a = b := sget_sset_same m a b h

/-- A byte write leaves every other byte alone. -/
theorem rdByte_wrByte_ne (m : Memory) (a x : Nat) (b : Byte) (h : Memory.wf m) (hx : x ≠ a) : rdByte (wrByte m a b) x = rdByte m x :=
  sget_sset_ne m a x b h hx

/-- A write of bytes keeps the canonical form. -/
theorem wrBytes_wf (l : List Byte) : ∀ (m : Memory) (a : Nat), Memory.wf m → Memory.wf (wrBytes m a l) := by
  induction l with
  | nil => exact fun _ _ h => h
  | cons b r ih => exact fun m a h => ih _ _ (wrByte_wf m a b h)

/-- A write of bytes that wraps keeps the canonical form. -/
theorem wrWrap_wf (size : Nat) (l : List Byte) : ∀ (m : Memory) (a : Nat), Memory.wf m → Memory.wf (wrWrap m size a l) := by
  induction l with
  | nil => exact fun _ _ h => h
  | cons b r ih => exact fun m a h => ih _ _ (wrByte_wf m _ b h)

/-- A write through BAR2 keeps the canonical form. -/
theorem putAllowed_wf (k : Ctx) (l : List Byte) : ∀ (m : Memory) (a : Nat), Memory.wf m → Memory.wf (putAllowed k m a l) := by
  induction l with
  | nil => exact fun _ _ h => h
  | cons b r ih =>
    intro m a h
    simp only [putAllowed]
    split
    · exact ih _ _ (wrByte_wf m a b h)
    · exact ih _ _ h

/-- A write of bytes leaves every byte below and above it alone. -/
theorem rdByte_wrBytes_outside (l : List Byte) : ∀ (m : Memory) (a x : Nat), Memory.wf m → (x < a ∨ a + l.length ≤ x) →
    rdByte (wrBytes m a l) x = rdByte m x := by
  induction l with
  | nil => exact fun _ _ _ _ _ => rfl
  | cons b r ih =>
    intro m a x h hx
    simp only [List.length_cons] at hx
    simp only [wrBytes]
    rw [ih _ _ x (wrByte_wf m a b h) (by omega), rdByte_wrByte_ne m a x b h (by omega)]

/-- A write of bytes is read back. -/
theorem rdByte_wrBytes_inside (l : List Byte) : ∀ (m : Memory) (a i : Nat), Memory.wf m → i < l.length →
    rdByte (wrBytes m a l) (a + i) = l.getD i 0 := by
  induction l with
  | nil => intro m a i _ hi; simp at hi
  | cons b r ih =>
    intro m a i h hi
    simp only [wrBytes]
    cases i with
    | zero =>
      rw [rdByte_wrBytes_outside r _ _ _ (wrByte_wf m a b h) (by omega)]
      simpa using rdByte_wrByte_same m a b h
    | succ n =>
      have h1 : a + (n + 1) = a + 1 + n := by omega
      rw [h1, ih _ _ n (wrByte_wf m a b h) (by simpa using hi)]
      simp

/-- The memories of the machine after reset are in canonical form. -/
theorem reset_lpddr_wf : Memory.wf State.reset.lpddr := by decide

/-- A folded write of bytes keeps the canonical form. -/
theorem foldl_wf {β : Type} (f : Memory → β → Memory) (hf : ∀ m x, Memory.wf m → Memory.wf (f m x)) (l : List β) :
    ∀ m, Memory.wf m → Memory.wf (l.foldl f m) := by
  induction l with
  | nil => exact fun _ h => h
  | cons x r ih => exact fun m h => ih _ (hf m x h)

end Sys2Proof.Machine
end

