-- ==== Sys2Proof/Laws/Keep.lean ====
section
/-! SUPPORT. What every shared operation keeps, said once and cited by those that call it: the queue, the canonical form of LPDDR, strict mode
on a module that has started, and a module halt with its code and its record. One lemma for each operation on the state. -/
namespace Sys2Proof.Machine

/-- The parts of a state that `Keeps` speaks of, as what they must be of the state r before. -/
structure KeepsF (r : State) (p : List Instr) (m : Memory) (rd st ht : Bool) (hc : BitVec 16) (hs : Word32) : Prop where
  pending : p = r.pending
  lpddr : Memory.wf r.lpddr → Memory.wf m
  strict : r.boot.ready = true → r.boot.strict = true → rd = true ∧ st = true
  halt : r.boot.halt = true → ht = true ∧ hc = r.err.haltCode ∧ hs = r.err.haltSeq

/-- s has the queue of r, its LPDDR in canonical form if that of r is, and strict mode and a halt as r has them. -/
def Keeps (r s : State) : Prop := KeepsF r s.pending s.lpddr s.boot.ready s.boot.strict s.boot.halt s.err.haltCode s.err.haltSeq

theorem Keeps.refl (s : State) : Keeps s s := ⟨rfl, id, fun a b => ⟨a, b⟩, fun a => ⟨a, rfl, rfl⟩⟩

theorem Keeps.toF {r s : State} (h : Keeps r s) :
    KeepsF r s.pending s.lpddr s.boot.ready s.boot.strict s.boot.halt s.err.haltCode s.err.haltSeq := h

/-- A record update is judged by the parts that count. -/
theorem Keeps.mk_iff {r : State} {a b c d e f g h i j k l m n o p q r' s t u v w x y z a1} :
    Keeps r (State.mk a b c d e f g h i j k l m n o p q r' s t u v w x y z a1)
      ↔ KeepsF r a m t.ready t.strict t.halt u.haltCode u.haltSeq := Iff.rfl

theorem Keeps.foldl {α : Type} {r : State} {f : State → α → State} {l : List α} {s : State}
    (hf : ∀ t x, Keeps r t → Keeps r (f t x)) (h : Keeps r s) : Keeps r (l.foldl f s) := by
  induction l generalizing s with
  | nil => exact h
  | cons x l ih => exact ih (hf _ _ h)

/-- An update that writes LPDDR too. -/
theorem Keeps.memF {r t : State} {m : Memory} (k : Keeps r t) (hm : Memory.wf t.lpddr → Memory.wf m) :
    KeepsF r t.pending m t.boot.ready t.boot.strict t.boot.halt t.err.haltCode t.err.haltSeq :=
  ⟨k.pending, fun h => hm (k.lpddr h), k.strict, k.halt⟩

/-- A halt put in force where none was. -/
theorem Keeps.haltF {r t : State} {c : BitVec 16} {q : Word32} (hn : ¬ r.boot.halt = true) (k : Keeps r t) :
    KeepsF r t.pending t.lpddr t.boot.ready t.boot.strict true c q := ⟨k.pending, k.lpddr, k.strict, fun h => absurd h hn⟩

/-- READY set where it was clear, strict mode with it. -/
theorem Keeps.startF {r t : State} {q : Bool} (hn : r.boot.ready = false) (k : Keeps r t) :
    KeepsF r t.pending t.lpddr true q t.boot.halt t.err.haltCode t.err.haltSeq :=
  ⟨k.pending, k.lpddr, fun h => absurd h (by simp [hn]), k.halt⟩

section
variable {r0 : State}

theorem Keeps.setCore (s : State) (c : Nat) (k : Core) (hK : Keeps r0 s) : Keeps r0 (s.setCore c k) := hK

theorem Keeps.modCore (s : State) (c : Nat) (f : Core → Core) (hK : Keeps r0 s) : Keeps r0 (s.modCore c f) := hK

theorem Keeps.modPart (s : State) (p : Nat) (f : Part → Part) (hK : Keeps r0 s) : Keeps r0 (s.modPart p f) := hK

theorem Keeps.modPass (s : State) (p : Nat) (f : Pass → Pass) (hK : Keeps r0 s) : Keeps r0 (s.modPass p f) := hK

theorem Keeps.modPort (s : State) (q : Nat) (f : Port → Port) (hK : Keeps r0 s) : Keeps r0 (s.modPort q f) := hK

theorem Keeps.modCtx (s : State) (x : Nat) (f : Ctx → Ctx) (hK : Keeps r0 s) : Keeps r0 (s.modCtx x f) := hK

theorem Keeps.modSlot (s : State) (x e : Nat) (f : Slot → Slot) (hK : Keeps r0 s) : Keeps r0 (s.modSlot x e f) := hK

theorem Keeps.modMbox (s : State) (m : Nat) (f : Mbx → Mbx) (hK : Keeps r0 s) : Keeps r0 (s.modMbox m f) := hK

theorem Keeps.modLctl (s : State) (n : Nat) (f : LpdCtl → LpdCtl) (hK : Keeps r0 s) : Keeps r0 (s.modLctl n f) := hK

theorem Keeps.modSendSlot (s : State) (q i : Nat) (f : SendSlot → SendSlot) (hK : Keeps r0 s) : Keeps r0 (s.modSendSlot q i f) := hK

theorem Keeps.emit (s : State) (o : Sent) (hK : Keeps r0 s) : Keeps r0 (s.emit o) := hK

theorem Keeps.reserve (s : State) (hK : Keeps r0 s) : Keeps r0 (s.reserve) := by
  unfold State.reserve
  repeat' (first
    | (with_reducible first | assumption | apply Keeps.toF)
    | simp only [Keeps.mk_iff] | dsimp only | split)

theorem Keeps.useTurns (s : State) (cls : LpdClass) (a len : Nat) (hK : Keeps r0 s) : Keeps r0 (s.useTurns cls a len) := by
  unfold State.useTurns
  repeat' (first
    | (with_reducible first | assumption | apply Keeps.foldl | apply Keeps.toF)
    | simp only [Keeps.mk_iff] | dsimp only | split | intro _)

theorem Keeps.noteConf (s : State) (offs : List Nat) (hK : Keeps r0 s) : Keeps r0 (s.noteConf offs) := by
  unfold State.noteConf
  repeat' (first
    | (with_reducible first | assumption | apply Keeps.toF)
    | simp only [Keeps.mk_iff] | dsimp only | split | intro _)

theorem Keeps.signalVec (s : State) (v : Nat) (hK : Keeps r0 s) : Keeps r0 (s.signalVec v) := by
  unfold State.signalVec
  repeat' (first
    | (with_reducible first | assumption | apply Keeps.emit | apply Keeps.toF)
    | simp only [Keeps.mk_iff] | dsimp only | split)

theorem Keeps.noticeTo (s : State) (b : List Byte) (m : Nat) (hK : Keeps r0 s) : Keeps r0 (s.noticeTo b m) := by
  unfold State.noticeTo
  repeat' (first
    | (with_reducible first | assumption | apply Keeps.modMbox | apply Keeps.signalVec | apply Keeps.toF)
    | simp only [Keeps.mk_iff] | dsimp only | split | intro _)

theorem Keeps.notify (s : State) (kind : Nat) (ctx : Option Nat) (data : List Byte) (hK : Keeps r0 s) : Keeps r0 (s.notify kind ctx data) := by
  unfold State.notify
  repeat' (first
    | (with_reducible first | assumption | apply Keeps.noticeTo | apply Keeps.foldl | apply Keeps.toF)
    | simp only [Keeps.mk_iff] | dsimp only | split | intro _)

theorem Keeps.putCompletion (s : State) (j : Job) (status reason : Nat) (data : List Byte) (hK : Keeps r0 s) :
    Keeps r0 (s.putCompletion j status reason data) := by
  unfold State.putCompletion
  repeat' (first
    | (with_reducible first | assumption | apply Keeps.modMbox | apply Keeps.signalVec | apply Keeps.toF)
    | simp only [Keeps.mk_iff] | dsimp only | split | intro _)

theorem Keeps.disarmDone (s : State) (m : MbxId) (hK : Keeps r0 s) : Keeps r0 (s.disarmDone m) := by
  unfold State.disarmDone
  repeat' (first
    | (with_reducible first | assumption | apply Keeps.modMbox | apply Keeps.putCompletion | apply Keeps.toF)
    | simp only [Keeps.mk_iff] | dsimp only | split | intro _)

theorem Keeps.complete (s : State) (j : Job) (status reason : Nat) (data : List Byte) (hK : Keeps r0 s) : Keeps r0 (s.complete j status reason data) := by
  unfold State.complete
  repeat' (first
    | (with_reducible first | assumption | apply Keeps.putCompletion | apply Keeps.disarmDone | apply Keeps.toF)
    | simp only [Keeps.mk_iff] | dsimp only | split)

theorem Keeps.completeAll (s : State) (p : Job → Bool) (status reason : Nat) (data : List Byte) (hK : Keeps r0 s) :
    Keeps r0 (s.completeAll p status reason data) := by
  unfold State.completeAll
  repeat' (first
    | (with_reducible first | assumption | apply Keeps.complete | apply Keeps.foldl | apply Keeps.toF)
    | simp only [Keeps.mk_iff] | dsimp only | split | intro _)

theorem Keeps.scrubNext (s : State) (hK : Keeps r0 s) : Keeps r0 (s.scrubNext) := by
  unfold State.scrubNext
  repeat' (first
    | (with_reducible first | assumption | apply Keeps.toF)
    | simp only [Keeps.mk_iff] | dsimp only | split | intro _)

theorem Keeps.startRotation (s : State) (hK : Keeps r0 s) : Keeps r0 (s.startRotation) := by
  unfold State.startRotation
  repeat' (first
    | (with_reducible first | assumption | apply Keeps.scrubNext | apply Keeps.toF)
    | simp only [Keeps.mk_iff] | dsimp only | split)

theorem Keeps.scrubDue (s : State) (hK : Keeps r0 s) : Keeps r0 (s.scrubDue) := by
  unfold State.scrubDue
  repeat' (first
    | (with_reducible first | assumption | apply Keeps.startRotation | apply Keeps.toF)
    | simp only [Keeps.mk_iff] | dsimp only | split)

theorem Keeps.scrubDrop (s : State) (x e : Nat) (hK : Keeps r0 s) : Keeps r0 (s.scrubDrop x e) := by
  unfold State.scrubDrop
  repeat' (first
    | (with_reducible first | assumption | apply Keeps.scrubNext | apply Keeps.scrubDue | apply Keeps.toF)
    | simp only [Keeps.mk_iff] | dsimp only | split | intro _)

theorem Keeps.releaseSlot (s : State) (x e : Nat) (hK : Keeps r0 s) : Keeps r0 (s.releaseSlot x e) := by
  unfold State.releaseSlot
  repeat' (first
    | (with_reducible first | assumption | apply Keeps.modSlot | apply Keeps.notify | apply Keeps.scrubDrop | apply Keeps.toF)
    | simp only [Keeps.mk_iff] | dsimp only | split | intro _)

theorem Keeps.retireSlot (s : State) (x e : Nat) (hK : Keeps r0 s) : Keeps r0 (s.retireSlot x e) := by
  unfold State.retireSlot
  repeat' (first
    | (with_reducible first | assumption | apply Keeps.releaseSlot | apply Keeps.toF)
    | simp only [Keeps.mk_iff] | dsimp only | split)

theorem Keeps.unpin (s : State) (x e : Nat) (hK : Keeps r0 s) : Keeps r0 (s.unpin x e) := by
  unfold State.unpin
  repeat' (first
    | (with_reducible first | assumption | apply Keeps.modSlot | apply Keeps.retireSlot | apply Keeps.toF)
    | simp only [Keeps.mk_iff] | dsimp only | split | intro _)

theorem Keeps.unpinRun (s : State) (hK : Keeps r0 s) : Keeps r0 (s.unpinRun) := by
  unfold State.unpinRun
  repeat' (first
    | (with_reducible first | assumption | apply Keeps.unpin | apply Keeps.toF)
    | simp only [Keeps.mk_iff] | dsimp only | split | intro _)

theorem Keeps.setClassBit (s : State) (c : BitVec 3) (hK : Keeps r0 s) : Keeps r0 (s.setClassBit c) := hK

theorem Keeps.noteJob (s : State) (r : EvRec) (hK : Keeps r0 s) : Keeps r0 (s.noteJob r) := by
  unfold State.noteJob
  repeat' (first
    | (with_reducible first | assumption | apply Keeps.toF)
    | simp only [Keeps.mk_iff] | dsimp only | split)

theorem Keeps.enqueue (s : State) (r : EvRec) (hK : Keeps r0 s) : Keeps r0 (s.enqueue r) := by
  unfold State.enqueue
  repeat' (first
    | (with_reducible first | assumption | apply Keeps.toF)
    | simp only [Keeps.mk_iff] | dsimp only | split)

theorem Keeps.offer (s : State) (r : EvRec) (hK : Keeps r0 s) : Keeps r0 (s.offer r) := by
  unfold State.offer
  repeat' (first
    | (with_reducible first | assumption | apply Keeps.enqueue | apply Keeps.toF)
    | simp only [Keeps.mk_iff] | dsimp only | split | intro _)

theorem Keeps.logEvent (s : State) (e : Ev) (hK : Keeps r0 s) : Keeps r0 (s.logEvent e) := by
  unfold State.logEvent
  repeat' (first
    | (with_reducible first | assumption | apply Keeps.setClassBit | apply Keeps.offer | apply Keeps.toF)
    | simp only [Keeps.mk_iff] | dsimp only | split)

theorem Keeps.sendWord (s : State) (q type tag : Nat) (body : List Byte) (hK : Keeps r0 s) : Keeps r0 (s.sendWord q type tag body) := hK

theorem Keeps.sendSlice (s : State) (type tag : Nat) (body : List Byte) (hK : Keeps r0 s) : Keeps r0 (s.sendSlice type tag body) := by
  unfold State.sendSlice
  repeat' (first
    | (with_reducible first | assumption | apply Keeps.sendWord | apply Keeps.foldl | apply Keeps.toF)
    | simp only [Keeps.mk_iff] | dsimp only | split | intro _)

theorem Keeps.haltCores (s : State) (hK : Keeps r0 s) : Keeps r0 (s.haltCores) := hK

theorem Keeps.haltCore (s : State) (c : Nat) (hK : Keeps r0 s) : Keeps r0 (s.haltCore c) := hK

theorem Keeps.jumpBy (s : State) (q n : Nat) (hK : Keeps r0 s) : Keeps r0 (s.jumpBy q n) := by
  unfold State.jumpBy
  repeat' (first
    | (with_reducible first | assumption | apply Keeps.logEvent | apply Keeps.toF)
    | simp only [Keeps.mk_iff] | dsimp only | split | intro _)

theorem Keeps.noteFound (s : State) (q : Nat) (n : Option Found) (hK : Keeps r0 s) : Keeps r0 (s.noteFound q n) := by
  unfold State.noteFound
  repeat' (first
    | (with_reducible first | assumption | apply Keeps.modPort | apply Keeps.logEvent | apply Keeps.toF)
    | simp only [Keeps.mk_iff] | dsimp only | split | intro _)

theorem Keeps.hold (s : State) (q : Nat) (c : BitVec 4) (hK : Keeps r0 s) : Keeps r0 (s.hold q c) := hK

theorem Keeps.portReady (s : State) (q : Nat) (hK : Keeps r0 s) : Keeps r0 (s.portReady q) := by
  unfold State.portReady
  repeat' (first
    | (with_reducible first | assumption | apply Keeps.modPort | apply Keeps.hold | apply Keeps.toF)
    | simp only [Keeps.mk_iff] | dsimp only | split | intro _)

theorem Keeps.offsetCheck (s : State) (q : Nat) (hK : Keeps r0 s) : Keeps r0 (s.offsetCheck q) := by
  unfold State.offsetCheck
  repeat' (first
    | (with_reducible first | assumption | apply Keeps.modPort | apply Keeps.jumpBy | apply Keeps.hold | apply Keeps.portReady)
    | (with_reducible first | apply Keeps.toF)
    | simp only [Keeps.mk_iff] | dsimp only | split | intro _)

theorem Keeps.checkPort (s : State) (q : Nat) (hK : Keeps r0 s) : Keeps r0 (s.checkPort q) := by
  unfold State.checkPort
  repeat' (first
    | (with_reducible first | assumption | apply Keeps.modPort | apply Keeps.noteFound | apply Keeps.hold | apply Keeps.offsetCheck)
    | (with_reducible first | apply Keeps.toF)
    | simp only [Keeps.mk_iff] | dsimp only | split | intro _)

theorem Keeps.swapImage (s : State) (x : Nat) (hK : Keeps r0 s) : Keeps r0 (s.swapImage x) := by
  unfold State.swapImage
  repeat' (first
    | (with_reducible first | assumption | apply Keeps.modCtx | apply Keeps.toF)
    | simp only [Keeps.mk_iff] | dsimp only | split | intro _)

theorem Keeps.jobEnded (s : State) (hK : Keeps r0 s) : Keeps r0 (s.jobEnded) := by
  unfold State.jobEnded
  repeat' (first
    | (with_reducible first | assumption | apply Keeps.checkPort | apply Keeps.foldl | apply Keeps.toF)
    | simp only [Keeps.mk_iff] | dsimp only | split | intro _)

theorem Keeps.stopAll (s : State) (code : BitVec 16) (pos idx step : Nat) (hK : Keeps r0 s) : Keeps r0 (s.stopAll code pos idx step) := by
  unfold State.stopAll
  repeat' (first
    | (with_reducible first | assumption | apply Keeps.unpinRun | apply Keeps.sendSlice | apply Keeps.haltCores | apply Keeps.jobEnded)
    | (with_reducible first | apply Keeps.toF)
    | simp only [Keeps.mk_iff] | dsimp only | split | intro _)

theorem Keeps.stopJob (s : State) (code : BitVec 16) (pos idx step : Nat) (hK : Keeps r0 s) : Keeps r0 (s.stopJob code pos idx step) := by
  unfold State.stopJob
  repeat' (first
    | (with_reducible first | assumption | apply Keeps.stopAll | apply Keeps.toF)
    | simp only [Keeps.mk_iff] | dsimp only | split)

theorem Keeps.haltAgreement (s : State) (hK : Keeps r0 s) : Keeps r0 (s.haltAgreement) := by
  unfold State.haltAgreement
  repeat' (first
    | (with_reducible first | assumption | apply Keeps.completeAll | apply Keeps.swapImage | apply Keeps.toF)
    | simp only [Keeps.mk_iff] | dsimp only | split | intro _)

theorem Keeps.moduleHalt (s : State) (code : BitVec 16) (seq : Word32) (hK : Keeps r0 s) : Keeps r0 (s.moduleHalt code seq) := by
  unfold State.moduleHalt
  split
  · exact hK
  rename_i hn
  dsimp only
  simp only [Keeps.mk_iff]
  refine Keeps.haltF (fun h => hn (hK.halt h).1) ?_
  refine Keeps.foldl (fun t q ht => ?_) (Keeps.completeAll _ _ _ _ _ (Keeps.completeAll _ _ _ _ _
    (Keeps.haltCores _ (Keeps.haltAgreement _ (Keeps.stopJob _ _ _ _ _ hK)))))
  split
  · exact Keeps.modPort _ _ _ ht
  · exact ht

theorem Keeps.noteSkew (s : State) (e : Ev) (hK : Keeps r0 s) : Keeps r0 (s.noteSkew e) := by
  unfold State.noteSkew
  repeat' (first
    | (with_reducible first | assumption | apply Keeps.toF)
    | simp only [Keeps.mk_iff] | dsimp only | split)

theorem Keeps.noteLost (s : State) (lost : Bool) (hK : Keeps r0 s) : Keeps r0 (s.noteLost lost) := by
  unfold State.noteLost
  repeat' (first
    | (with_reducible first | assumption | apply Keeps.toF)
    | simp only [Keeps.mk_iff] | dsimp only | split)

theorem Keeps.raise (s : State) (e : Ev) (hK : Keeps r0 s) : Keeps r0 (s.raise e) := by
  unfold State.raise
  repeat' (first
    | (with_reducible first | assumption | apply Keeps.setClassBit | apply Keeps.noteJob | apply Keeps.offer | apply Keeps.stopJob)
    | (with_reducible first | apply Keeps.moduleHalt | apply Keeps.noteSkew | apply Keeps.noteLost | apply Keeps.toF)
    | simp only [Keeps.mk_iff] | dsimp only | split | intro _)

theorem Keeps.remoteStop (s : State) (q : Nat) (code : BitVec 16) (runid : Word32) (pos idx : Byte) (step : Nat) (hK : Keeps r0 s) :
    Keeps r0 (s.remoteStop q code runid pos idx step) := by
  unfold State.remoteStop
  repeat' (first
    | (with_reducible first | assumption | apply Keeps.logEvent | apply Keeps.stopAll | apply Keeps.raise | apply Keeps.toF)
    | simp only [Keeps.mk_iff] | dsimp only | split)

theorem Keeps.coreFault (s : State) (c beat : Nat) (code : BitVec 16) (pc : BitVec 16) (a0 a1 a2 a3 : Word32) (hK : Keeps r0 s) :
    Keeps r0 (s.coreFault c beat code pc a0 a1 a2 a3) := by
  unfold State.coreFault
  repeat' (first
    | (with_reducible first | assumption | apply Keeps.modCore | apply Keeps.haltCore | apply Keeps.raise | apply Keeps.toF)
    | simp only [Keeps.mk_iff] | dsimp only | split | intro _)

theorem Keeps.pump (s : State) (c b : Nat) (hK : Keeps r0 s) : Keeps r0 (s.pump c b) := hK

theorem Keeps.wmOverflow (s : State) (c beat : Nat) (hK : Keeps r0 s) : Keeps r0 (s.wmOverflow c beat) := by
  unfold State.wmOverflow
  repeat' (first
    | (with_reducible first | assumption | apply Keeps.setCore | apply Keeps.coreFault | apply Keeps.toF)
    | simp only [Keeps.mk_iff] | dsimp only | split | intro _)

theorem Keeps.signalWm (s : State) (c : Nat) (n : Fin 32) (eng : Nat) (pc : BitVec 15) (beat : Nat) (hK : Keeps r0 s) :
    Keeps r0 (s.signalWm c n eng pc beat) := by
  unfold State.signalWm
  repeat' (first
    | (with_reducible first | assumption | apply Keeps.modCore | apply Keeps.wmOverflow | apply Keeps.toF)
    | simp only [Keeps.mk_iff] | dsimp only | split | intro _)

theorem Keeps.signalHdr (s : State) (c : Nat) (h : Hdr) (eng : Nat) (pc : BitVec 15) (beat : Nat) (hK : Keeps r0 s) :
    Keeps r0 (s.signalHdr c h eng pc beat) := by
  unfold State.signalHdr
  repeat' (first
    | (with_reducible first | assumption | apply Keeps.signalWm | apply Keeps.toF)
    | simp only [Keeps.mk_iff] | dsimp only | split | intro _)

theorem Keeps.settleSigs (s : State) (c b : Nat) (hK : Keeps r0 s) : Keeps r0 (s.settleSigs c b) := by
  unfold State.settleSigs
  repeat' (first
    | (with_reducible first | assumption | apply Keeps.modCore | apply Keeps.signalWm | apply Keeps.foldl | apply Keeps.toF)
    | simp only [Keeps.mk_iff] | dsimp only | split | intro _)

theorem Keeps.settle (s : State) (c b : Nat) (hK : Keeps r0 s) : Keeps r0 (s.settle c b) := by
  unfold State.settle
  repeat' (first
    | (with_reducible first | assumption | apply Keeps.modCore | apply Keeps.settleSigs | apply Keeps.toF)
    | simp only [Keeps.mk_iff] | dsimp only | split | intro _)

theorem Keeps.sync (s : State) (c b : Nat) (hK : Keeps r0 s) : Keeps r0 (s.sync c b) := by
  unfold State.sync
  repeat' (first
    | (with_reducible first | assumption | apply Keeps.pump | apply Keeps.settle | apply Keeps.toF)
    | simp only [Keeps.mk_iff] | dsimp only | split)

theorem Keeps.syncIn (s : State) (c b : Nat) (hK : Keeps r0 s) : Keeps r0 (s.syncIn c b) := by
  unfold State.syncIn
  repeat' (first
    | (with_reducible first | assumption | apply Keeps.modCore | apply Keeps.settle | apply Keeps.toF)
    | simp only [Keeps.mk_iff] | dsimp only | split | intro _)

theorem Keeps.toWait (n : Nat) : ∀ (s : State) (c : Nat) (h : Hdr) (b : Nat), Keeps r0 s → Keeps r0 (State.toWait n s c h b).1 := by
  induction n with
  | zero => exact fun _ _ _ _ k => k
  | succ n ih =>
    intro s c h b k
    unfold State.toWait
    dsimp only
    split
    · exact Keeps.sync _ _ _ k
    · split
      · exact Keeps.sync _ _ _ k
      · exact ih _ _ _ _ (Keeps.sync _ _ _ k)

theorem Keeps.issueCc (s : State) (c : Nat) (op : CcOp) (h : Hdr) (regs : List Reg) (f : State → Nat → State)
    (h_f : ∀ t b, Keeps r0 t → Keeps r0 (f t b)) (hK : Keeps r0 s) : Keeps r0 (s.issueCc c op h regs f) := by
  unfold State.issueCc
  dsimp only
  split
  · exact hK
  · have k := Keeps.toWait 4 s c h ((s.core c).issueBeat regs) hK
    split
    · rename_i e; rw [e] at k; exact k
    · rename_i e; rw [e] at k
      split
      · exact k
      · split
        · exact Keeps.settle _ _ _ k
        · exact h_f _ _ (Keeps.modCore _ _ _ (Keeps.settle _ _ _ k))

theorem Keeps.ccResult (s : State) (c : Nat) (op : CcOp) (h : Hdr) (rd : Reg) (srcs : List Reg) (f : Core → Word64) (hK : Keeps r0 s) :
    Keeps r0 (s.ccResult c op h rd srcs f) := by
  unfold State.ccResult
  repeat' (first
    | (with_reducible first | assumption | apply Keeps.modCore | apply Keeps.issueCc | apply Keeps.toF)
    | simp only [Keeps.mk_iff] | dsimp only | split | intro _)

theorem Keeps.ccLate (s : State) (c : Nat) (op : CcOp) (h : Hdr) (rd : Reg) (srcs : List Reg) (lat : Nat) (f : Core → Word64) (hK : Keeps r0 s) :
    Keeps r0 (s.ccLate c op h rd srcs lat f) := by
  unfold State.ccLate
  repeat' (first
    | (with_reducible first | assumption | apply Keeps.modCore | apply Keeps.issueCc | apply Keeps.toF)
    | simp only [Keeps.mk_iff] | dsimp only | split | intro _)

theorem Keeps.ccPlain (s : State) (c : Nat) (op : CcOp) (h : Hdr) (srcs : List Reg) (occ : Nat) (f : Core → Nat → Core) (hK : Keeps r0 s) :
    Keeps r0 (s.ccPlain c op h srcs occ f) := by
  unfold State.ccPlain
  repeat' (first
    | (with_reducible first | assumption | apply Keeps.modCore | apply Keeps.signalHdr | apply Keeps.issueCc | apply Keeps.toF)
    | simp only [Keeps.mk_iff] | dsimp only | split | intro _)

theorem Keeps.issueEng (s : State) (c : Nat) (op : AnyOp) (h : Hdr) (regs : List Reg) (len : Core → Nat) (f : Core → Nat → Core) (hK : Keeps r0 s) :
    Keeps r0 (s.issueEng c op h regs len f) := by
  unfold State.issueEng
  repeat' (first
    | (with_reducible first | assumption | apply Keeps.modCore | apply Keeps.pump | apply Keeps.settle | apply Keeps.sync)
    | (with_reducible first | apply Keeps.toF)
    | simp only [Keeps.mk_iff] | dsimp only | split | intro _)

theorem Keeps.issueMm (s : State) (c : Nat) (h : Hdr) (op : MmOp) (regs : List Reg) (hK : Keeps r0 s) : Keeps r0 (s.issueMm c h op regs) := by
  unfold State.issueMm
  repeat' (first
    | (with_reducible first | assumption | apply Keeps.issueEng | apply Keeps.toF)
    | simp only [Keeps.mk_iff] | dsimp only | split | intro _)

theorem Keeps.issueComp (s : State) (c : Nat) (h : Hdr) (sh : MmShape) (a : MmArgs) (hK : Keeps r0 s) : Keeps r0 (s.issueComp c h sh a) := by
  unfold State.issueComp
  repeat' (first
    | (with_reducible first | assumption | apply Keeps.issueMm | apply Keeps.toF)
    | simp only [Keeps.mk_iff] | dsimp only | split)

theorem Keeps.issueVe (s : State) (c : Nat) (h : Hdr) (op : VeOp) (hK : Keeps r0 s) : Keeps r0 (s.issueVe c h op) := by
  unfold State.issueVe
  repeat' (first
    | (with_reducible first | assumption | apply Keeps.issueEng | apply Keeps.toF)
    | simp only [Keeps.mk_iff] | dsimp only | split | intro _)

theorem Keeps.issueSt (s : State) (c : Nat) (h : Hdr) (op : StOp) (hK : Keeps r0 s) : Keeps r0 (s.issueSt c h op) := by
  unfold State.issueSt
  repeat' (first
    | (with_reducible first | assumption | apply Keeps.issueEng | apply Keeps.toF)
    | simp only [Keeps.mk_iff] | dsimp only | split | intro _)

theorem Keeps.pumpUntil (s : State) (c : Nat) (p : Core → Bool) (hK : Keeps r0 s) : Keeps r0 (s.pumpUntil c p) := hK

theorem Keeps.sendPosition (s : State) (q start : Nat) (seq0 : Byte) (k msgs : Nat) (hK : Keeps r0 s) :
    Keeps r0 (s.sendPosition q start seq0 k msgs).1 := by
  unfold State.sendPosition
  dsimp only
  cases (s.port q).heardBy (departs q start k) <;> cases (s.port q).pick k (departs q start k) msgs <;> exact hK

theorem Keeps.sendPositions (n : Nat) : ∀ (s : State) (q start : Nat) (seq0 : Byte) (k msgs : Nat), Keeps r0 s →
    Keeps r0 (State.sendPositions n s q start seq0 k msgs) := by
  induction n with
  | zero => exact fun _ _ _ _ _ _ h => h
  | succ n ih => exact fun s q start seq0 k msgs h => ih _ _ _ _ _ _ (Keeps.sendPosition s q start seq0 k msgs h)

theorem Keeps.endFrame (s : State) (q start : Nat) (seq0 : Byte) (hK : Keeps r0 s) : Keeps r0 (s.endFrame q start seq0) := by
  unfold State.endFrame
  repeat' (first
    | (with_reducible first | assumption | apply Keeps.modPort | apply Keeps.sendPositions | apply Keeps.toF)
    | simp only [Keeps.mk_iff] | dsimp only | split)

theorem Keeps.portFrame (s : State) (ms q : Nat) (hK : Keeps r0 s) : Keeps r0 (s.portFrame ms q) := by
  unfold State.portFrame
  repeat' (first
    | (with_reducible first | assumption | apply Keeps.modPort | apply Keeps.endFrame | apply Keeps.toF)
    | simp only [Keeps.mk_iff] | dsimp only | split | intro _)

theorem Keeps.feedSend (n : Nat) : ∀ (s : State) (q i : Nat), Keeps r0 s → Keeps r0 (State.feedSend n s q i) := by
  induction n with
  | zero => exact fun _ _ _ h => h
  | succ n ih =>
    intro s q i h
    unfold State.feedSend
    split
    · exact h
    · refine ih _ _ _ ?_
      dsimp only
      simp only [Keeps.mk_iff]
      exact Keeps.toF (Keeps.sendWord _ _ _ _ _ (Keeps.useTurns _ _ _ _ h))

theorem Keeps.feedPort (s : State) (q : Nat) (hK : Keeps r0 s) : Keeps r0 (s.feedPort q) := by
  unfold State.feedPort
  repeat' (first
    | (with_reducible first | assumption | apply Keeps.feedSend | apply Keeps.foldl | apply Keeps.toF)
    | simp only [Keeps.mk_iff] | dsimp only | split | intro _)

theorem Keeps.portFrames (s : State) (ms : Nat) (hK : Keeps r0 s) : Keeps r0 (s.portFrames ms) := by
  unfold State.portFrames
  repeat' (first
    | (with_reducible first | assumption | apply Keeps.portFrame | apply Keeps.feedPort | apply Keeps.foldl | apply Keeps.toF)
    | simp only [Keeps.mk_iff] | dsimp only | split | intro _)

theorem Keeps.ccBranch (s : State) (c : Nat) (op : CcOp) (h : Hdr) (regs : List Reg) (off : BitVec 29) (cond : Core → Bool) (hK : Keeps r0 s) :
    Keeps r0 (s.ccBranch c op h regs off cond) := by
  unfold State.ccBranch
  repeat' (first
    | (with_reducible first | assumption | apply Keeps.modCore | apply Keeps.signalHdr | apply Keeps.issueCc | apply Keeps.toF)
    | simp only [Keeps.mk_iff] | dsimp only | split | intro _)

theorem Keeps.readTurns (s : State) (x : Xact) (hK : Keeps r0 s) : Keeps r0 (s.readTurns x) := by
  unfold State.readTurns
  repeat' (first
    | (with_reducible first | assumption | apply Keeps.useTurns | apply Keeps.noteConf | apply Keeps.toF)
    | simp only [Keeps.mk_iff] | dsimp only | split)

theorem Keeps.startXfer (s : State) (c : Nat) (f : SlotFill) (hK : Keeps r0 s) : Keeps r0 (s.startXfer c f).1 :=
  Keeps.readTurns _ _ hK

theorem Keeps.startXfers (n : Nat) : ∀ (s : State) (c : Nat) (f : SlotFill), Keeps r0 s → Keeps r0 (State.startXfers n s c f).1 := by
  induction n with
  | zero => exact fun _ _ _ h => h
  | succ n ih =>
    intro s c f h
    unfold State.startXfers
    split
    · exact ih _ _ _ (Keeps.startXfer _ _ _ h)
    · exact h

theorem Keeps.endXfer (s : State) (c ch : Nat) (f : SlotFill) (hK : Keeps r0 s) : Keeps r0 (s.endXfer c ch f).1 := by
  unfold State.endXfer
  split
  · exact hK
  · exact hK

theorem Keeps.runFill (n : Nat) : ∀ (s : State) (c ch left : Nat) (f : SlotFill), Keeps r0 s →
    Keeps r0 (State.runFill n s c ch left f).1 := by
  induction n with
  | zero => exact fun _ _ _ _ _ h => h
  | succ n ih =>
    intro s c ch left f h
    unfold State.runFill
    split
    · exact h
    · exact ih _ _ _ _ _ (Keeps.startXfers 1 _ _ _ (Keeps.endXfer _ _ _ _ h))

theorem Keeps.eachFill (f : State → SlotFill → State × SlotFill) (hf : ∀ t x, Keeps r0 t → Keeps r0 (f t x).1) (c ch : Nat)
    (l : List SlotFill) : ∀ s : State, Keeps r0 s → Keeps r0 (s.eachFill c ch f l).1 := by
  induction l with
  | nil => exact fun _ h => h
  | cons x l ih =>
    intro s h
    unfold State.eachFill
    split
    rename_i e
    refine ih _ ?_
    split at e
    · have k := hf s x h; rw [e] at k; exact k
    · cases e; exact h

theorem Keeps.setFills (s : State) (c ch : Nat) (l : List SlotFill) (hK : Keeps r0 s) : Keeps r0 (s.setFills c ch l) := hK

theorem Keeps.writeGranule (s : State) (p : Nat) (d : List Byte) (hK : Keeps r0 s) : Keeps r0 (s.writeGranule p d) := by
  unfold State.writeGranule
  repeat' (first
    | (with_reducible first | assumption | apply Keeps.modSendSlot | apply Keeps.noteConf | apply Keeps.toF | apply Keeps.memF)
    | exact wrBytes_wf _ _ _ | simp only [Keeps.mk_iff] | dsimp only | split | intro _)

theorem Keeps.outTurns (s : State) (w : OutSlot) (hK : Keeps r0 s) : Keeps r0 (s.outTurns w) := by
  unfold State.outTurns
  repeat' (first
    | (with_reducible first | assumption | apply Keeps.useTurns | apply Keeps.foldl | apply Keeps.toF)
    | simp only [Keeps.mk_iff] | dsimp only | split | intro _)

theorem Keeps.streamFault (s : State) (c : Nat) (code : BitVec 16) (ch reason : Nat) (pc : BitVec 15) (beat : Nat) (hK : Keeps r0 s) :
    Keeps r0 (s.streamFault c code ch reason pc beat) := by
  unfold State.streamFault
  repeat' (first
    | (with_reducible first | assumption | apply Keeps.modCore | apply Keeps.coreFault | apply Keeps.toF)
    | simp only [Keeps.mk_iff] | dsimp only | split | intro _)

theorem Keeps.armDone (s : State) (c : Nat) (x : StItem) (ch : Nat) (sh : Bool) (beat : Nat) (hK : Keeps r0 s) : Keeps r0 (s.armDone c x ch sh beat) := by
  unfold State.armDone
  repeat' (first
    | (with_reducible first | assumption | apply Keeps.modCore | apply Keeps.streamFault | apply Keeps.toF)
    | simp only [Keeps.mk_iff] | dsimp only | split | intro _)

theorem Keeps.streamDone (s : State) (c : Nat) (x : StItem) (beat : Nat) (hK : Keeps r0 s) : Keeps r0 (s.streamDone c x beat) := by
  unfold State.streamDone
  repeat' (first
    | (with_reducible first | assumption | apply Keeps.modCore | apply Keeps.streamFault | apply Keeps.armDone | apply Keeps.toF)
    | simp only [Keeps.mk_iff] | dsimp only | split | intro _)

theorem Keeps.complStream (s : State) (c : Nat) (hK : Keeps r0 s) : Keeps r0 (s.complStream c) := by
  unfold State.complStream
  repeat' (first
    | (with_reducible first | assumption | apply Keeps.modCore | apply Keeps.signalHdr | apply Keeps.sync | apply Keeps.pumpUntil)
    | (with_reducible first | apply Keeps.streamDone | apply Keeps.toF)
    | simp only [Keeps.mk_iff] | dsimp only | split | intro _)

theorem Keeps.complLaneRow (s : State) (c : Nat) (hK : Keeps r0 s) : Keeps r0 (s.complLaneRow c) := by
  unfold State.complLaneRow
  repeat' (first
    | (with_reducible first | assumption | apply Keeps.modCore | apply Keeps.signalHdr | apply Keeps.sync | apply Keeps.pumpUntil)
    | (with_reducible first | apply Keeps.toF)
    | simp only [Keeps.mk_iff] | dsimp only | split | intro _)

theorem Keeps.complReadout (s : State) (c : Nat) (hK : Keeps r0 s) : Keeps r0 (s.complReadout c) := by
  unfold State.complReadout
  repeat' (first
    | (with_reducible first | assumption | apply Keeps.modCore | apply Keeps.signalHdr | apply Keeps.sync | apply Keeps.pumpUntil)
    | (with_reducible first | apply Keeps.toF)
    | simp only [Keeps.mk_iff] | dsimp only | split | intro _)

theorem Keeps.complVector (s : State) (c : Nat) (hK : Keeps r0 s) : Keeps r0 (s.complVector c) := by
  unfold State.complVector
  repeat' (first
    | (with_reducible first | assumption | apply Keeps.modCore | apply Keeps.signalHdr | apply Keeps.sync | apply Keeps.pumpUntil)
    | (with_reducible first | apply Keeps.foldl | apply Keeps.toF)
    | simp only [Keeps.mk_iff] | dsimp only | split | intro _)

theorem Keeps.nextGeneration (s : State) (p : Nat) (hK : Keeps r0 s) : Keeps r0 (s.nextGeneration p) := by
  unfold State.nextGeneration
  repeat' (first
    | (with_reducible first | assumption | apply Keeps.modPass | apply Keeps.toF)
    | simp only [Keeps.mk_iff] | dsimp only | split | intro _)

theorem Keeps.completePass (s : State) (p : Nat) (hK : Keeps r0 s) : Keeps r0 (s.completePass p) := by
  unfold State.completePass
  repeat' (first
    | (with_reducible first | assumption | apply Keeps.nextGeneration | apply Keeps.toF)
    | simp only [Keeps.mk_iff] | dsimp only | split)

theorem Keeps.raiseBroken (s : State) (c i : Nat) (pc : BitVec 15) (hK : Keeps r0 s) : Keeps r0 (s.raiseBroken c i pc) := by
  unfold State.raiseBroken
  repeat' (first
    | (with_reducible first | assumption | apply Keeps.raise | apply Keeps.toF)
    | simp only [Keeps.mk_iff] | dsimp only | split)

theorem Keeps.brokenCore (s : State) (c i : Nat) (pc : BitVec 15) (hK : Keeps r0 s) : Keeps r0 (s.brokenCore c i pc) := by
  unfold State.brokenCore
  repeat' (first
    | (with_reducible first | assumption | apply Keeps.modCore | apply Keeps.raiseBroken | apply Keeps.toF)
    | simp only [Keeps.mk_iff] | dsimp only | split)

theorem Keeps.markBroken (s : State) (ps : List Nat) (by_ : Word32) (hK : Keeps r0 s) : Keeps r0 (s.markBroken ps by_) := by
  unfold State.markBroken
  repeat' (first
    | (with_reducible first | assumption | apply Keeps.modPass | apply Keeps.foldl | apply Keeps.toF)
    | simp only [Keeps.mk_iff] | dsimp only | split | intro _)

theorem Keeps.releaseBroken (s : State) (hK : Keeps r0 s) : Keeps r0 (s.releaseBroken) := by
  unfold State.releaseBroken
  repeat' (first
    | (with_reducible first | assumption | apply Keeps.modCore | apply Keeps.raiseBroken | apply Keeps.foldl | apply Keeps.toF)
    | simp only [Keeps.mk_iff] | dsimp only | split | intro _)

theorem Keeps.breakPasses (s : State) (ps : List Nat) (by_ : Word32) (hK : Keeps r0 s) : Keeps r0 (s.breakPasses ps by_) := by
  unfold State.breakPasses
  repeat' (first
    | (with_reducible first | assumption | apply Keeps.markBroken | apply Keeps.releaseBroken | apply Keeps.toF)
    | simp only [Keeps.mk_iff] | dsimp only | split)

theorem Keeps.checkEnded (s : State) (ps : List Nat) (hK : Keeps r0 s) : Keeps r0 (s.checkEnded ps) := by
  unfold State.checkEnded
  repeat' (first
    | (with_reducible first | assumption | apply Keeps.markBroken | apply Keeps.releaseBroken | apply Keeps.foldl | apply Keeps.toF)
    | simp only [Keeps.mk_iff] | dsimp only | split | intro _)

theorem Keeps.passFault (s : State) (c i : Nat) (pc : BitVec 15) (code : BitVec 16) (gen l ring : Bool) (hK : Keeps r0 s) :
    Keeps r0 (s.passFault c i pc code gen l ring) := by
  unfold State.passFault
  repeat' (first
    | (with_reducible first | assumption | apply Keeps.modCore | apply Keeps.modPass | apply Keeps.coreFault | apply Keeps.toF)
    | simp only [Keeps.mk_iff] | dsimp only | split | intro _)

theorem Keeps.brokenBy (s : State) (c i : Nat) (pc : BitVec 15) (hK : Keeps r0 s) : Keeps r0 (s.brokenBy c i pc) := by
  unfold State.brokenBy
  repeat' (first
    | (with_reducible first | assumption | apply Keeps.modCore | apply Keeps.raiseBroken | apply Keeps.foldl | apply Keeps.toF)
    | simp only [Keeps.mk_iff] | dsimp only | split | intro _)

theorem Keeps.arrive (s : State) (c i : Nat) (l ring : Bool) (pc : BitVec 15) (hK : Keeps r0 s) : Keeps r0 (s.arrive c i l ring pc) := by
  unfold State.arrive
  repeat' (first
    | (with_reducible first | assumption | apply Keeps.modCore | apply Keeps.modPass | apply Keeps.completePass | apply Keeps.brokenCore)
    | (with_reducible first | apply Keeps.markBroken | apply Keeps.passFault | apply Keeps.brokenBy | apply Keeps.toF)
    | simp only [Keeps.mk_iff] | dsimp only | split | intro _)

theorem Keeps.advanceLayer (s : State) (c beat : Nat) (hK : Keeps r0 s) : Keeps r0 (s.advanceLayer c beat) := by
  unfold State.advanceLayer
  repeat' (first
    | (with_reducible first | assumption | apply Keeps.modCore | apply Keeps.toF)
    | simp only [Keeps.mk_iff] | dsimp only | split | intro _)

theorem Keeps.endPass (s : State) (c i : Nat) (h : Hdr) (pc : BitVec 15) (beat : Nat) (cross : Bool) (hK : Keeps r0 s) :
    Keeps r0 (s.endPass c i h pc beat cross) := by
  unfold State.endPass
  repeat' (first
    | (with_reducible first | assumption | apply Keeps.modCore | apply Keeps.signalHdr | apply Keeps.advanceLayer | apply Keeps.toF)
    | simp only [Keeps.mk_iff] | dsimp only | split | intro _)

theorem Keeps.passWait (s : State) (c i : Nat) (h : Hdr) (pc : BitVec 15) (beat : Nat) (hK : Keeps r0 s) : Keeps r0 (s.passWait c i h pc beat) := by
  unfold State.passWait
  repeat' (first
    | (with_reducible first | assumption | apply Keeps.modCore | apply Keeps.brokenCore | apply Keeps.endPass | apply Keeps.toF)
    | simp only [Keeps.mk_iff] | dsimp only | split | intro _)

theorem Keeps.afterArrive (s : State) (c i : Nat) (enter : Bool) (h : Hdr) (pc : BitVec 15) (beat : Nat) (hK : Keeps r0 s) :
    Keeps r0 (s.afterArrive c i enter h pc beat) := by
  unfold State.afterArrive
  repeat' (first
    | (with_reducible first | assumption | apply Keeps.sync | apply Keeps.endPass | apply Keeps.passWait | apply Keeps.toF)
    | simp only [Keeps.mk_iff] | dsimp only | split)

theorem Keeps.passEnter (s : State) (c i : Nat) (l ring enter : Bool) (h : Hdr) (beat : Nat) (hK : Keeps r0 s) :
    Keeps r0 (s.passEnter c i l ring enter h beat) := by
  unfold State.passEnter
  repeat' (first
    | (with_reducible first | assumption | apply Keeps.modCore | apply Keeps.arrive | apply Keeps.afterArrive | apply Keeps.toF)
    | simp only [Keeps.mk_iff] | dsimp only | split | intro _)

theorem Keeps.putParcel (s : State) (q : Nat) (b : List Byte) (hK : Keeps r0 s) : Keeps r0 (s.putParcel q b) := by
  unfold State.putParcel
  repeat' (first
    | (with_reducible first | assumption | apply Keeps.modPort | apply Keeps.emit | apply Keeps.toF)
    | simp only [Keeps.mk_iff] | dsimp only | split | intro _)

theorem Keeps.sendParcel (s : State) (q : Nat) (b : List Byte) (hK : Keeps r0 s) : Keeps r0 (s.sendParcel q b) := by
  unfold State.sendParcel
  repeat' (first
    | (with_reducible first | assumption | apply Keeps.putParcel | apply Keeps.toF)
    | simp only [Keeps.mk_iff] | dsimp only | split)

theorem Keeps.land (s : State) (r : PlanRec) (b : List Byte) (hK : Keeps r0 s) : Keeps r0 (s.land r b) := by
  unfold State.land
  repeat' (first
    | (with_reducible first | assumption | apply Keeps.modPart | apply Keeps.foldl | apply Keeps.toF)
    | simp only [Keeps.mk_iff] | dsimp only | split | intro _)

theorem Keeps.noteRing (s : State) (code q : Nat) (rec_ : Word32) (hK : Keeps r0 s) : Keeps r0 (s.noteRing code q rec_) := by
  unfold State.noteRing
  repeat' (first
    | (with_reducible first | assumption | apply Keeps.toF)
    | simp only [Keeps.mk_iff] | dsimp only | split)

theorem Keeps.sendOverrun (s : State) (i : Nat) (r : PlanRec) (src : Nat) (hK : Keeps r0 s) : Keeps r0 (s.sendOverrun i r src) := by
  unfold State.sendOverrun
  repeat' (first
    | (with_reducible first | assumption | apply Keeps.raise | apply Keeps.noteRing | apply Keeps.toF)
    | simp only [Keeps.mk_iff] | dsimp only | split)

theorem Keeps.mismatch (s : State) (rec_ : Option Nat) (q : Nat) (b : List Byte) (hK : Keeps r0 s) : Keeps r0 (s.mismatch rec_ q b) := by
  unfold State.mismatch
  repeat' (first
    | (with_reducible first | assumption | apply Keeps.raise | apply Keeps.noteRing | apply Keeps.toF)
    | simp only [Keeps.mk_iff] | dsimp only | split | intro _)

theorem Keeps.stepTimeoutOf (s : State) (i : Nat) (r : PlanRec) (lost : Bool) (hK : Keeps r0 s) : Keeps r0 (s.stepTimeoutOf i r lost) := by
  unfold State.stepTimeoutOf
  repeat' (first
    | (with_reducible first | assumption | apply Keeps.raise | apply Keeps.noteRing | apply Keeps.toF)
    | simp only [Keeps.mk_iff] | dsimp only | split)

theorem Keeps.stray (s : State) (q tag : Nat) (hK : Keeps r0 s) : Keeps r0 (s.stray q tag) := by
  unfold State.stray
  repeat' (first
    | (with_reducible first | assumption | apply Keeps.modPort | apply Keeps.logEvent | apply Keeps.toF)
    | simp only [Keeps.mk_iff] | dsimp only | split | intro _)

theorem Keeps.modDetour (s : State) (tag : Nat) (f : Detour → Detour) (hK : Keeps r0 s) : Keeps r0 (s.modDetour tag f) := hK

theorem Keeps.detourIn (s : State) (q tag : Nat) (b : List Byte) (hK : Keeps r0 s) : Keeps r0 (s.detourIn q tag b) := by
  unfold State.detourIn
  repeat' (first
    | (with_reducible first | assumption | apply Keeps.modPort | apply Keeps.raise | apply Keeps.modDetour | apply Keeps.toF)
    | simp only [Keeps.mk_iff] | dsimp only | split | intro _)

theorem Keeps.foreignParcel (s : State) (q : Nat) (b : List Byte) (hK : Keeps r0 s) : Keeps r0 (s.foreignParcel q b) := by
  unfold State.foreignParcel
  repeat' (first
    | (with_reducible first | assumption | apply Keeps.stray | apply Keeps.detourIn | apply Keeps.toF)
    | simp only [Keeps.mk_iff] | dsimp only | split)

theorem Keeps.logLink (s : State) (q : Nat) (hK : Keeps r0 s) : Keeps r0 (s.logLink q) := by
  unfold State.logLink
  repeat' (first
    | (with_reducible first | assumption | apply Keeps.setClassBit | apply Keeps.offer | apply Keeps.toF)
    | simp only [Keeps.mk_iff] | dsimp only | split)

theorem Keeps.parcelIn (s : State) (q : Nat) (b : List Byte) (f : State → State) (h_f : ∀ x0, Keeps r0 x0 → Keeps r0 (f x0)) (hK : Keeps r0 s) :
    Keeps r0 (s.parcelIn q b f) := by
  unfold State.parcelIn
  repeat' (first
    | (with_reducible first | assumption | apply Keeps.modPort | apply Keeps.logLink | apply h_f | apply Keeps.toF)
    | simp only [Keeps.mk_iff] | dsimp only | split | intro _)

theorem Keeps.sendPass (s : State) (m : Nat) (hK : Keeps r0 s) : Keeps r0 (s.sendPass m) := by
  unfold State.sendPass
  repeat' (first
    | (with_reducible first | assumption | apply Keeps.sendSlice | apply Keeps.toF)
    | simp only [Keeps.mk_iff] | dsimp only | split)

theorem Keeps.fullRing (s : State) (m : Nat) (hK : Keeps r0 s) : Keeps r0 (s.fullRing m) := by
  unfold State.fullRing
  repeat' (first
    | (with_reducible first | assumption | apply Keeps.modPass | apply Keeps.toF)
    | simp only [Keeps.mk_iff] | dsimp only | split | intro _)

theorem Keeps.repeatWords (s : State) (hK : Keeps r0 s) : Keeps r0 (s.repeatWords) := by
  unfold State.repeatWords
  repeat' (first
    | (with_reducible first | assumption | apply Keeps.sendWord | apply Keeps.sendSlice | apply Keeps.sendPass | apply Keeps.foldl)
    | (with_reducible first | apply Keeps.toF)
    | simp only [Keeps.mk_iff] | dsimp only | split | intro _)

theorem Keeps.queueLost (s : State) (hK : Keeps r0 s) : Keeps r0 (s.queueLost) := by
  unfold State.queueLost
  repeat' (first
    | (with_reducible first | assumption | apply Keeps.logEvent | apply Keeps.toF)
    | simp only [Keeps.mk_iff] | dsimp only | split)

theorem Keeps.countFec (s : State) (hK : Keeps r0 s) : Keeps r0 (s.countFec) := by
  unfold State.countFec
  repeat' (first
    | (with_reducible first | assumption | apply Keeps.modPort | apply Keeps.foldl | apply Keeps.toF)
    | simp only [Keeps.mk_iff] | dsimp only | split | intro _)

theorem Keeps.nextStep (s : State) (hK : Keeps r0 s) : Keeps r0 (s.nextStep) := by
  unfold State.nextStep
  repeat' (first
    | (with_reducible first | assumption | apply Keeps.portFrames | apply Keeps.countFec | apply Keeps.toF)
    | simp only [Keeps.mk_iff] | dsimp only | split)

theorem Keeps.noteSent (s : State) (i : Nat) (hK : Keeps r0 s) : Keeps r0 (s.noteSent i) := hK

theorem Keeps.landLate (s : State) (i : Nat) (r : PlanRec) (b : List Byte) (hK : Keeps r0 s) : Keeps r0 (s.landLate i r b) := by
  unfold State.landLate
  repeat' (first
    | (with_reducible first | assumption | apply Keeps.putParcel | apply Keeps.land | apply Keeps.toF)
    | simp only [Keeps.mk_iff] | dsimp only | split | intro _)

theorem Keeps.timeoutFirst (s : State) (i : Nat) (r : PlanRec) (hK : Keeps r0 s) : Keeps r0 (s.timeoutFirst i r) := by
  unfold State.timeoutFirst
  repeat' (first
    | (with_reducible first | assumption | apply Keeps.stepTimeoutOf | apply Keeps.toF)
    | simp only [Keeps.mk_iff] | dsimp only | split)

theorem Keeps.lateParcel (s : State) (q : Nat) (b : List Byte) (hK : Keeps r0 s) : Keeps r0 (s.lateParcel q b) := by
  unfold State.lateParcel
  repeat' (first
    | (with_reducible first | assumption | apply Keeps.landLate | apply Keeps.timeoutFirst | apply Keeps.toF)
    | simp only [Keeps.mk_iff] | dsimp only | split | intro _)

theorem Keeps.matchParcel (s : State) (q : Nat) (b : List Byte) (hK : Keeps r0 s) : Keeps r0 (s.matchParcel q b) := by
  unfold State.matchParcel
  repeat' (first
    | (with_reducible first | assumption | apply Keeps.land | apply Keeps.mismatch | apply Keeps.landLate | apply Keeps.timeoutFirst)
    | (with_reducible first | apply Keeps.toF)
    | simp only [Keeps.mk_iff] | dsimp only | split | intro _)

theorem Keeps.wordIn (s : State) (q : Nat) (w : List Byte) (type frac : Option Nat) (f : State → State) (h_f : ∀ x0, Keeps r0 x0 → Keeps r0 (f x0)) (hK : Keeps r0 s) :
    Keeps r0 (s.wordIn q w type frac f) := by
  unfold State.wordIn
  repeat' (first
    | (with_reducible first | assumption | apply Keeps.modPort | apply h_f | apply Keeps.toF)
    | simp only [Keeps.mk_iff] | dsimp only | split | intro _)

theorem Keeps.foreignWord (s : State) (q : Nat) (w : List Byte) (hK : Keeps r0 s) : Keeps r0 (s.foreignWord q w) := by
  unfold State.foreignWord
  repeat' (first
    | (with_reducible first | assumption | apply Keeps.sendWord | apply Keeps.stray | apply Keeps.toF)
    | simp only [Keeps.mk_iff] | dsimp only | split)

theorem Keeps.afterSample (s : State) (q : Nat) (hK : Keeps r0 s) : Keeps r0 (s.afterSample q) := by
  unfold State.afterSample
  repeat' (first
    | (with_reducible first | assumption | apply Keeps.modPort | apply Keeps.checkPort | apply Keeps.raise | apply Keeps.toF)
    | simp only [Keeps.mk_iff] | dsimp only | split | intro _)

theorem Keeps.trainedPorts (s : State) (hK : Keeps r0 s) : Keeps r0 (s.trainedPorts) := by
  unfold State.trainedPorts
  repeat' (first
    | (with_reducible first | assumption | apply Keeps.toF)
    | simp only [Keeps.mk_iff] | dsimp only | split)

theorem Keeps.mergePass (s : State) (w : List Byte) (hK : Keeps r0 s) : Keeps r0 (s.mergePass w) := by
  unfold State.mergePass
  repeat' (first
    | (with_reducible first | assumption | apply Keeps.modPass | apply Keeps.completePass | apply Keeps.sendPass | apply Keeps.fullRing)
    | (with_reducible first | apply Keeps.toF)
    | simp only [Keeps.mk_iff] | dsimp only | split | intro _)

theorem Keeps.sendRun (s : State) (body : List Byte) (next : Bool) (hK : Keeps r0 s) : Keeps r0 (s.sendRun body next) := by
  unfold State.sendRun
  repeat' (first
    | (with_reducible first | assumption | apply Keeps.sendSlice | apply Keeps.toF)
    | simp only [Keeps.mk_iff] | dsimp only | split)

theorem Keeps.beginRun (s : State) (j : Job) (hK : Keeps r0 s) : Keeps r0 (s.beginRun j) := by
  unfold State.beginRun
  repeat' (first
    | (with_reducible first | assumption | apply Keeps.complete | apply Keeps.sendRun | apply Keeps.toF)
    | simp only [Keeps.mk_iff] | dsimp only | split | intro _)

theorem Keeps.startWaiting (n : Nat) (s : State) (hK : Keeps r0 s) : Keeps r0 (State.startWaiting n s) := by
  induction n generalizing s with
  | zero => exact hK
  | succ n ih =>
    unfold State.startWaiting
    split
    · split
      · exact ih _ (Keeps.beginRun _ _ hK)
      · exact hK
    · exact hK

theorem Keeps.finishRun (s : State) (status reason cause beats : Nat) (hK : Keeps r0 s) : Keeps r0 (s.finishRun status reason cause beats) := by
  unfold State.finishRun
  repeat' (first
    | (with_reducible first | assumption | apply Keeps.completeAll | apply Keeps.swapImage | apply Keeps.startWaiting | apply Keeps.toF)
    | simp only [Keeps.mk_iff] | dsimp only | split | intro _)

theorem Keeps.endAgreement (s : State) (status reason : Nat) (body : List Byte) (hK : Keeps r0 s) : Keeps r0 (s.endAgreement status reason body) := by
  unfold State.endAgreement
  repeat' (first
    | (with_reducible first | assumption | apply Keeps.modCtx | apply Keeps.unpinRun | apply Keeps.jobEnded | apply Keeps.finishRun)
    | (with_reducible first | apply Keeps.toF)
    | simp only [Keeps.mk_iff] | dsimp only | split | intro _)

theorem Keeps.decline (s : State) (status : Nat) (hK : Keeps r0 s) : Keeps r0 (s.decline status) := by
  unfold State.decline
  repeat' (first
    | (with_reducible first | assumption | apply Keeps.sendRun | apply Keeps.endAgreement | apply Keeps.toF)
    | simp only [Keeps.mk_iff] | dsimp only | split)

theorem Keeps.pinSlot (s : State) (x e : Nat) (hK : Keeps r0 s) : Keeps r0 (s.pinSlot x e) := hK

theorem Keeps.boundCheck (s : State) (hK : Keeps r0 s) : Keeps r0 (s.boundCheck) := by
  unfold State.boundCheck
  repeat' (first
    | (with_reducible first | assumption | apply Keeps.sendRun | apply Keeps.decline | apply Keeps.toF)
    | simp only [Keeps.mk_iff] | dsimp only | split | intro _)

theorem Keeps.bindRun (s : State) (hK : Keeps r0 s) : Keeps r0 (s.bindRun) := by
  unfold State.bindRun
  repeat' (first
    | (with_reducible first | assumption | apply Keeps.notify | apply Keeps.sendRun | apply Keeps.decline | apply Keeps.pinSlot)
    | (with_reducible first | apply Keeps.boundCheck | apply Keeps.toF)
    | simp only [Keeps.mk_iff] | dsimp only | split | intro _)

theorem Keeps.fixRun (s : State) (b : Nat) (hK : Keeps r0 s) : Keeps r0 (s.fixRun b) := by
  unfold State.fixRun
  repeat' (first
    | (with_reducible first | assumption | apply Keeps.decline | apply Keeps.bindRun | apply Keeps.toF)
    | simp only [Keeps.mk_iff] | dsimp only | split)

theorem Keeps.readyCheck (s : State) (hK : Keeps r0 s) : Keeps r0 (s.readyCheck) := by
  unfold State.readyCheck
  repeat' (first
    | (with_reducible first | assumption | apply Keeps.sendRun | apply Keeps.decline | apply Keeps.fixRun | apply Keeps.toF)
    | simp only [Keeps.mk_iff] | dsimp only | split | intro _)

theorem Keeps.programTurns (s : State) (im : Loaded) (c : Nat) (hK : Keeps r0 s) : Keeps r0 (s.programTurns im c) := by
  unfold State.programTurns
  repeat' (first
    | (with_reducible first | assumption | apply Keeps.useTurns | apply Keeps.foldl | apply Keeps.toF)
    | simp only [Keeps.mk_iff] | dsimp only | split | intro _)

theorem Keeps.startRun (s : State) (im : Loaded) (hK : Keeps r0 s) : Keeps r0 (s.startRun im) := by
  unfold State.startRun
  repeat' (first
    | (with_reducible first | assumption | apply Keeps.setCore | apply Keeps.modPart | apply Keeps.settle | apply Keeps.programTurns)
    | (with_reducible first | apply Keeps.foldl | apply Keeps.toF)
    | simp only [Keeps.mk_iff] | dsimp only | split | intro _)

theorem Keeps.completeStopped (s : State) (hK : Keeps r0 s) : Keeps r0 (s.completeStopped) := by
  unfold State.completeStopped
  repeat' (first
    | (with_reducible first | assumption | apply Keeps.finishRun | apply Keeps.toF)
    | simp only [Keeps.mk_iff] | dsimp only | split)

theorem Keeps.runIn (s : State) (q : Nat) (w : List Byte) (op : Nat) (f : List Byte → State → State) (h_f : ∀ x0 x1, Keeps r0 x1 → Keeps r0 (f x0 x1)) (hK : Keeps r0 s) :
    Keeps r0 (s.runIn q w op f) := by
  unfold State.runIn
  repeat' (first
    | (with_reducible first | assumption | apply Keeps.wordIn | apply Keeps.foreignWord | apply h_f | apply Keeps.toF)
    | simp only [Keeps.mk_iff] | dsimp only | split | intro _)

theorem Keeps.takeEntry (s : State) (m : MbxId) (hK : Keeps r0 s) : Keeps r0 (s.takeEntry m) := by
  unfold State.takeEntry
  repeat' (first
    | (with_reducible first | assumption | apply Keeps.modMbox | apply Keeps.toF)
    | simp only [Keeps.mk_iff] | dsimp only | split | intro _)

theorem Keeps.startCmd (s : State) (m : MbxId) (d : Cmd) (mine : List Byte → Bool) (f : State → Job → State) (h_f : ∀ x0 x1, Keeps r0 x0 → Keeps r0 (f x0 x1)) (hK : Keeps r0 s) :
    Keeps r0 (s.startCmd m d mine f) := by
  unfold State.startCmd
  repeat' (first
    | (with_reducible first | assumption | apply Keeps.putCompletion | apply Keeps.takeEntry | apply h_f | apply Keeps.toF)
    | simp only [Keeps.mk_iff] | dsimp only | split)

theorem Keeps.reply (s : State) (j : Job) (status reason : Nat) (data : List Byte) (hK : Keeps r0 s) : Keeps r0 (s.reply j status reason data) := by
  unfold State.reply
  repeat' (first
    | (with_reducible first | assumption | apply Keeps.putCompletion | apply Keeps.toF)
    | simp only [Keeps.mk_iff] | dsimp only | split)

theorem Keeps.pushJob (s : State) (j : Job) (hK : Keeps r0 s) : Keeps r0 (s.pushJob j) := hK

theorem Keeps.setPhase (s : State) (j : Job) (p : JobPhase) (hK : Keeps r0 s) : Keeps r0 (s.setPhase j p) := hK

theorem Keeps.needOpen (s : State) (j : Job) (f : State → State) (h_f : ∀ x0, Keeps r0 x0 → Keeps r0 (f x0)) (hK : Keeps r0 s) :
    Keeps r0 (s.needOpen j f) := by
  unfold State.needOpen
  repeat' (first
    | (with_reducible first | assumption | apply Keeps.reply | apply h_f | apply Keeps.toF)
    | simp only [Keeps.mk_iff] | dsimp only | split)

theorem Keeps.misuse (s : State) (m code off : Nat) (rid : BitVec 16) (hK : Keeps r0 s) : Keeps r0 (s.misuse m code off rid) := by
  unfold State.misuse
  repeat' (first
    | (with_reducible first | assumption | apply Keeps.modMbox | apply Keeps.notify | apply Keeps.logEvent | apply Keeps.toF)
    | simp only [Keeps.mk_iff] | dsimp only | split | intro _)

theorem Keeps.logEdition (s : State) (x e a : Nat) (hK : Keeps r0 s) : Keeps r0 (s.logEdition x e a) := by
  unfold State.logEdition
  repeat' (first
    | (with_reducible first | assumption | apply Keeps.logEvent | apply Keeps.toF)
    | simp only [Keeps.mk_iff] | dsimp only | split)

theorem Keeps.logDropped (s : State) (x a n : Nat) (hK : Keeps r0 s) : Keeps r0 (s.logDropped x a n) := by
  unfold State.logDropped
  repeat' (first
    | (with_reducible first | assumption | apply Keeps.logEdition | apply Keeps.foldl | apply Keeps.toF)
    | simp only [Keeps.mk_iff] | dsimp only | split | intro _)

theorem Keeps.logViolation (s : State) (off : Word32) (rid : BitVec 16) (a2 : Word32) (hK : Keeps r0 s) : Keeps r0 (s.logViolation off rid a2) := by
  unfold State.logViolation
  repeat' (first
    | (with_reducible first | assumption | apply Keeps.logEvent | apply Keeps.toF)
    | simp only [Keeps.mk_iff] | dsimp only | split)

theorem Keeps.unsupported (s : State) (off : Word32) (rid : BitVec 16) (hK : Keeps r0 s) : Keeps r0 (s.unsupported off rid) := by
  unfold State.unsupported
  repeat' (first
    | (with_reducible first | assumption | apply Keeps.emit | apply Keeps.logViolation | apply Keeps.toF)
    | simp only [Keeps.mk_iff] | dsimp only | split)

theorem Keeps.closeCtx (s : State) (x : Nat) (hK : Keeps r0 s) : Keeps r0 (s.closeCtx x) := by
  unfold State.closeCtx
  repeat' (first
    | (with_reducible first | assumption | apply Keeps.modCtx | apply Keeps.modSlot | apply Keeps.releaseSlot | apply Keeps.foldl)
    | (with_reducible first | apply Keeps.toF)
    | simp only [Keeps.mk_iff] | dsimp only | split | intro _)

theorem Keeps.makeLive (s : State) (x e : Nat) (keep at_ : Bool) (hK : Keeps r0 s) : Keeps r0 (s.makeLive x e keep at_) := by
  unfold State.makeLive
  repeat' (first
    | (with_reducible first | assumption | apply Keeps.modSlot | apply Keeps.notify | apply Keeps.retireSlot | apply Keeps.toF)
    | simp only [Keeps.mk_iff] | dsimp only | split | intro _)

theorem Keeps.installImage (s : State) (x : Nat) (im : Loaded) (hK : Keeps r0 s) : Keeps r0 (s.installImage x im) := by
  unfold State.installImage
  repeat' (first
    | (with_reducible first | assumption | apply Keeps.modCtx | apply Keeps.toF)
    | simp only [Keeps.mk_iff] | dsimp only | split | intro _)

theorem Keeps.imageDigest (s : State) (j : Job) (hK : Keeps r0 s) : Keeps r0 (s.imageDigest j) := by
  unfold State.imageDigest
  repeat' (first
    | (with_reducible first | assumption | apply Keeps.useTurns | apply Keeps.complete | apply Keeps.setPhase | apply Keeps.toF)
    | simp only [Keeps.mk_iff] | dsimp only | split)

theorem Keeps.planDigest (s : State) (j : Job) (hK : Keeps r0 s) : Keeps r0 (s.planDigest j) := by
  unfold State.planDigest
  repeat' (first
    | (with_reducible first | assumption | apply Keeps.useTurns | apply Keeps.complete | apply Keeps.installImage | apply Keeps.toF)
    | simp only [Keeps.mk_iff] | dsimp only | split)

theorem Keeps.loadFails (s : State) (j : Job) (r : Nat) (hK : Keeps r0 s) : Keeps r0 (s.loadFails j r) := by
  unfold State.loadFails
  repeat' (first
    | (with_reducible first | assumption | apply Keeps.modSlot | apply Keeps.complete | apply Keeps.toF)
    | simp only [Keeps.mk_iff] | dsimp only | split | intro _)

theorem Keeps.loadPasses (s : State) (j : Job) (hK : Keeps r0 s) : Keeps r0 (s.loadPasses j) := by
  unfold State.loadPasses
  repeat' (first
    | (with_reducible first | assumption | apply Keeps.modSlot | apply Keeps.complete | apply Keeps.toF)
    | simp only [Keeps.mk_iff] | dsimp only | split | intro _)

theorem Keeps.shardsDone (s : State) (j : Job) (bad good : List Nat) (reason : Byte) (repair : Bool) (hK : Keeps r0 s) :
    Keeps r0 (s.shardsDone j bad good reason repair) := by
  unfold State.shardsDone
  repeat' (first
    | (with_reducible first | assumption | apply Keeps.modSlot | apply Keeps.complete | apply Keeps.loadPasses | apply Keeps.toF)
    | simp only [Keeps.mk_iff] | dsimp only | split | intro _)

theorem Keeps.shardStep (s : State) (j : Job) (todo bad good : List Nat) (reason : Byte) (repair : Bool) (hK : Keeps r0 s) :
    Keeps r0 (s.shardStep j todo bad good reason repair) := by
  unfold State.shardStep
  repeat' (first
    | (with_reducible first | assumption | apply Keeps.setPhase | apply Keeps.shardsDone | apply Keeps.toF)
    | simp only [Keeps.mk_iff] | dsimp only | split | intro _)

theorem Keeps.manifestDone (s : State) (j : Job) (hK : Keeps r0 s) : Keeps r0 (s.manifestDone j) := by
  unfold State.manifestDone
  repeat' (first
    | (with_reducible first | assumption | apply Keeps.modSlot | apply Keeps.useTurns | apply Keeps.loadFails | apply Keeps.shardStep)
    | (with_reducible first | apply Keeps.toF)
    | simp only [Keeps.mk_iff] | dsimp only | split | intro _)

theorem Keeps.readShard (s : State) (x e i : Nat) (hK : Keeps r0 s) : Keeps r0 (s.readShard x e i) := by
  unfold State.readShard
  repeat' (first
    | (with_reducible first | assumption | apply Keeps.useTurns | apply Keeps.toF)
    | simp only [Keeps.mk_iff] | dsimp only | split | intro _)

theorem Keeps.shardDone (s : State) (j : Job) (todo bad good : List Nat) (reason : Byte) (repair : Bool) (hK : Keeps r0 s) :
    Keeps r0 (s.shardDone j todo bad good reason repair) := by
  unfold State.shardDone
  repeat' (first
    | (with_reducible first | assumption | apply Keeps.shardsDone | apply Keeps.shardStep | apply Keeps.readShard | apply Keeps.toF)
    | simp only [Keeps.mk_iff] | dsimp only | split | intro _)

theorem Keeps.beginLoad (s : State) (j : Job) (repair : Bool) (hK : Keeps r0 s) : Keeps r0 (s.beginLoad j repair) := by
  unfold State.beginLoad
  repeat' (first
    | (with_reducible first | assumption | apply Keeps.setPhase | apply Keeps.loadFails | apply Keeps.toF)
    | simp only [Keeps.mk_iff] | dsimp only | split)

theorem Keeps.askPeer (s : State) (j : Job) (n : Byte) (ed : Word32) (hK : Keeps r0 s) : Keeps r0 (s.askPeer j n ed) := by
  unfold State.askPeer
  repeat' (first
    | (with_reducible first | assumption | apply Keeps.sendWord | apply Keeps.toF)
    | simp only [Keeps.mk_iff] | dsimp only | split | intro _)

theorem Keeps.doorbell (s : State) (m : MbxId) (w : RegWrite) (hK : Keeps r0 s) : Keeps r0 (s.doorbell m w) := by
  unfold State.doorbell
  repeat' (first
    | (with_reducible first | assumption | apply Keeps.modMbox | apply Keeps.misuse | apply Keeps.toF)
    | simp only [Keeps.mk_iff] | dsimp only | split | intro _)

theorem Keeps.writeRhead (s : State) (m : MbxId) (w : RegWrite) (hK : Keeps r0 s) : Keeps r0 (s.writeRhead m w) := by
  unfold State.writeRhead
  repeat' (first
    | (with_reducible first | assumption | apply Keeps.modMbox | apply Keeps.misuse | apply Keeps.toF)
    | simp only [Keeps.mk_iff] | dsimp only | split | intro _)

theorem Keeps.writeNhead (s : State) (m : MbxId) (w : RegWrite) (hK : Keeps r0 s) : Keeps r0 (s.writeNhead m w) := by
  unfold State.writeNhead
  repeat' (first
    | (with_reducible first | assumption | apply Keeps.modMbox | apply Keeps.misuse | apply Keeps.toF)
    | simp only [Keeps.mk_iff] | dsimp only | split | intro _)

theorem Keeps.mailboxReg (s : State) (m : MbxId) (off : Nat) (w : RegWrite) (hK : Keeps r0 s) : Keeps r0 (s.mailboxReg m off w) := by
  unfold State.mailboxReg
  repeat' (first
    | (with_reducible first | assumption | apply Keeps.misuse | apply Keeps.doorbell | apply Keeps.writeRhead | apply Keeps.writeNhead)
    | (with_reducible first | apply Keeps.toF)
    | simp only [Keeps.mk_iff] | dsimp only | split | intro _)

theorem Keeps.needSlot (s : State) (j : Job) (f : State → State) (h_f : ∀ x0, Keeps r0 x0 → Keeps r0 (f x0)) (hK : Keeps r0 s) :
    Keeps r0 (s.needSlot j f) := by
  unfold State.needSlot
  repeat' (first
    | (with_reducible first | assumption | apply Keeps.reply | apply Keeps.needOpen | apply h_f | apply Keeps.toF)
    | simp only [Keeps.mk_iff] | dsimp only | split | intro _)

theorem Keeps.nextDma (s : State) (hK : Keeps r0 s) : Keeps r0 (s.nextDma) := by
  unfold State.nextDma
  repeat' (first
    | (with_reducible first | assumption | apply Keeps.setPhase | apply Keeps.toF)
    | simp only [Keeps.mk_iff] | dsimp only | split | intro _)

theorem Keeps.abortQueued (n : Nat) (t : MbxId) (s : State) (hK : Keeps r0 s) : Keeps r0 (State.abortQueued n t s) := by
  induction n generalizing s with
  | zero => exact hK
  | succ n ih =>
    unfold State.abortQueued
    dsimp only
    split
    · exact hK
    · exact ih _ (Keeps.putCompletion _ _ _ _ _ (Keeps.modMbox _ _ _ hK))

theorem Keeps.damage (s : State) (x e i : Nat) (hK : Keeps r0 s) : Keeps r0 (s.damage x e i) := by
  unfold State.damage
  repeat' (first
    | (with_reducible first | assumption | apply Keeps.raise | apply Keeps.toF)
    | simp only [Keeps.mk_iff] | dsimp only | split)

theorem Keeps.markDamage (s : State) (x e : Nat) (i : Option Nat) (ed : Word32) (hK : Keeps r0 s) : Keeps r0 (s.markDamage x e i ed) := by
  unfold State.markDamage
  repeat' (first
    | (with_reducible first | assumption | apply Keeps.modSlot | apply Keeps.notify | apply Keeps.toF)
    | simp only [Keeps.mk_iff] | dsimp only | split | intro _)

theorem Keeps.readItem (s : State) (x e i : Nat) (hK : Keeps r0 s) : Keeps r0 (s.readItem x e i) := by
  unfold State.readItem
  repeat' (first
    | (with_reducible first | assumption | apply Keeps.useTurns | apply Keeps.readShard | apply Keeps.toF)
    | simp only [Keeps.mk_iff] | dsimp only | split | intro _)

theorem Keeps.dropToken (s : State) (hK : Keeps r0 s) : Keeps r0 (s.dropToken) := hK

theorem Keeps.routeMsg (s : State) (pl : CPlan) (pos idx : Nat) (body : List Byte) (hK : Keeps r0 s) : Keeps r0 (s.routeMsg pl pos idx body) := by
  unfold State.routeMsg
  repeat' (first
    | (with_reducible first | assumption | apply Keeps.sendWord | apply Keeps.toF)
    | simp only [Keeps.mk_iff] | dsimp only | split | intro _)

theorem Keeps.putFragment (s : State) (j : Job) (repair : Bool) (f : Nat × List Byte) (hK : Keeps r0 s) :
    Keeps r0 (s.putFragment j repair f) := by
  unfold State.putFragment
  refine Keeps.useTurns _ _ _ _ ?_
  simp only [Keeps.mk_iff]
  refine Keeps.memF hK (foldl_wf _ (fun m i h => ?_) _ _)
  split
  · exact wrByte_wf _ _ _ h
  · exact h

theorem Keeps.takeFragment (s : State) (j : Job) (stream : Byte) (repair : Bool) (b : List Byte) (hK : Keeps r0 s) :
    Keeps r0 (s.takeFragment j stream repair b) := by
  unfold State.takeFragment
  repeat' (first
    | (with_reducible first | assumption | apply Keeps.complete | apply Keeps.beginLoad | apply Keeps.routeMsg | apply Keeps.putFragment)
    | (with_reducible first | apply Keeps.foldl | apply Keeps.toF)
    | simp only [Keeps.mk_iff] | dsimp only | split | intro _)

theorem Keeps.servePeer (s : State) (stream : Byte) (d : List Byte) (hK : Keeps r0 s) : Keeps r0 (s.servePeer stream d) := by
  unfold State.servePeer
  repeat' (first
    | (with_reducible first | assumption | apply Keeps.toF)
    | simp only [Keeps.mk_iff] | dsimp only | split | intro _)

theorem Keeps.takeAck (s : State) (stream : Byte) (b : List Byte) (hK : Keeps r0 s) : Keeps r0 (s.takeAck stream b) := by
  unfold State.takeAck
  repeat' (first
    | (with_reducible first | assumption | apply Keeps.toF)
    | simp only [Keeps.mk_iff] | dsimp only | split | intro _)

theorem Keeps.bumpGens (s : State) (l : List Nat) (hK : Keeps r0 s) : Keeps r0 (s.bumpGens l) := by
  unfold State.bumpGens
  repeat' (first
    | (with_reducible first | assumption | apply Keeps.foldl | apply Keeps.toF)
    | simp only [Keeps.mk_iff] | dsimp only | split | intro _)

theorem Keeps.breakOf (s : State) (c : Nat) (hK : Keeps r0 s) : Keeps r0 (s.breakOf c) := by
  unfold State.breakOf
  repeat' (first
    | (with_reducible first | assumption | apply Keeps.breakPasses | apply Keeps.toF)
    | simp only [Keeps.mk_iff] | dsimp only | split)

theorem Keeps.resetPos (s : State) (n : Nat) (hK : Keeps r0 s) : Keeps r0 (s.resetPos n) := by
  unfold State.resetPos
  repeat' (first
    | (with_reducible first | assumption | apply Keeps.modCore | apply Keeps.breakOf | apply Keeps.toF)
    | simp only [Keeps.mk_iff] | dsimp only | split | intro _)

theorem Keeps.resetPartition (s : State) (p : Nat) (hK : Keeps r0 s) : Keeps r0 (s.resetPartition p) := by
  unfold State.resetPartition
  repeat' (first
    | (with_reducible first | assumption | apply Keeps.modPart | apply Keeps.modPass | apply Keeps.toF)
    | simp only [Keeps.mk_iff] | dsimp only | split | intro _)

theorem Keeps.beginReset (s : State) (u : RstUnit) (hK : Keeps r0 s) : Keeps r0 (s.beginReset u) := by
  unfold State.beginReset
  repeat' (first
    | (with_reducible first | assumption | apply Keeps.bumpGens | apply Keeps.resetPos | apply Keeps.resetPartition | apply Keeps.foldl)
    | (with_reducible first | apply Keeps.toF)
    | simp only [Keeps.mk_iff] | dsimp only | split | intro _)

theorem Keeps.startResets (s : State) (hK : Keeps r0 s) : Keeps r0 (s.startResets) := by
  unfold State.startResets
  repeat' (first
    | (with_reducible first | assumption | apply Keeps.beginReset | apply Keeps.foldl | apply Keeps.toF)
    | simp only [Keeps.mk_iff] | dsimp only | split | intro _)

theorem Keeps.commandReset (s : State) (j : Job) (u : RstUnit) (hK : Keeps r0 s) : Keeps r0 (s.commandReset j u) := by
  unfold State.commandReset
  repeat' (first
    | (with_reducible first | assumption | apply Keeps.reply | apply Keeps.pushJob | apply Keeps.startResets | apply Keeps.toF)
    | simp only [Keeps.mk_iff] | dsimp only | split)

theorem Keeps.sendMctp (s : State) (b : List Byte) (hK : Keeps r0 s) : Keeps r0 (s.sendMctp b) := by
  unfold State.sendMctp
  repeat' (first
    | (with_reducible first | assumption | apply Keeps.emit | apply Keeps.toF)
    | simp only [Keeps.mk_iff] | dsimp only | split)

theorem Keeps.smcEvent (s : State) (r : EvRec) (hK : Keeps r0 s) : Keeps r0 (s.smcEvent r) := by
  unfold State.smcEvent
  repeat' (first
    | (with_reducible first | assumption | apply Keeps.toF)
    | simp only [Keeps.mk_iff] | dsimp only | split)

theorem Keeps.smcAck (s : State) (tag : Word32) (status reason : Byte) (hK : Keeps r0 s) : Keeps r0 (s.smcAck tag status reason) := hK

theorem Keeps.needPos (s : State) (j : Job) (f : Fin 16 → Fin 16 → Fin 9 → State) (h_f : ∀ x0 x1 x2, Keeps r0 (f x0 x1 x2)) (hK : Keeps r0 s) :
    Keeps r0 (s.needPos j f) := by
  unfold State.needPos
  repeat' (first
    | (with_reducible first | assumption | apply Keeps.reply | apply h_f | apply Keeps.toF)
    | simp only [Keeps.mk_iff] | dsimp only | split)

theorem Keeps.rawTurns (s : State) (a n : Nat) (hK : Keeps r0 s) : Keeps r0 (s.rawTurns a n) := by
  unfold State.rawTurns
  repeat' (first
    | (with_reducible first | assumption | apply Keeps.useTurns | apply Keeps.toF)
    | simp only [Keeps.mk_iff] | dsimp only | split)

theorem Keeps.rawWrite (s : State) (a : Nat) (d : List Byte) (hK : Keeps r0 s) : Keeps r0 (s.rawWrite a d) := by
  unfold State.rawWrite
  repeat' (first
    | (with_reducible first | assumption | apply Keeps.modCore | apply Keeps.toF | apply Keeps.memF)
    | exact wrBytes_wf _ _ _ | simp only [Keeps.mk_iff] | dsimp only | split | intro _)

theorem Keeps.rawArm (s : State) (c ch : Nat) (b : List Byte) (hK : Keeps r0 s) : Keeps r0 (s.rawArm c ch b) := by
  unfold State.rawArm
  repeat' (first
    | (with_reducible first | assumption | apply Keeps.modCore | apply Keeps.coreFault | apply Keeps.toF)
    | simp only [Keeps.mk_iff] | dsimp only | split | intro _)

theorem Keeps.waitPress (s : State) (j : Job) (hK : Keeps r0 s) : Keeps r0 (s.waitPress j) := hK

theorem Keeps.commitSpares (s : State) (j : Job) (hK : Keeps r0 s) : Keeps r0 (s.commitSpares j) := by
  unfold State.commitSpares
  repeat' (first
    | (with_reducible first | assumption | apply Keeps.modLctl | apply Keeps.complete | apply Keeps.foldl | apply Keeps.toF)
    | simp only [Keeps.mk_iff] | dsimp only | split | intro _)

theorem Keeps.regenPhase (s : State) (j : Job) (n : Nat) (seeds : List Byte) (hK : Keeps r0 s) : Keeps r0 (s.regenPhase j n seeds) := by
  unfold State.regenPhase
  repeat' (first
    | (with_reducible first | assumption | apply Keeps.toF)
    | simp only [Keeps.mk_iff] | dsimp only | split | intro _)

theorem Keeps.regenIdentity (s : State) (j : Job) (hK : Keeps r0 s) : Keeps r0 (s.regenIdentity j) := by
  unfold State.regenIdentity
  repeat' (first
    | (with_reducible first | assumption | apply Keeps.complete | apply Keeps.regenPhase | apply Keeps.toF)
    | simp only [Keeps.mk_iff] | dsimp only | split | intro _)

theorem Keeps.regenDraw (s : State) (j : Job) (hK : Keeps r0 s) : Keeps r0 (s.regenDraw j) := by
  unfold State.regenDraw
  repeat' (first
    | (with_reducible first | assumption | apply Keeps.regenPhase | apply Keeps.toF)
    | simp only [Keeps.mk_iff] | dsimp only | split)

theorem Keeps.regenPending (s : State) (j : Job) (seeds : List Byte) (hK : Keeps r0 s) : Keeps r0 (s.regenPending j seeds) := by
  unfold State.regenPending
  repeat' (first
    | (with_reducible first | assumption | apply Keeps.reserve | apply Keeps.regenPhase | apply Keeps.toF)
    | simp only [Keeps.mk_iff] | dsimp only | split)

theorem Keeps.regenBurn (s : State) (j : Job) (seeds : List Byte) (hK : Keeps r0 s) : Keeps r0 (s.regenBurn j seeds) := by
  unfold State.regenBurn
  repeat' (first
    | (with_reducible first | assumption | apply Keeps.regenPhase | apply Keeps.toF)
    | simp only [Keeps.mk_iff] | dsimp only | split)

theorem Keeps.regenDone (s : State) (j : Job) (seeds : List Byte) (hK : Keeps r0 s) : Keeps r0 (s.regenDone j seeds) := by
  unfold State.regenDone
  repeat' (first
    | (with_reducible first | assumption | apply Keeps.complete | apply Keeps.toF)
    | simp only [Keeps.mk_iff] | dsimp only | split)

theorem Keeps.regenStep (s : State) (j : Job) (n : Nat) (seeds : List Byte) (hK : Keeps r0 s) : Keeps r0 (s.regenStep j n seeds) := by
  unfold State.regenStep
  repeat' (first
    | (with_reducible first | assumption | apply Keeps.regenDraw | apply Keeps.regenPending | apply Keeps.regenBurn | apply Keeps.regenDone)
    | (with_reducible first | apply Keeps.toF)
    | simp only [Keeps.mk_iff] | dsimp only | split | intro _)

theorem Keeps.unlock (s : State) (j : Job) (hK : Keeps r0 s) : Keeps r0 (s.unlock j) := by
  unfold State.unlock
  repeat' (first
    | (with_reducible first | assumption | apply Keeps.complete | apply Keeps.toF)
    | simp only [Keeps.mk_iff] | dsimp only | split)

theorem Keeps.servePress (s : State) (j : Job) (hK : Keeps r0 s) : Keeps r0 (s.servePress j) := by
  unfold State.servePress
  repeat' (first
    | (with_reducible first | assumption | apply Keeps.complete | apply Keeps.commitSpares | apply Keeps.regenIdentity | apply Keeps.unlock)
    | (with_reducible first | apply Keeps.toF)
    | simp only [Keeps.mk_iff] | dsimp only | split)

theorem Keeps.openSeal (s : State) (hK : Keeps r0 s) : Keeps r0 (s.openSeal) := by
  unfold State.openSeal
  repeat' (first
    | (with_reducible first | assumption | apply Keeps.toF)
    | simp only [Keeps.mk_iff] | dsimp only | split)

theorem Keeps.sampleInputs (s : State) (expert sealed : Bool) (hK : Keeps r0 s) : Keeps r0 (s.sampleInputs expert sealed) := by
  unfold State.sampleInputs
  repeat' (first
    | (with_reducible first | assumption | apply Keeps.openSeal | apply Keeps.toF)
    | simp only [Keeps.mk_iff] | dsimp only | split)

theorem Keeps.stopForReset (s : State) (hK : Keeps r0 s) : Keeps r0 (s.stopForReset) := by
  have step : ∀ (n t : Nat) (b : List Byte) (x : State), Keeps r0 x → Keeps r0 (stopSteps n t b x) := by
    intro n
    induction n with
    | zero => exact fun _ _ _ h => h
    | succ n ih => exact fun _ _ _ h => ih _ _ _ (Keeps.nextStep _ (Keeps.sendSlice _ _ _ _ h))
  unfold State.stopForReset
  split <;> exact step _ _ _ _ hK

theorem Keeps.keepSticky (s : State) (c : ConfigSpace) (hK : Keeps r0 s) : Keeps r0 (s.keepSticky c) := hK

theorem Keeps.trainHost (s : State) (hK : Keeps r0 s) : Keeps r0 (s.trainHost) := by
  unfold State.trainHost
  repeat' (first
    | (with_reducible first | assumption | apply Keeps.toF)
    | simp only [Keeps.mk_iff] | dsimp only | split)

theorem Keeps.fwFailed (s : State) (code : Byte) (hK : Keeps r0 s) : Keeps r0 (s.fwFailed code) := hK

theorem Keeps.fwCtrl (s : State) (v : Word32) (hK : Keeps r0 s) : Keeps r0 (s.fwCtrl v) := by
  unfold State.fwCtrl
  repeat' (first
    | (with_reducible first | assumption | apply Keeps.toF)
    | simp only [Keeps.mk_iff] | dsimp only | split)

theorem Keeps.goCold (s : State) (hK : Keeps r0 s) : Keeps r0 (s.goCold) := by
  unfold State.goCold
  repeat' (first
    | (with_reducible first | assumption | apply Keeps.toF)
    | simp only [Keeps.mk_iff] | dsimp only | split)

theorem Keeps.fwStart (s : State) (b : List Byte) (hK : Keeps r0 s) : Keeps r0 (s.fwStart b) := hK

theorem Keeps.fwVerdict (s : State) (b : List Byte) (hK : Keeps r0 s) : Keeps r0 (s.fwVerdict b) := by
  unfold State.fwVerdict
  repeat' (first
    | (with_reducible first | assumption | apply Keeps.fwFailed | apply Keeps.fwStart | apply Keeps.toF)
    | simp only [Keeps.mk_iff] | dsimp only | split)

theorem Keeps.applyExcl (s : State) (excl : List Nat) (t : TestResults) (lpdFailed : List Nat) (hK : Keeps r0 s) :
    Keeps r0 (s.applyExcl excl t lpdFailed) := by
  unfold State.applyExcl
  repeat' (first
    | (with_reducible first | assumption | apply Keeps.toF)
    | simp only [Keeps.mk_iff] | dsimp only | split)

theorem Keeps.logExclusion (s : State) (unit : Word32) (hK : Keeps r0 s) : Keeps r0 (s.logExclusion unit) := by
  unfold State.logExclusion
  repeat' (first
    | (with_reducible first | assumption | apply Keeps.raise | apply Keeps.toF)
    | simp only [Keeps.mk_iff] | dsimp only | split)

theorem Keeps.logNew (s : State) (m : NewMarks) (hK : Keeps r0 s) : Keeps r0 (s.logNew m) := by
  unfold State.logNew
  repeat' (first
    | (with_reducible first | assumption | apply Keeps.logExclusion | apply Keeps.foldl | apply Keeps.toF)
    | simp only [Keeps.mk_iff] | dsimp only | split | intro _)

theorem Keeps.raiseSpare (s : State) (unit : Word32) (addr : Option Nat) (hK : Keeps r0 s) : Keeps r0 (s.raiseSpare unit addr) := by
  unfold State.raiseSpare
  repeat' (first
    | (with_reducible first | assumption | apply Keeps.raise | apply Keeps.toF)
    | simp only [Keeps.mk_iff] | dsimp only | split | intro _)

theorem Keeps.raiseLost (s : State) (had : BitVec 16) (hK : Keeps r0 s) : Keeps r0 (s.raiseLost had) := by
  unfold State.raiseLost
  repeat' (first
    | (with_reducible first | assumption | apply Keeps.raiseSpare | apply Keeps.foldl | apply Keeps.toF)
    | simp only [Keeps.mk_iff] | dsimp only | split | intro _)

theorem Keeps.raiseBanks (s : State) (had : List Nat) (hK : Keeps r0 s) : Keeps r0 (s.raiseBanks had) := by
  unfold State.raiseBanks
  repeat' (first
    | (with_reducible first | assumption | apply Keeps.raiseSpare | apply Keeps.foldl | apply Keeps.toF)
    | simp only [Keeps.mk_iff] | dsimp only | split | intro _)

theorem Keeps.raiseRows (s : State) (t : TestResults) (hK : Keeps r0 s) : Keeps r0 (s.raiseRows t) := by
  unfold State.raiseRows
  repeat' (first
    | (with_reducible first | assumption | apply Keeps.raiseSpare | apply Keeps.foldl | apply Keeps.toF)
    | simp only [Keeps.mk_iff] | dsimp only | split | intro _)

theorem Keeps.resolve (s : State) (t : TestResults) (had : BitVec 16) (hadBanks : List Nat) (hK : Keeps r0 s) : Keeps r0 (s.resolve t had hadBanks) := by
  unfold State.resolve
  repeat' (first
    | (with_reducible first | assumption | apply Keeps.applyExcl | apply Keeps.logNew | apply Keeps.raiseLost | apply Keeps.raiseBanks)
    | (with_reducible first | apply Keeps.toF)
    | simp only [Keeps.mk_iff] | dsimp only | split)

theorem Keeps.setRepairs (s : State) (hK : Keeps r0 s) : Keeps r0 (s.setRepairs) := by
  unfold State.setRepairs
  repeat' (first
    | (with_reducible first | assumption | apply Keeps.modCore | apply Keeps.modPart | apply Keeps.foldl | apply Keeps.toF)
    | simp only [Keeps.mk_iff] | dsimp only | split | intro _)

theorem Keeps.readTref (s : State) (hK : Keeps r0 s) : Keeps r0 (s.readTref) := by
  unfold State.readTref
  repeat' (first
    | (with_reducible first | assumption | apply Keeps.modLctl | apply Keeps.foldl | apply Keeps.toF)
    | simp only [Keeps.mk_iff] | dsimp only | split | intro _)

theorem Keeps.setLpddr (s : State) (lpdFailed : List Nat) (hK : Keeps r0 s) : Keeps r0 (s.setLpddr lpdFailed) := by
  unfold State.setLpddr
  repeat' (first
    | (with_reducible first | assumption | apply Keeps.modLctl | apply Keeps.readTref | apply Keeps.foldl | apply Keeps.toF)
    | simp only [Keeps.mk_iff] | dsimp only | split | intro _)

theorem Keeps.setLanes (s : State) (hK : Keeps r0 s) : Keeps r0 (s.setLanes) := by
  unfold State.setLanes
  repeat' (first
    | (with_reducible first | assumption | apply Keeps.modPort | apply Keeps.foldl | apply Keeps.toF)
    | simp only [Keeps.mk_iff] | dsimp only | split | intro _)

theorem Keeps.openIdentity (s : State) (hK : Keeps r0 s) : Keeps r0 (s.openIdentity) := by
  unfold State.openIdentity
  repeat' (first
    | (with_reducible first | assumption | apply Keeps.toF)
    | simp only [Keeps.mk_iff] | dsimp only | split | intro _)

theorem Keeps.setWear (s : State) (hK : Keeps r0 s) : Keeps r0 (s.setWear) := by
  unfold State.setWear
  repeat' (first
    | (with_reducible first | assumption | apply Keeps.toF)
    | simp only [Keeps.mk_iff] | dsimp only | split | intro _)

theorem Keeps.started {s : State} (hr : r0.boot.ready = false) (q w : Bool) (ph : BitVec 4) (el : BitVec 16) (x : Option TestResults)
    (h : Keeps r0 s) : Keeps r0 { s with boot := { s.boot with
      ready := true, strict := q, phase := ph, elapsed := el, wearCrit := w, results := x } } := by
  simp only [Keeps.mk_iff]
  exact Keeps.startF hr h

theorem Keeps.finishStart (s : State) (t : TestResults) (l : List Nat) (e : BitVec 16) (hr : r0.boot.ready = false)
    (hK : Keeps r0 s) : Keeps r0 (s.finishStart t l e) := by
  unfold State.finishStart
  exact Keeps.started hr _ _ _ _ _ (Keeps.setWear _ (Keeps.openIdentity _ (Keeps.setLanes _ (Keeps.setLpddr _ l (Keeps.setRepairs _ hK)))))

theorem Keeps.finishCold (s : State) (t : TestResults) (hr : r0.boot.ready = false) (hK : Keeps r0 s) : Keeps r0 (s.finishCold t) := by
  unfold State.finishCold
  dsimp only
  apply Keeps.finishStart _ _ _ _ hr
  simp only [Keeps.mk_iff]
  exact hK

theorem Keeps.holdTests (s : State) (t : TestResults) (hK : Keeps r0 s) : Keeps r0 (s.holdTests t) :=
  ⟨hK.pending, fun _ => ⟨List.Pairwise.nil, fun _ h => (List.not_mem_nil h).elim⟩, hK.strict, hK.halt⟩

theorem Keeps.wearOf (s : State) (n m : Nat) (hK : Keeps r0 s) : Keeps r0 (s.wearOf n m) := by
  unfold State.wearOf
  repeat' (first
    | (with_reducible first | assumption | apply Keeps.raise | apply Keeps.toF)
    | simp only [Keeps.mk_iff] | dsimp only | split | intro _)

theorem Keeps.beginHandling (s : State) (r : EvRec) (hK : Keeps r0 s) : Keeps r0 (s.beginHandling r) := hK

theorem Keeps.tokenStep (s : State) (r : EvRec) (hK : Keeps r0 s) : Keeps r0 (s.tokenStep r) := by
  unfold State.tokenStep
  repeat' (first
    | (with_reducible first | assumption | apply Keeps.dropToken | apply Keeps.toF)
    | simp only [Keeps.mk_iff] | dsimp only | split)

theorem Keeps.condAct (s : State) (a : CondAct) (hK : Keeps r0 s) : Keeps r0 (s.condAct a) := by
  cases a with
  | damage x e i ed => exact Keeps.markDamage _ _ _ _ _ hK
  | wear n =>
    simp only [State.condAct]
    split
    · exact hK
    · exact hK

theorem Keeps.condStep (s : State) (r : EvRec) (hK : Keeps r0 s) : Keeps r0 (s.condStep r) := by
  unfold State.condStep
  repeat' (first
    | (with_reducible first | assumption | apply Keeps.condAct | apply Keeps.foldl | apply Keeps.toF)
    | simp only [Keeps.mk_iff] | dsimp only | split | intro _)

theorem Keeps.redigestStep (s : State) (r : EvRec) (bound : List (Nat × Nat)) (hK : Keeps r0 s) : Keeps r0 (s.redigestStep r bound) := by
  unfold State.redigestStep
  repeat' (first
    | (with_reducible first | assumption | apply Keeps.toF)
    | simp only [Keeps.mk_iff] | dsimp only | split)

theorem Keeps.noteRecord (s : State) (r : EvRec) (hK : Keeps r0 s) : Keeps r0 (s.noteRecord r) := by
  unfold State.noteRecord
  repeat' (first
    | (with_reducible first | assumption | apply Keeps.notify | apply Keeps.smcEvent | apply Keeps.toF)
    | simp only [Keeps.mk_iff] | dsimp only | split)

theorem Keeps.endHandling (s : State) (r : EvRec) (hK : Keeps r0 s) : Keeps r0 (s.endHandling r) := by
  unfold State.endHandling
  repeat' (first
    | (with_reducible first | assumption | apply Keeps.queueLost | apply Keeps.completeStopped | apply Keeps.tokenStep | apply Keeps.condStep)
    | (with_reducible first | apply Keeps.redigestStep | apply Keeps.noteRecord | apply Keeps.toF)
    | simp only [Keeps.mk_iff] | dsimp only | split)

theorem Keeps.hostAttest (s : State) (hK : Keeps r0 s) : Keeps r0 (s.hostAttest) := by
  unfold State.hostAttest
  repeat' (first
    | (with_reducible first | assumption | apply Keeps.toF)
    | simp only [Keeps.mk_iff] | dsimp only | split)

theorem Keeps.attCtrl (s : State) (v : Word32) (hK : Keeps r0 s) : Keeps r0 (s.attCtrl v) := by
  unfold State.attCtrl
  repeat' (first
    | (with_reducible first | assumption | apply Keeps.hostAttest | apply Keeps.toF)
    | simp only [Keeps.mk_iff] | dsimp only | split)

theorem Keeps.smcReport (s : State) (tag : Word32) (status : Byte) (report : List Byte) (hK : Keeps r0 s) :
    Keeps r0 (s.smcReport tag status report) := hK

theorem Keeps.hostRefused (s : State) (code : Byte) (hK : Keeps r0 s) : Keeps r0 (s.hostRefused code) := hK

theorem Keeps.smcRefused (s : State) (tag : Word32) (code : Byte) (hK : Keeps r0 s) : Keeps r0 (s.smcRefused tag code) := hK

theorem Keeps.hostReport (s : State) (nonce : List Byte) (ctx : Byte) (hK : Keeps r0 s) : Keeps r0 (s.hostReport nonce ctx) := by
  unfold State.hostReport
  repeat' (first
    | (with_reducible first | assumption | apply Keeps.hostRefused | apply Keeps.toF)
    | simp only [Keeps.mk_iff] | dsimp only | split)

theorem Keeps.smcAttest (s : State) (tag : Word32) (nonce : List Byte) (ctx : Byte) (hK : Keeps r0 s) : Keeps r0 (s.smcAttest tag nonce ctx) := by
  unfold State.smcAttest
  repeat' (first
    | (with_reducible first | assumption | apply Keeps.smcReport | apply Keeps.smcRefused | apply Keeps.toF)
    | simp only [Keeps.mk_iff] | dsimp only | split)

theorem Keeps.reserveFailed (s : State) (hK : Keeps r0 s) : Keeps r0 (s.reserveFailed) := by
  unfold State.reserveFailed
  repeat' (first
    | (with_reducible first | assumption | apply Keeps.hostRefused | apply Keeps.smcRefused | apply Keeps.toF)
    | simp only [Keeps.mk_iff] | dsimp only | split | intro _)

theorem Keeps.junctionTrip (s : State) (q : Nat) (hK : Keeps r0 s) : Keeps r0 (s.junctionTrip q) := by
  unfold State.junctionTrip
  repeat' (first
    | (with_reducible first | assumption | apply Keeps.raise | apply Keeps.toF)
    | simp only [Keeps.mk_iff] | dsimp only | split)

theorem Keeps.everyMs (s : State) (expert sealed : Bool) (hK : Keeps r0 s) : Keeps r0 (s.everyMs expert sealed) := by
  unfold State.everyMs
  repeat' (first
    | (with_reducible first | assumption | apply Keeps.sampleInputs | apply Keeps.toF)
    | simp only [Keeps.mk_iff] | dsimp only | split)

theorem Keeps.firstRails (s : State) (hK : Keeps r0 s) : Keeps r0 (s.firstRails) := by
  unfold State.firstRails
  repeat' (first
    | (with_reducible first | assumption | apply Keeps.toF)
    | simp only [Keeps.mk_iff] | dsimp only | split)

theorem Keeps.pwrctlWrite (s : State) (v : Word32) (hK : Keeps r0 s) : Keeps r0 (s.pwrctlWrite v) := by
  unfold State.pwrctlWrite
  repeat' (first
    | (with_reducible first | assumption | apply Keeps.toF)
    | simp only [Keeps.mk_iff] | dsimp only | split)

theorem Keeps.grantSets (s : State) (hK : Keeps r0 s) : Keeps r0 (s.grantSets) := by
  unfold State.grantSets
  repeat' (first
    | (with_reducible first | assumption | apply Keeps.modDetour | apply Keeps.foldl | apply Keeps.toF)
    | simp only [Keeps.mk_iff] | dsimp only | split | intro _)

theorem Keeps.writeRoute (s : State) (tag : Nat) (e : Route) (hK : Keeps r0 s) : Keeps r0 (s.writeRoute tag e) := by
  unfold State.writeRoute
  repeat' (first
    | (with_reducible first | assumption | apply Keeps.modDetour | apply Keeps.grantSets | apply Keeps.toF)
    | simp only [Keeps.mk_iff] | dsimp only | split | intro _)

theorem Keeps.dropTransit (s : State) (hK : Keeps r0 s) : Keeps r0 (s.dropTransit) := by
  unfold State.dropTransit
  repeat' (first
    | (with_reducible first | assumption | apply Keeps.writeRoute | apply Keeps.foldl | apply Keeps.toF)
    | simp only [Keeps.mk_iff] | dsimp only | split | intro _)

theorem Keeps.takePlan (s : State) (p : CPlan) (hK : Keeps r0 s) : Keeps r0 (s.takePlan p) := by
  unfold State.takePlan
  repeat' (first
    | (with_reducible first | assumption | apply Keeps.checkPort | apply Keeps.dropTransit | apply Keeps.foldl | apply Keeps.toF)
    | simp only [Keeps.mk_iff] | dsimp only | split | intro _)

theorem Keeps.control (s : State) (cmd cc : Byte) (data : List Byte) (hK : Keeps r0 s) : Keeps r0 (s.control cmd cc data) := hK

theorem Keeps.bar2Bad (s : State) (a : Nat) (hK : Keeps r0 s) : Keeps r0 (s.bar2Bad a) := by
  unfold State.bar2Bad
  repeat' (first
    | (with_reducible first | assumption | apply Keeps.logEvent | apply Keeps.toF)
    | simp only [Keeps.mk_iff] | dsimp only | split | intro _)

theorem Keeps.areaTurns (s : State) (l : List (Nat × Nat)) (a n : Nat) (hK : Keeps r0 s) : Keeps r0 (s.areaTurns l a n) := by
  unfold State.areaTurns
  repeat' (first
    | (with_reducible first | assumption | apply Keeps.useTurns | apply Keeps.foldl | apply Keeps.toF)
    | simp only [Keeps.mk_iff] | dsimp only | split | intro _)

theorem Keeps.bar2Read (s : State) (off n : Nat) (hK : Keeps r0 s) : Keeps r0 (s.bar2Read off n) := by
  unfold State.bar2Read
  repeat' (first
    | (with_reducible first | assumption | apply Keeps.emit | apply Keeps.bar2Bad | apply Keeps.areaTurns | apply Keeps.toF)
    | simp only [Keeps.mk_iff] | dsimp only | split | intro _)

theorem Keeps.bar2Write (s : State) (off : Nat) (d : List Byte) (hK : Keeps r0 s) : Keeps r0 (s.bar2Write off d) := by
  unfold State.bar2Write
  repeat' (first
    | (with_reducible first | assumption | apply Keeps.logDropped | apply Keeps.bar2Bad | apply Keeps.areaTurns | apply Keeps.toF)
    | (with_reducible first | apply Keeps.memF)
    | exact putAllowed_wf _ _ _ _ | simp only [Keeps.mk_iff] | dsimp only | split)

theorem Keeps.windowDenied (s : State) (off : Nat) (rid : BitVec 16) (hK : Keeps r0 s) : Keeps r0 (s.windowDenied off rid) := by
  unfold State.windowDenied
  repeat' (first
    | (with_reducible first | assumption | apply Keeps.logViolation | apply Keeps.toF)
    | simp only [Keeps.mk_iff] | dsimp only | split)

theorem Keeps.windowWrite (s : State) (off : Nat) (rid : BitVec 16) (f : Nat → State → State) (h_f : ∀ x0 x1, Keeps r0 x1 → Keeps r0 (f x0 x1)) (hK : Keeps r0 s) :
    Keeps r0 (s.windowWrite off rid f) := by
  unfold State.windowWrite
  repeat' (first
    | (with_reducible first | assumption | apply Keeps.sync | apply Keeps.windowDenied | apply h_f | apply Keeps.toF)
    | simp only [Keeps.mk_iff] | dsimp only | split | intro _)

theorem Keeps.unlocked (s : State) (f : State → State) (h_f : ∀ x0, Keeps r0 x0 → Keeps r0 (f x0)) (hK : Keeps r0 s) : Keeps r0 (s.unlocked f) := by
  unfold State.unlocked
  repeat' (first
    | (with_reducible first | assumption | apply h_f | apply Keeps.toF)
    | simp only [Keeps.mk_iff] | dsimp only | split)

theorem Keeps.debugSignal (s : State) (c : Nat) (n : Fin 32) (hK : Keeps r0 s) : Keeps r0 (s.debugSignal c n) := by
  unfold State.debugSignal
  repeat' (first
    | (with_reducible first | assumption | apply Keeps.modCore | apply Keeps.wmOverflow | apply Keeps.sync | apply Keeps.toF)
    | simp only [Keeps.mk_iff] | dsimp only | split | intro _)

theorem Keeps.writeWm (s : State) (c : Nat) (n : Fin 32) (v : Word32) (hK : Keeps r0 s) : Keeps r0 (s.writeWm c n v) := by
  unfold State.writeWm
  repeat' (first
    | (with_reducible first | assumption | apply Keeps.modCore | apply Keeps.wmOverflow | apply Keeps.toF)
    | simp only [Keeps.mk_iff] | dsimp only | split | intro _)

theorem Keeps.fenceOver (s : State) (c : Nat) (hK : Keeps r0 s) : Keeps r0 (s.fenceOver c) := by
  unfold State.fenceOver
  repeat' (first
    | (with_reducible first | assumption | apply Keeps.setCore | apply Keeps.unlocked | apply Keeps.debugSignal | apply Keeps.foldl)
    | (with_reducible first | apply Keeps.toF)
    | simp only [Keeps.mk_iff] | dsimp only | split | intro _)

theorem Keeps.writeSignal (s : State) (c : Nat) (n : Fin 32) (hK : Keeps r0 s) : Keeps r0 (s.writeSignal c n) := by
  unfold State.writeSignal
  repeat' (first
    | (with_reducible first | assumption | apply Keeps.modCore | apply Keeps.fenceOver | apply Keeps.toF)
    | simp only [Keeps.mk_iff] | dsimp only | split | intro _)

theorem Keeps.windowRead (s : State) (off n : Nat) (rid : BitVec 16) (hK : Keeps r0 s) : Keeps r0 (s.windowRead off n rid) := by
  unfold State.windowRead
  repeat' (first
    | (with_reducible first | assumption | apply Keeps.emit | apply Keeps.windowDenied | apply Keeps.toF)
    | simp only [Keeps.mk_iff] | dsimp only | split | intro _)

theorem Keeps.windowBytes (l : List Byte) : ∀ (s : State) (c off : Nat), Keeps r0 s → Keeps r0 (State.windowBytes s c off l) := by
  induction l with
  | nil => exact fun _ _ _ h => h
  | cons b l ih =>
    intro s c off h
    unfold State.windowBytes
    apply ih
    split
    · exact Keeps.modCore _ _ _ h
    · exact h

theorem Keeps.pageWord (s : State) (c off : Nat) (v : Word32) (hK : Keeps r0 s) : Keeps r0 (s.pageWord c off v) := by
  unfold State.pageWord
  repeat' (first
    | (with_reducible first | assumption | apply Keeps.modCore | apply Keeps.unlocked | apply Keeps.writeWm | apply Keeps.writeSignal)
    | (with_reducible first | apply Keeps.toF)
    | simp only [Keeps.mk_iff] | dsimp only | split | intro _)

theorem Keeps.windowWords (n : Nat) : ∀ (s : State) (c off : Nat) (d : List Byte), Keeps r0 s → Keeps r0 (State.windowWords n s c off d) := by
  induction n with
  | zero => exact fun _ _ _ _ h => h
  | succ n ih => exact fun s c off d h => ih _ _ _ _ (Keeps.pageWord _ _ _ _ h)

theorem Keeps.errsumWrite (s : State) (v : Word32) (hK : Keeps r0 s) : Keeps r0 (s.errsumWrite v) := by
  unfold State.errsumWrite
  repeat' (first
    | (with_reducible first | assumption | apply Keeps.toF)
    | simp only [Keeps.mk_iff] | dsimp only | split)

theorem Keeps.scrubcfgWrite (s : State) (v : Word32) (hK : Keeps r0 s) : Keeps r0 (s.scrubcfgWrite v) := by
  unfold State.scrubcfgWrite
  repeat' (first
    | (with_reducible first | assumption | apply Keeps.toF)
    | simp only [Keeps.mk_iff] | dsimp only | split)

theorem Keeps.msixWrite (s : State) (off : Nat) (v : Word32) (hK : Keeps r0 s) : Keeps r0 (s.msixWrite off v) := by
  unfold State.msixWrite
  repeat' (first
    | (with_reducible first | assumption | apply Keeps.emit | apply Keeps.toF)
    | simp only [Keeps.mk_iff] | dsimp only | split)

theorem Keeps.fwReg (s : State) (off : Nat) (v : Word32) (hK : Keeps r0 s) : Keeps r0 (s.fwReg off v) := by
  unfold State.fwReg
  repeat' (first
    | (with_reducible first | assumption | apply Keeps.fwCtrl | apply Keeps.toF)
    | simp only [Keeps.mk_iff] | dsimp only | split | intro _)

theorem Keeps.nonceReg (s : State) (i : Nat) (v : Word32) (hK : Keeps r0 s) : Keeps r0 (s.nonceReg i v) := hK

theorem Keeps.glbWrite (s : State) (off : Nat) (v : Word32) (hK : Keeps r0 s) : Keeps r0 (s.glbWrite off v) := by
  unfold State.glbWrite
  repeat' (first
    | (with_reducible first | assumption | apply Keeps.attCtrl | apply Keeps.pwrctlWrite | apply Keeps.errsumWrite | apply Keeps.scrubcfgWrite)
    | (with_reducible first | apply Keeps.nonceReg | apply Keeps.toF)
    | simp only [Keeps.mk_iff] | dsimp only | split | intro _)

theorem Keeps.regWrite (s : State) (off : Nat) (v : Word32) (hK : Keeps r0 s) : Keeps r0 (s.regWrite off v) := by
  unfold State.regWrite
  repeat' (first
    | (with_reducible first | assumption | apply Keeps.msixWrite | apply Keeps.fwReg | apply Keeps.glbWrite | apply Keeps.toF)
    | simp only [Keeps.mk_iff] | dsimp only | split)


end

end Sys2Proof.Machine
end

