-- ==== Sys2Proof/Laws/Mailbox.lean ====
section
/-! SUPPORT. What every mailbox command and every control word meets before its own effect, said once. -/
namespace Sys2Proof.Machine

/-- A command whose entry stands at CHEAD with everything in order takes its entry and acts. -/
theorem startCmd_starts {s : State} {m : MbxId} {d : Cmd} {mine : List Byte → Bool} {f : State → Job → State} {j : Job}
    (h : s.starts m d.opc d.need d.named j) (hk : knownOpc d.opc = true) (hm : mine j.args = true) (ha : d.argsOk j.args = true) :
    s.startCmd m d mine f = f (s.takeEntry m) j := by
  obtain ⟨opc, need, named, ok⟩ := d
  obtain ⟨hr, hh, hn, hj, ho, hp, he⟩ := h
  simp only at ho hp he hk ha
  unfold State.startCmd
  have hp' : s.permission ⟨opc, need, named, ok⟩ j = 0 := hp
  have he' : Cmd.entryOk ⟨opc, need, named, ok⟩ ((s.mbox m.val).entry (s.mbox m.val).chead.toNat) j = true := by
    simp only [Cmd.entryOk, noArgs, Bool.and_true, Bool.and_eq_true] at he ⊢
    exact ⟨he, ha⟩
  have hh' : ¬ (s.boot.halt = true ∧ opc ≠ 1) := by
    rintro ⟨a, b⟩
    rcases hh with h1 | h1
    · rw [h1] at a; cases a
    · exact b h1
  simp only [hr, hn, decide_true, Bool.and_self, if_true, ← hj]
  rw [if_neg (by simp [ho, hk]), if_pos ⟨ho, hm⟩]
  simp only [hp', he', ne_eq, not_true, if_false, Bool.not_true, Bool.false_eq_true]
  rw [if_neg hh']

/-- A command of an open context that `needOpen` guards. -/
theorem needOpen_open {s : State} {j : Job} {f : State → State} (h : (s.ctx j.ctx.toNat).opened = true) : s.needOpen j f = f s := by
  simp [State.needOpen, h]

/-- Taking an entry changes its mailbox and whose turn is next. -/
@[simp] theorem takeEntry_ctx (s : State) (m : MbxId) (x : Nat) : (s.takeEntry m).ctx x = s.ctx x := rfl
@[simp] theorem takeEntry_boot (s : State) (m : MbxId) : (s.takeEntry m).boot = s.boot := rfl
@[simp] theorem takeEntry_run (s : State) (m : MbxId) : (s.takeEntry m).run = s.run := rfl
@[simp] theorem takeEntry_jobs (s : State) (m : MbxId) : (s.takeEntry m).jobs = s.jobs := rfl
@[simp] theorem takeEntry_lpddr (s : State) (m : MbxId) : (s.takeEntry m).lpddr = s.lpddr := rfl

/-- A control word that arrives on a port that takes it is heard, and then acts. -/
theorem wordIn_arrives {s : State} {q : PortId} {w : List Byte} {n : Nat} {f : State → State} (h : s.wordArrives q w n) :
    s.wordIn q.val w (some n) none f = f (s.heard q w) := by
  obtain ⟨ht, hw, hn, hr⟩ := h
  unfold State.wordIn
  simp only [ht, hw, hn, Bool.not_true, Bool.false_eq_true, if_false, ne_eq, not_true, and_false]
  rw [if_neg (by rintro ⟨a, b⟩; exact b (hr a))]
  rfl

/-- A word of any TYPE whose step fraction the command gives. -/
theorem wordIn_at {s : State} {q : PortId} {w : List Byte} {x : Nat} {f : State → State} (h : s.wordArrives q w (wordType w)) :
    s.wordIn q.val w none (some x) f = f (s.heardAt q w x) := by
  obtain ⟨ht, hw, -, hr⟩ := h
  unfold State.wordIn
  simp only [ht, hw, Bool.not_true, Bool.false_eq_true, if_false, ne_eq, not_true, false_and]
  rw [if_neg (by rintro ⟨a, b⟩; exact b (hr a))]
  rfl

/-- A RUN word of the batch in agreement. -/
theorem runIn_arrives {s : State} {q : PortId} {w : List Byte} {op : Nat} {f : List Byte → State → State} (h : s.runArrives q w op) :
    s.runIn q.val w op f = f (wordBody w) (s.heard q w) := by
  obtain ⟨hw, hp, ht, hr, ho⟩ := h
  unfold State.runIn
  rw [wordIn_arrives hw]
  have h1 : (s.heard q w).run = s.run := rfl
  have h2 : (s.heard q w).runTag = s.runTag := rfl
  simp only [h1, h2, ne_eq, hp, not_false_eq_true, decide_true, ht, Bool.and_self, if_true, hr, ho, and_self]

/-- A word whose CCRC fails, or whose TYPE is not assigned, is dropped and counted. -/
theorem wordIn_bad {s : State} {q : Nat} {w : List Byte} {o x : Option Nat} {f : State → State} (ht : (s.port q).trained = true)
    (hw : wordOk w = false) : s.wordIn q w o x f = s.modPort q fun p => { p with cwdrop := p.cwdrop + 1 } := by
  simp [State.wordIn, ht, hw]

end Sys2Proof.Machine
end

