-- ==== Sys2Proof/WellFormed.lean ====
section
/-! DEFINITION. Which commands are well formed: an instruction of an engine carries only encodings the spec assigns (R76,
R106, R107, R141, R165), and a command that carries bytes carries a legal number of them (R338: 64-byte words; R279: a
parcel is a 64-byte header and 1 to 4,096 granules of 64 bytes; R492: a 32-byte nonce). -/
namespace Sys2Proof

/-- The engine instruction that a command issues, if it is one of the instruction rows. -/
def Instr.op : Instr → Option AnyOp
  | .ccNop _ _ => some (.cc .nop)
  | .ccAdd _ _ d a b => some (.cc (.add d a b))
  | .ccSub _ _ d a b => some (.cc (.sub d a b))
  | .ccMul _ _ d a b => some (.cc (.mul d a b))
  | .ccAnd _ _ d a b => some (.cc (.and d a b))
  | .ccOr _ _ d a b => some (.cc (.or d a b))
  | .ccXor _ _ d a b => some (.cc (.xor d a b))
  | .ccShl _ _ d a b => some (.cc (.shl d a b))
  | .ccShr _ _ d a b => some (.cc (.shr d a b))
  | .ccSar _ _ d a b => some (.cc (.sar d a b))
  | .ccMin _ _ d a b => some (.cc (.min d a b))
  | .ccMax _ _ d a b => some (.cc (.max d a b))
  | .ccSlt _ _ d a b => some (.cc (.slt d a b))
  | .ccSltu _ _ d a b => some (.cc (.sltu d a b))
  | .ccAddi _ _ d a i => some (.cc (.addi d a i))
  | .ccAndi _ _ d a i => some (.cc (.andi d a i))
  | .ccOri _ _ d a i => some (.cc (.ori d a i))
  | .ccXori _ _ d a i => some (.cc (.xori d a i))
  | .ccShli _ _ d a i => some (.cc (.shli d a i))
  | .ccShri _ _ d a i => some (.cc (.shri d a i))
  | .ccSari _ _ d a i => some (.cc (.sari d a i))
  | .ccLi _ _ d i => some (.cc (.li d i))
  | .ccLih _ _ d i => some (.cc (.lih d i))
  | .ccBeq _ _ a b o => some (.cc (.beq a b o))
  | .ccBne _ _ a b o => some (.cc (.bne a b o))
  | .ccBlt _ _ a b o => some (.cc (.blt a b o))
  | .ccBge _ _ a b o => some (.cc (.bge a b o))
  | .ccBltu _ _ a b o => some (.cc (.bltu a b o))
  | .ccBgeu _ _ a b o => some (.cc (.bgeu a b o))
  | .ccJmp _ _ o => some (.cc (.jmp o))
  | .ccLd _ _ d a i => some (.cc (.ld d a i))
  | .ccSt _ _ d a i => some (.cc (.st d a i))
  | .ccRds _ _ d n => some (.cc (.rds d n))
  | .ccRdsc _ _ d n => some (.cc (.rdsc d n))
  | .ccHalt _ _ => some (.cc .halt)
  | .ccParrive _ _ p => some (.cc (.parrive p))
  | .ccPenter _ _ p => some (.cc (.penter p))
  | .ccPwait _ _ p => some (.cc (.pwait p))
  | .ccPlevel _ _ n d w l => some (.cc (.plevel n d w l))
  | .mmLw _ _ t l => some (.mm (.lw t l))
  | .mmB16 _ _ a => some (.mm (.comp .b16 a))
  | .mmF8 _ _ w f a => some (.mm (.comp (.f8 w f) a))
  | .mmF4 _ _ a => some (.mm (.comp .f4 a))
  | .mmF4e _ _ a => some (.mm (.comp .f4e a))
  | .mmN3 _ _ a => some (.mm (.comp .n3 a))
  | .mmN2 _ _ t a => some (.mm (.comp (.n2 t) a))
  | .mmRd _ _ b c t df r n => some (.mm (.rd b c t df r n))
  | .mmLa _ _ b c t => some (.mm (.la b c t))
  | .veAlu _ _ f t r d a b n => some (.ve (.alu f t r d a b n))
  | .veFma _ _ f t r d a b n => some (.ve (.fma f t r d a b n))
  | .veUn _ _ f t r d a n => some (.ve (.un f t r d a n))
  | .veCmp _ _ f t d a b n => some (.ve (.cmp f t d a b n))
  | .veSel _ _ t d a b m n => some (.ve (.sel t d a b m n))
  | .veCopy _ _ t d a n => some (.ve (.copy t d a n))
  | .veBcast _ _ t r d b n => some (.ve (.bcast t r d b n))
  | .veIota _ _ t d n => some (.ve (.iota t d n))
  | .veGets _ _ d a e => some (.ve (.gets d a e))
  | .vePuts _ _ d a e => some (.ve (.puts d a e))
  | .veLd _ _ t d b n => some (.ve (.ld t d b n))
  | .veSt _ _ t a b n => some (.ve (.st t a b n))
  | .veCvt _ _ t x r d a n c => some (.ve (.cvt t x r d a n c))
  | .veRed _ _ f t d a g n => some (.ve (.red f t d a g n))
  | .veTred _ _ f c x d a => some (.ve (.tred f c x d a))
  | .veCmpr _ _ t d a m n => some (.ve (.cmpr t d a m n))
  | .veExpd _ _ t d a m n => some (.ve (.expd t d a m n))
  | .stArm _ _ c h a => some (.st (.arm c h a))
  | .stTail _ _ c n => some (.st (.tail c n))
  | .stHead _ _ c n => some (.st (.head c n))
  | .stCancel _ _ c => some (.st (.cancel c))
  | _ => none

/-- Whether the bytes that a command carries are as many as the spec gives it. -/
def Instr.sized : Instr → Bool
  | .parcelArrival _ b | .detourArrival _ b =>
    decide (128 ≤ b.length) && decide (b.length ≤ 64 + 64 * 4096) && decide (b.length % 64 = 0)
  | .timeWordReceived _ _ _ w | .identReceived _ w | .passWordReceived _ w | .stopReceived _ w | .msgReceived _ w
  | .ready _ _ _ w | .fix _ w | .bound _ _ _ w | .go _ w | .decline _ _ _ w => decide (w.length = 64)
  | .mailboxEntryWrite _ off w => decide (0 < w.bytes.length) && decide (off.toNat + w.bytes.length ≤ 0x10000)
  | .registerWrite _ w => decide (0 < w.bytes.length)
  | .smcAttestationRequest _ n _ => decide (n.length = 32)
  | .cablingPlan _ p => decide (p.length = 224)
  | .routingEntryWrite _ _ e => decide (e.length = 32)
  | .cableRead _ m =>
    decide (m.serial.length = 16) && decide (m.vendor.length = 16) && decide (m.oui.length = 3) && decide (m.part.length = 16)
  | _ => true

/-- A well-formed command. -/
def Instr.wf (i : Instr) : Bool :=
  (match i.op with
  | some o => o.legal
  | none => true) && i.sized

end Sys2Proof
end

