-- ==== Sys2Proof/Laws/PerInstr.lean ====
section
/-! SUPPORT. What well-formedness says of each row of the command table: a row that issues an instruction is well formed exactly when the
instruction's fields are encodings that the spec assigns, any other row exactly when it carries a legal number of bytes. -/
namespace Sys2Proof.Laws.WellFormedRow

/-- An instruction row is well formed exactly when its instruction is legal, any other row exactly when its bytes fit. -/
def Statement (i : Instr) : Prop :=
  match i.op with
  | some o => i.wf = o.legal
  | none => i.wf = i.sized

theorem ccNop (c : CoreId) (h : Hdr) : Statement (.ccNop c h) := Bool.and_true _
theorem ccAdd (c : CoreId) (h : Hdr) (rd ra rb : Reg) : Statement (.ccAdd c h rd ra rb) := Bool.and_true _
theorem ccSub (c : CoreId) (h : Hdr) (rd ra rb : Reg) : Statement (.ccSub c h rd ra rb) := Bool.and_true _
theorem ccMul (c : CoreId) (h : Hdr) (rd ra rb : Reg) : Statement (.ccMul c h rd ra rb) := Bool.and_true _
theorem ccAnd (c : CoreId) (h : Hdr) (rd ra rb : Reg) : Statement (.ccAnd c h rd ra rb) := Bool.and_true _
theorem ccOr (c : CoreId) (h : Hdr) (rd ra rb : Reg) : Statement (.ccOr c h rd ra rb) := Bool.and_true _
theorem ccXor (c : CoreId) (h : Hdr) (rd ra rb : Reg) : Statement (.ccXor c h rd ra rb) := Bool.and_true _
theorem ccShl (c : CoreId) (h : Hdr) (rd ra rb : Reg) : Statement (.ccShl c h rd ra rb) := Bool.and_true _
theorem ccShr (c : CoreId) (h : Hdr) (rd ra rb : Reg) : Statement (.ccShr c h rd ra rb) := Bool.and_true _
theorem ccSar (c : CoreId) (h : Hdr) (rd ra rb : Reg) : Statement (.ccSar c h rd ra rb) := Bool.and_true _
theorem ccMin (c : CoreId) (h : Hdr) (rd ra rb : Reg) : Statement (.ccMin c h rd ra rb) := Bool.and_true _
theorem ccMax (c : CoreId) (h : Hdr) (rd ra rb : Reg) : Statement (.ccMax c h rd ra rb) := Bool.and_true _
theorem ccSlt (c : CoreId) (h : Hdr) (rd ra rb : Reg) : Statement (.ccSlt c h rd ra rb) := Bool.and_true _
theorem ccSltu (c : CoreId) (h : Hdr) (rd ra rb : Reg) : Statement (.ccSltu c h rd ra rb) := Bool.and_true _
theorem ccAddi (c : CoreId) (h : Hdr) (rd ra : Reg) (imm : BitVec 29) : Statement (.ccAddi c h rd ra imm) := Bool.and_true _
theorem ccAndi (c : CoreId) (h : Hdr) (rd ra : Reg) (imm : BitVec 29) : Statement (.ccAndi c h rd ra imm) := Bool.and_true _
theorem ccOri (c : CoreId) (h : Hdr) (rd ra : Reg) (imm : BitVec 29) : Statement (.ccOri c h rd ra imm) := Bool.and_true _
theorem ccXori (c : CoreId) (h : Hdr) (rd ra : Reg) (imm : BitVec 29) : Statement (.ccXori c h rd ra imm) := Bool.and_true _
theorem ccShli (c : CoreId) (h : Hdr) (rd ra : Reg) (imm : BitVec 29) : Statement (.ccShli c h rd ra imm) := Bool.and_true _
theorem ccShri (c : CoreId) (h : Hdr) (rd ra : Reg) (imm : BitVec 29) : Statement (.ccShri c h rd ra imm) := Bool.and_true _
theorem ccSari (c : CoreId) (h : Hdr) (rd ra : Reg) (imm : BitVec 29) : Statement (.ccSari c h rd ra imm) := Bool.and_true _
theorem ccLi (c : CoreId) (h : Hdr) (rd : Reg) (imm : Word32) : Statement (.ccLi c h rd imm) := Bool.and_true _
theorem ccLih (c : CoreId) (h : Hdr) (rd : Reg) (imm : Word32) : Statement (.ccLih c h rd imm) := Bool.and_true _
theorem ccBeq (c : CoreId) (h : Hdr) (ra rb : Reg) (off : BitVec 29) : Statement (.ccBeq c h ra rb off) := Bool.and_true _
theorem ccBne (c : CoreId) (h : Hdr) (ra rb : Reg) (off : BitVec 29) : Statement (.ccBne c h ra rb off) := Bool.and_true _
theorem ccBlt (c : CoreId) (h : Hdr) (ra rb : Reg) (off : BitVec 29) : Statement (.ccBlt c h ra rb off) := Bool.and_true _
theorem ccBge (c : CoreId) (h : Hdr) (ra rb : Reg) (off : BitVec 29) : Statement (.ccBge c h ra rb off) := Bool.and_true _
theorem ccBltu (c : CoreId) (h : Hdr) (ra rb : Reg) (off : BitVec 29) : Statement (.ccBltu c h ra rb off) := Bool.and_true _
theorem ccBgeu (c : CoreId) (h : Hdr) (ra rb : Reg) (off : BitVec 29) : Statement (.ccBgeu c h ra rb off) := Bool.and_true _
theorem ccJmp (c : CoreId) (h : Hdr) (off : BitVec 29) : Statement (.ccJmp c h off) := Bool.and_true _
theorem ccLd (c : CoreId) (h : Hdr) (rd ra : Reg) (imm : BitVec 29) : Statement (.ccLd c h rd ra imm) := Bool.and_true _
theorem ccSt (c : CoreId) (h : Hdr) (rd ra : Reg) (imm : BitVec 29) : Statement (.ccSt c h rd ra imm) := Bool.and_true _
theorem ccRds (c : CoreId) (h : Hdr) (rd : Reg) (sel : Byte) : Statement (.ccRds c h rd sel) := Bool.and_true _
theorem ccRdsc (c : CoreId) (h : Hdr) (rd : Reg) (sel : Byte) : Statement (.ccRdsc c h rd sel) := Bool.and_true _
theorem ccHalt (c : CoreId) (h : Hdr) : Statement (.ccHalt c h) := Bool.and_true _
theorem ccParrive (c : CoreId) (h : Hdr) (p : PassId) : Statement (.ccParrive c h p) := Bool.and_true _
theorem ccPenter (c : CoreId) (h : Hdr) (p : EnterArg) : Statement (.ccPenter c h p) := Bool.and_true _
theorem ccPwait (c : CoreId) (h : Hdr) (p : PassId) : Statement (.ccPwait c h p) := Bool.and_true _
theorem ccPlevel (c : CoreId) (h : Hdr) (wn : Fin 32) (d now : Bool) (level : BitVec 12) : Statement (.ccPlevel c h wn d now level) := Bool.and_true _
theorem releaseNotice (c : CoreId) (p : PassId) : Statement (.releaseNotice c p) := Bool.true_and _
theorem ringPassReport (m : Fin 4) : Statement (.ringPassReport m) := Bool.true_and _
theorem mmLw (c : CoreId) (h : Hdr) (ts : Tile16) (ls : Bool) : Statement (.mmLw c h ts ls) := Bool.and_true _
theorem fillStart (c : CoreId) : Statement (.fillStart c) := Bool.true_and _
theorem heldWritesRelease (c : CoreId) : Statement (.heldWritesRelease c) := Bool.true_and _
theorem fillVerdict (c : CoreId) : Statement (.fillVerdict c) := Bool.true_and _
theorem mmB16 (c : CoreId) (h : Hdr) (a : MmArgs) : Statement (.mmB16 c h a) := Bool.and_true _
theorem mmF8 (c : CoreId) (h : Hdr) (wf opf : F8Fmt) (a : MmArgs) : Statement (.mmF8 c h wf opf a) := Bool.and_true _
theorem mmF4 (c : CoreId) (h : Hdr) (a : MmArgs) : Statement (.mmF4 c h a) := Bool.and_true _
theorem mmF4e (c : CoreId) (h : Hdr) (a : MmArgs) : Statement (.mmF4e c h a) := Bool.and_true _
theorem mmN3 (c : CoreId) (h : Hdr) (a : MmArgs) : Statement (.mmN3 c h a) := Bool.and_true _
theorem mmN2 (c : CoreId) (h : Hdr) (ternary : Bool) (a : MmArgs) : Statement (.mmN2 c h ternary a) := Bool.and_true _
theorem mmRd (c : CoreId) (h : Hdr) (acc : Fin 8) (col : Fin 64) (td : Tile16) (df : RdFmt) (rnd : Rnd) (st : Reg) : Statement (.mmRd c h acc col td df rnd st) := Bool.and_true _
theorem mmLa (c : CoreId) (h : Hdr) (acc : Fin 8) (col : Fin 64) (ts : Tile16) : Statement (.mmLa c h acc col ts) := Bool.and_true _
theorem veAlu (c : CoreId) (h : Hdr) (fn : AluFn) (ty : Ty) (rnd : Rnd) (vd va : Tile16) (b : OpB) (n : CountSrc) : Statement (.veAlu c h fn ty rnd vd va b n) := Bool.and_true _
theorem veFma (c : CoreId) (h : Hdr) (fn : FmaFn) (ty : Ty) (rnd : Rnd) (vd va : Tile16) (b : OpB) (n : CountSrc) : Statement (.veFma c h fn ty rnd vd va b n) := Bool.and_true _
theorem veUn (c : CoreId) (h : Hdr) (fn : UnFn) (ty : Ty) (rnd : Rnd) (vd va : Tile16) (n : CountSrc) : Statement (.veUn c h fn ty rnd vd va n) := Bool.and_true _
theorem veCmp (c : CoreId) (h : Hdr) (cond : Cond) (ty : Ty) (vd va : Tile16) (b : OpB) (n : CountSrc) : Statement (.veCmp c h cond ty vd va b n) := Bool.and_true _
theorem veSel (c : CoreId) (h : Hdr) (ty : Ty) (vd va vb mask : Tile16) (n : CountSrc) : Statement (.veSel c h ty vd va vb mask n) := Bool.and_true _
theorem veCopy (c : CoreId) (h : Hdr) (ty : Ty) (vd va : Tile16) (n : CountSrc) : Statement (.veCopy c h ty vd va n) := Bool.and_true _
theorem veBcast (c : CoreId) (h : Hdr) (ty : Ty) (rnd : Rnd) (vd : Tile16) (b : OpB) (n : CountSrc) : Statement (.veBcast c h ty rnd vd b n) := Bool.and_true _
theorem veIota (c : CoreId) (h : Hdr) (ty : Ty) (vd : Tile16) (n : CountSrc) : Statement (.veIota c h ty vd n) := Bool.and_true _
theorem veGets (c : CoreId) (h : Hdr) (vd va : Tile16) (esc : Bool) : Statement (.veGets c h vd va esc) := Bool.and_true _
theorem vePuts (c : CoreId) (h : Hdr) (vd va : Tile16) (esc : Bool) : Statement (.vePuts c h vd va esc) := Bool.and_true _
theorem veLd (c : CoreId) (h : Hdr) (ty : Ty) (vd : Tile16) (sb : Reg) (n : CountSrc) : Statement (.veLd c h ty vd sb n) := Bool.and_true _
theorem veSt (c : CoreId) (h : Hdr) (ty : Ty) (va : Tile16) (sb : Reg) (n : CountSrc) : Statement (.veSt c h ty va sb n) := Bool.and_true _
theorem veCvt (c : CoreId) (h : Hdr) (ty : Ty) (dst : CvtDst) (rnd : Rnd) (vd va : Tile16) (st : Reg) (n : CountSrc) : Statement (.veCvt c h ty dst rnd vd va st n) := Bool.and_true _
theorem veRed (c : CoreId) (h : Hdr) (fn : RedFn) (ty : Ty) (vd va : Tile16) (seg : Option (Fin 13)) (n : CountSrc) : Statement (.veRed c h fn ty vd va seg n) := Bool.and_true _
theorem veTred (c : CoreId) (h : Hdr) (fn : TredFn) (col : Bool) (src : TredSrc) (vd va : Tile16) : Statement (.veTred c h fn col src vd va) := Bool.and_true _
theorem veCmpr (c : CoreId) (h : Hdr) (ty : Ty) (vd va vm : Tile16) (n : CountSrc) : Statement (.veCmpr c h ty vd va vm n) := Bool.and_true _
theorem veExpd (c : CoreId) (h : Hdr) (ty : Ty) (vd va vm : Tile16) (n : CountSrc) : Statement (.veExpd c h ty vd va vm n) := Bool.and_true _
theorem stArm (c : CoreId) (h : Hdr) (ch : Fin 6) (sh : Bool) (sa : Reg) : Statement (.stArm c h ch sh sa) := Bool.and_true _
theorem stTail (c : CoreId) (h : Hdr) (ch : Fin 6) (n : Fin 16) : Statement (.stTail c h ch n) := Bool.and_true _
theorem stHead (c : CoreId) (h : Hdr) (ch : Fin 6) (n : Fin 16) : Statement (.stHead c h ch n) := Bool.and_true _
theorem stCancel (c : CoreId) (h : Hdr) (ch : Fin 4) : Statement (.stCancel c h ch) := Bool.and_true _
theorem slotFillStart (c : CoreId) (ch : Fin 4) : Statement (.slotFillStart c ch) := Bool.true_and _
theorem slotFillComplete (c : CoreId) (ch : Fin 4) : Statement (.slotFillComplete c ch) := Bool.true_and _
theorem staleFillAbsorbed (c : CoreId) (ch : Fin 4) : Statement (.staleFillAbsorbed c ch) := Bool.true_and _
theorem outboundSlotSent (c : CoreId) (o : Fin 2) : Statement (.outboundSlotSent c o) := Bool.true_and _
theorem coreResume (c : CoreId) (ns : Nat) : Statement (.coreResume c ns) := Bool.true_and _
theorem programEnd (c : CoreId) : Statement (.programEnd c) := Bool.true_and _
theorem waymarkDeadlock (c : CoreId) : Statement (.waymarkDeadlock c) := Bool.true_and _
theorem wymSignal (v : Word32) (rid : BitVec 16) : Statement (.wymSignal v rid) := Bool.true_and _
theorem wymDbgfence (v : Word32) (rid : BitVec 16) : Statement (.wymDbgfence v rid) := Bool.true_and _
theorem debugFenceDone : Statement .debugFenceDone := Bool.true_and _
theorem wymValWrite (n : Fin 32) (v : Word32) (rid : BitVec 16) : Statement (.wymValWrite n v rid) := Bool.true_and _
theorem scalarDebugWrite (n : Reg) (hi : Bool) (v : Word32) (rid : BitVec 16) : Statement (.scalarDebugWrite n hi v rid) := Bool.true_and _
theorem scheduleOverrun : Statement .scheduleOverrun := Bool.true_and _
theorem gateMiss (p : Fin 16) : Statement (.gateMiss p) := Bool.true_and _
theorem lndStepAdvance (p : Fin 16) : Statement (.lndStepAdvance p) := Bool.true_and _
theorem milestoneAdvance : Statement .milestoneAdvance := Bool.true_and _
theorem inject (r : Nat) (ready : Bool) : Statement (.inject r ready) := Bool.true_and _
theorem send (r : Nat) : Statement (.send r) := Bool.true_and _
theorem parcelArrival (q : PortId) (bytes : List Byte) : Statement (.parcelArrival q bytes) := Bool.true_and _
theorem recvfForward (r : Nat) : Statement (.recvfForward r) := Bool.true_and _
theorem forwardSlotLost (r : Nat) : Statement (.forwardSlotLost r) := Bool.true_and _
theorem stepTimeout (r : Nat) : Statement (.stepTimeout r) := Bool.true_and _
theorem detourArrival (q : PortId) (bytes : List Byte) : Statement (.detourArrival q bytes) := Bool.true_and _
theorem detourSend (tag : BitVec 12) : Statement (.detourSend tag) := Bool.true_and _
theorem timeWordReceived (q : PortId) (pos : Fin 22) (frac : BitVec 16) (w : List Byte) : Statement (.timeWordReceived q pos frac w) := Bool.true_and _
theorem milestoneSteer : Statement .milestoneSteer := Bool.true_and _
theorem identReceived (q : PortId) (w : List Byte) : Statement (.identReceived q w) := Bool.true_and _
theorem cableRead (q : PortId) (mem : CableMem) : Statement (.cableRead q mem) := Bool.true_and _
theorem portAlign (q : PortId) (lanes good : BitVec 34) (peerMs : Nat) : Statement (.portAlign q lanes good peerMs) := Bool.true_and _
theorem trainTimeout (q : PortId) : Statement (.trainTimeout q) := Bool.true_and _
theorem trainRetry (q : PortId) : Statement (.trainRetry q) := Bool.true_and _
theorem linkLost (q : PortId) (lost : BitVec 34) : Statement (.linkLost q lost) := Bool.true_and _
theorem missingNeighbour (q : PortId) : Statement (.missingNeighbour q) := Bool.true_and _
theorem passWordReceived (q : PortId) (w : List Byte) : Statement (.passWordReceived q w) := Bool.true_and _
theorem stopReceived (q : PortId) (w : List Byte) : Statement (.stopReceived q w) := Bool.true_and _
theorem msgReceived (q : PortId) (w : List Byte) : Statement (.msgReceived q w) := Bool.true_and _
theorem transferStall : Statement .transferStall := Bool.true_and _
theorem ready (q : PortId) (pos idx : Fin 64) (w : List Byte) : Statement (.ready q pos idx w) := Bool.true_and _
theorem fix (q : PortId) (w : List Byte) : Statement (.fix q w) := Bool.true_and _
theorem bindAt : Statement .bindAt := Bool.true_and _
theorem bound (q : PortId) (pos idx : Fin 64) (w : List Byte) : Statement (.bound q pos idx w) := Bool.true_and _
theorem go (q : PortId) (w : List Byte) : Statement (.go q w) := Bool.true_and _
theorem decline (q : PortId) (pos idx : Fin 64) (w : List Byte) : Statement (.decline q pos idx w) := Bool.true_and _
theorem runTimeout : Statement .runTimeout := Bool.true_and _
theorem runStart : Statement .runStart := Bool.true_and _
theorem runEnd : Statement .runEnd := Bool.true_and _
theorem editionSwitch (x : CtxId) : Statement (.editionSwitch x) := Bool.true_and _
theorem scrubRotation : Statement .scrubRotation := Bool.true_and _
theorem scrubDigestDone : Statement .scrubDigestDone := Bool.true_and _
theorem redigestDone : Statement .redigestDone := Bool.true_and _
theorem doorbell (m : MbxId) (v : RegWrite) : Statement (.doorbell m v) := Bool.true_and _
theorem mbxRheadWrite (m : MbxId) (v : RegWrite) : Statement (.mbxRheadWrite m v) := Bool.true_and _
theorem mbxNheadWrite (m : MbxId) (v : RegWrite) : Statement (.mbxNheadWrite m v) := Bool.true_and _
theorem mailboxEntryWrite (m : MbxId) (off : BitVec 16) (w : HostWrite) : Statement (.mailboxEntryWrite m off w) := Bool.true_and _
theorem status (m : MbxId) : Statement (.status m) := Bool.true_and _
theorem openContext (m : MbxId) : Statement (.openContext m) := Bool.true_and _
theorem closeContext (m : MbxId) : Statement (.closeContext m) := Bool.true_and _
theorem loadImage (m : MbxId) : Statement (.loadImage m) := Bool.true_and _
theorem unloadImage (m : MbxId) : Statement (.unloadImage m) := Bool.true_and _
theorem bind (m : MbxId) : Statement (.bind m) := Bool.true_and _
theorem unbind (m : MbxId) : Statement (.unbind m) := Bool.true_and _
theorem loadEdition (m : MbxId) : Statement (.loadEdition m) := Bool.true_and _
theorem publish (m : MbxId) : Statement (.publish m) := Bool.true_and _
theorem unpublish (m : MbxId) : Statement (.unpublish m) := Bool.true_and _
theorem unloadEdition (m : MbxId) : Statement (.unloadEdition m) := Bool.true_and _
theorem runBatch (m : MbxId) : Statement (.runBatch m) := Bool.true_and _
theorem stopRun (m : MbxId) : Statement (.stopRun m) := Bool.true_and _
theorem dma (m : MbxId) : Statement (.dma m) := Bool.true_and _
theorem setWindow (m : MbxId) : Statement (.setWindow m) := Bool.true_and _
theorem setStrict (m : MbxId) : Statement (.setStrict m) := Bool.true_and _
theorem armMailbox (m : MbxId) : Statement (.armMailbox m) := Bool.true_and _
theorem disarmMailbox (m : MbxId) : Statement (.disarmMailbox m) := Bool.true_and _
theorem setPolicy (m : MbxId) : Statement (.setPolicy m) := Bool.true_and _
theorem debugMap (m : MbxId) : Statement (.debugMap m) := Bool.true_and _
theorem debugUnmap (m : MbxId) : Statement (.debugUnmap m) := Bool.true_and _
theorem coreHalt (m : MbxId) : Statement (.coreHalt m) := Bool.true_and _
theorem coreReset (m : MbxId) : Statement (.coreReset m) := Bool.true_and _
theorem clusterReset (m : MbxId) : Statement (.clusterReset m) := Bool.true_and _
theorem partitionReset (m : MbxId) : Statement (.partitionReset m) := Bool.true_and _
theorem resetComplete (u : RstUnit) : Statement (.resetComplete u) := Bool.true_and _
theorem staleResponseAbsorbed (u : RstUnit) : Statement (.staleResponseAbsorbed u) := Bool.true_and _
theorem rawXfer (m : MbxId) : Statement (.rawXfer m) := Bool.true_and _
theorem rawDesc (m : MbxId) : Statement (.rawDesc m) := Bool.true_and _
theorem unlockDebug (m : MbxId) : Statement (.unlockDebug m) := Bool.true_and _
theorem commitSpares (m : MbxId) : Statement (.commitSpares m) := Bool.true_and _
theorem regenIdentity (m : MbxId) : Statement (.regenIdentity m) := Bool.true_and _
theorem presencePress : Statement .presencePress := Bool.true_and _
theorem presenceTimeout : Statement .presenceTimeout := Bool.true_and _
theorem presenceStuck : Statement .presenceStuck := Bool.true_and _
theorem presenceRelease : Statement .presenceRelease := Bool.true_and _
theorem sealOpen : Statement .sealOpen := Bool.true_and _
theorem bar2Access (a : HostAcc) : Statement (.bar2Access a) := Bool.true_and _
theorem debugWindowAccess (a : HostAcc) (rid : BitVec 16) : Statement (.debugWindowAccess a rid) := Bool.true_and _
theorem malformedTlp (k : BadTlp) (off : Word32) (rid : BitVec 16) : Statement (.malformedTlp k off rid) := Bool.true_and _
theorem registerWrite (off : Nat) (w : HostWrite) : Statement (.registerWrite off w) := Bool.true_and _
theorem errsumClear (v : Word32) : Statement (.errsumClear v) := Bool.true_and _
theorem digScrubcfgWrite (v : Word32) : Statement (.digScrubcfgWrite v) := Bool.true_and _
theorem glbPwrctlWrite (v : Word32) : Statement (.glbPwrctlWrite v) := Bool.true_and _
theorem attestationGo (v : Word32) : Statement (.attestationGo v) := Bool.true_and _
theorem attestationReport (smc : Bool) : Statement (.attestationReport smc) := Bool.true_and _
theorem identityReserve (ok : Bool) : Statement (.identityReserve ok) := Bool.true_and _
theorem treeBuildDone : Statement .treeBuildDone := Bool.true_and _
theorem fwLoadGo (v : Word32) : Statement (.fwLoadGo v) := Bool.true_and _
theorem firmwareVerified (img : Option (List Byte)) : Statement (.firmwareVerified img) := Bool.true_and _
theorem coldPath (t : TestResults) : Statement (.coldPath t) := Bool.true_and _
theorem startupRetest (t : TestResults) : Statement (.startupRetest t) := Bool.true_and _
theorem warmPath (lpdFailed : List Nat) : Statement (.warmPath lpdFailed) := Bool.true_and _
theorem powerGood (st : Straps) (rom : RomTest) : Statement (.powerGood st rom) := Bool.true_and _
theorem powerGoodDrop : Statement .powerGoodDrop := Bool.true_and _
theorem perstAssert (st : Straps) : Statement (.perstAssert st) := Bool.true_and _
theorem perstDeassert (rom : RomTest) : Statement (.perstDeassert rom) := Bool.true_and _
theorem functionLevelReset (st : Straps) (rom : RomTest) : Statement (.functionLevelReset st rom) := Bool.true_and _
theorem hotReset (st : Straps) (rom : RomTest) : Statement (.hotReset st rom) := Bool.true_and _
theorem moduleReset (st : Straps) (rom : RomTest) : Statement (.moduleReset st rom) := Bool.true_and _
theorem watchdog (st : Straps) (rom : RomTest) : Statement (.watchdog st rom) := Bool.true_and _
theorem junctionSample (x : Sensors) : Statement (.junctionSample x) := Bool.true_and _
theorem vcoreStep : Statement .vcoreStep := Bool.true_and _
theorem powerFloor : Statement .powerFloor := Bool.true_and _
theorem thermalFloor (q : Fin 256) : Statement (.thermalFloor q) := Bool.true_and _
theorem wearSample (margins : List (Nat × Nat)) : Statement (.wearSample margins) := Bool.true_and _
theorem lpddrLinkError (n : Fin 12) (off : Nat) (chan : Fin 4) (corrected : Bool) : Statement (.lpddrLinkError n off chan corrected) := Bool.true_and _
theorem eventRaise (e : EvReq) : Statement (.eventRaise e) := Bool.true_and _
theorem recordHandling : Statement .recordHandling := Bool.true_and _
theorem persistentLogWrite : Statement .persistentLogWrite := Bool.true_and _
theorem smcHalt (tag : Word32) : Statement (.smcHalt tag) := Bool.true_and _
theorem smcReset (tag : Word32) (st : Straps) (rom : RomTest) : Statement (.smcReset tag st rom) := Bool.true_and _
theorem smcAttestationRequest (tag : Word32) (nonce : List Byte) (ctx : Byte) : Statement (.smcAttestationRequest tag nonce ctx) := Bool.true_and _
theorem cablingPlan (tag : Word32) (plan : List Byte) : Statement (.cablingPlan tag plan) := Bool.true_and _
theorem coordinateMessage (tag : Word32) (ringlen rings pos idx : Byte) : Statement (.coordinateMessage tag ringlen rings pos idx) := Bool.true_and _
theorem routingEntryWrite (tag : Word32) (slice : BitVec 16) (entry : List Byte) : Statement (.routingEntryWrite tag slice entry) := Bool.true_and _
theorem telemetryRequest (tag : Word32) : Statement (.telemetryRequest tag) := Bool.true_and _
theorem smcPowerLimit (tag : Word32) (limit : BitVec 16) : Statement (.smcPowerLimit tag limit) := Bool.true_and _
theorem setEndpointId (eid : Byte) : Statement (.setEndpointId eid) := Bool.true_and _
theorem getEndpointId : Statement .getEndpointId := Bool.true_and _
theorem getMctpVersionSupport (msgType : Byte) : Statement (.getMctpVersionSupport msgType) := Bool.true_and _
theorem getMessageTypeSupport : Statement .getMessageTypeSupport := Bool.true_and _
theorem getVendorDefinedMessageSupport (sel : Byte) : Statement (.getVendorDefinedMessageSupport sel) := Bool.true_and _
theorem instructionCompletion (c : CoreId) (u : CompUnit) : Statement (.instructionCompletion c u) := Bool.true_and _
theorem loadDigestDone : Statement .loadDigestDone := Bool.true_and _
theorem dmaTransferDone (r : DmaResult) : Statement (.dmaTransferDone r) := Bool.true_and _
theorem testAccessPortInstruction (basic : Bool) : Statement (.testAccessPortInstruction basic) := Bool.true_and _
theorem smcMessageSent : Statement .smcMessageSent := Bool.true_and _

end Sys2Proof.Laws.WellFormedRow
end

