-- ==== Sys2Proof/Laws/Xmss.lean ====
section
/-! SUPPORT. What the sponge gives has the length asked for, and a signature that is made with the starts of its chains verifies. -/
namespace Sys2Proof.Machine

/-! ### The sponge -/

/-- Five planes of five lanes. -/
def FivePlanes (s : List Plane) : Prop := s.map List.length = List.replicate 5 5

theorem FivePlanes.flatten {s : List Plane} (h : FivePlanes s) : s.flatten.length = 25 := by
  rw [List.length_flatten, h]; rfl

theorem stepIota_shape (c : Word64) {s : List Plane} (h : FivePlanes s) : FivePlanes (stepIota c s) := by
  unfold FivePlanes at *
  match s with
  | [] => exact h
  | [] :: r => exact h
  | (v :: p) :: r => simp only [stepIota, List.map_cons, List.length_cons] at h ⊢; exact h

theorem round_shape (c : Word64) (s : List Plane) : FivePlanes (stepIota c ((stepRhoPi (stepTheta s)).map stepChi)) := by
  apply stepIota_shape
  have h : rhoPi.map List.length = List.replicate 5 5 := by decide +kernel
  have hc : ∀ p : Plane, p.length = 5 → (stepChi p).length = 5 := by
    intro p hp
    simp [stepChi, Plane.mix, Plane.turn, hp]
  unfold FivePlanes stepRhoPi
  rw [← h]
  have hr : ∀ r ∈ rhoPi, r.length = 5 := by decide +kernel
  simp only [List.map_map]
  apply List.map_congr_left
  intro r hm
  simp only [Function.comp]
  rw [hc _ (by simp [hr r hm]), hr r hm]

theorem keccakF_shape (s : List Plane) : FivePlanes (keccakF s) := by
  unfold keccakF
  generalize hl : roundConsts 24 1 = l
  have hne : l ≠ [] := by rw [← hl]; simp [roundConsts]
  clear hl
  induction l generalizing s with
  | nil => exact absurd rfl hne
  | cons c r ih =>
    rw [List.foldl_cons]
    cases r with
    | nil => exact round_shape c s
    | cons d t => exact ih _ (by simp)

theorem absorb_shape (n : Nat) : ∀ (l : List Byte) (s : List Plane), FivePlanes s → FivePlanes (absorb n l s) := by
  induction n with
  | zero => intro l s h; exact h
  | succ n ih => intro l s _; exact ih _ _ (keccakF_shape _)

theorem leBytes_length (n v : Nat) : (leBytes n v).length = n := by
  induction n generalizing v with
  | zero => rfl
  | succ n ih => simp [leBytes, ih]

theorem squeeze_length (n : Nat) : ∀ s : List Plane, FivePlanes s → (squeeze n s).length = 136 * n := by
  induction n with
  | zero => intro s _; rfl
  | succ n ih =>
    intro s h
    have h1 : ((s.flatten.take 17).flatMap fun v => leBytes 8 v.toNat).length = 136 := by
      have h0 : (s.flatten.take 17).length = 17 := by rw [List.length_take, h.flatten]; rfl
      rw [List.length_flatMap]
      simp only [leBytes_length, List.map_const', h0]
      rfl
    rw [squeeze, List.length_append, h1, ih _ (keccakF_shape _)]
    omega

/-- The sponge gives as many bytes as it is asked for. -/
@[simp] theorem shake256_length (l : List Byte) (n : Nat) : (shake256 l n).length = n := by
  unfold shake256
  simp only [List.length_take]
  rw [squeeze_length _ _ (absorb_shape _ _ _ (show FivePlanes (List.replicate 5 (List.replicate 5 0)) from rfl))]
  omega

@[simp] theorem digest512_length (l : List Byte) : (digest512 l).length = 64 := shake256_length l 64

@[simp] theorem xmssHash_length (kind : Nat) (key m : List Byte) : (xmssHash kind key m).length = 32 := shake256_length _ 32

/-! ### Bytes and numbers -/

/-- The number that bytes spell gives the bytes again. -/
theorem leBytes_leNat (l : List Byte) : leBytes l.length (leNat l) = l := by
  induction l with
  | nil => rfl
  | cons b t ih =>
    have hb := b.isLt
    simp only [List.length_cons, leNat, leBytes]
    rw [show (b.toNat + 256 * leNat t) / 256 = leNat t by omega, ih]
    congr 1
    apply BitVec.eq_of_toNat_eq
    simp only [BitVec.toNat_ofNat]
    omega

/-- The number of n bytes has 8n bits. -/
theorem leNat_lt (l : List Byte) : leNat l < 256 ^ l.length := by
  induction l with
  | nil => simp [leNat]
  | cons b t ih =>
    have hb := b.isLt
    simp only [List.length_cons, leNat, Nat.pow_succ]
    omega

/-- The 64 bytes of a key pass through its register of 512 bits. -/
theorem key_back (l : List Byte) (h : l.length = 64) : leBytes 64 (BitVec.ofNat 512 (leNat l)).toNat = l := by
  have h1 := leNat_lt l
  have h3 := leBytes_leNat l
  rw [h] at h1 h3
  have h2 : leNat l < 2 ^ 512 := Nat.lt_of_lt_of_eq h1 (pow_mul 2 8 64).symm
  rw [BitVec.toNat_ofNat, Nat.mod_eq_of_lt h2]
  exact h3

/-- A part of a byte string that lies in its first piece. -/
theorem part_append (a t : List Byte) (off n : Nat) (h : off + n ≤ a.length) : ((a ++ t).drop off).take n = (a.drop off).take n := by
  rw [List.drop_append_of_le_length (by omega), List.take_append_of_le_length (by simp; omega)]

/-! ### A signature that verifies -/

theorem beBytes_length (n v : Nat) : (beBytes n v).length = n := by simp [beBytes, leBytes_length]

theorem wotsChain_length (seed : List Byte) (a : Adrs) (n : Nat) :
    ∀ (i : Nat) (v : List Byte), v.length = 32 → (wotsChain seed a n i v).length = 32 := by
  induction n with
  | zero => intro _ _ h; exact h
  | succ n ih => intro _ _ _; exact ih _ _ (xmssHash_length ..)

/-- A chain walked in two parts. -/
theorem wotsChain_add (seed : List Byte) (a : Adrs) (n : Nat) :
    ∀ (m i : Nat) (v : List Byte), wotsChain seed a (n + m) i v = wotsChain seed a m (i + n) (wotsChain seed a n i v) := by
  induction n with
  | zero => intro m i v; simp [wotsChain]
  | succ n ih =>
    intro m i v
    rw [show n + 1 + m = (n + m) + 1 by omega, wotsChain, wotsChain, ih, show i + 1 + n = i + (n + 1) by omega]

theorem digits16_le (l : List Byte) : ∀ d ∈ digits16 l, d ≤ 15 := by
  intro d h
  simp only [digits16, List.mem_flatMap] at h
  obtain ⟨b, -, h⟩ := h
  have := b.isLt
  simp only [List.mem_cons, List.not_mem_nil, or_false] at h
  omega

theorem wotsDigits_le (m : List Byte) (i : Nat) : (wotsDigits m).getD i 0 ≤ 15 := by
  rw [List.getD_eq_getElem?_getD]
  cases h : (wotsDigits m)[i]? with
  | none => simp
  | some d =>
    have hm : d ∈ wotsDigits m := List.mem_of_getElem? h
    simp only [wotsDigits, List.mem_append] at hm
    rcases hm with hm | hm
    · exact digits16_le _ _ hm
    · exact digits16_le _ _ (List.mem_of_mem_take hm)

theorem blocks32_flatten (l : List (List Byte)) (h : ∀ b ∈ l, b.length = 32) : blocks32 l.length l.flatten = l := by
  induction l with
  | nil => rfl
  | cons b t ih =>
    have hb := h b (by simp)
    simp only [List.length_cons, blocks32, List.flatten_cons]
    rw [List.take_left' hb, List.drop_left' hb, ih fun c hc => h c (by simp [hc])]

theorem flatten_length32 (l : List (List Byte)) (h : ∀ b ∈ l, b.length = 32) : l.flatten.length = 32 * l.length := by
  induction l with
  | nil => rfl
  | cons b t ih =>
    rw [List.flatten_cons, List.length_append, h b (by simp), ih fun c hc => h c (by simp [hc]), List.length_cons]
    omega

theorem rootOf_length (seed : List Byte) (la tr : Nat) (p : List (List Byte)) :
    ∀ (h i : Nat) (v : List Byte), v.length = 32 → (rootOf seed la tr h i v p).length = 32 := by
  induction p with
  | nil => intro _ _ _ h; exact h
  | cons n t ih =>
    intro h i v _
    simp only [rootOf]
    apply ih
    split <;> exact xmssHash_length ..

/-- The parts of a signature with index 0: the chains of a message's digits from zero bytes on, and a path of zero bytes. -/
def madeChains (seed m : List Byte) : List (List Byte) :=
  (List.range 67).map fun i => wotsChain seed (chainAdrs 0 0 0 i) ((wotsDigits m).getD i 0) 0 (zeros 32)

/-- The one-time public key that those chains end in. -/
def madeEnds (seed : List Byte) : List (List Byte) := (List.range 67).map fun i => wotsChain seed (chainAdrs 0 0 0 i) 15 0 (zeros 32)

/-- The authentication path. -/
def madePath : List (List Byte) := List.replicate 20 (zeros 32)

/-- The root that belongs to the seed. -/
def madeRoot (seed : List Byte) : List Byte := rootOf seed 0 0 0 0 (ltree seed 0 0 0 (madeEnds seed)) madePath

/-- The signature of a message. -/
def madeSig (seed msg : List Byte) : List Byte :=
  beBytes 4 0 ++ zeros 32 ++ (madeChains seed (xmssHash 2 (zeros 32 ++ madeRoot seed ++ beBytes 32 0) msg) ++ madePath).flatten

theorem madeRoot_length (seed : List Byte) : (madeRoot seed).length = 32 := by
  unfold madeRoot madePath
  rw [show (20 : Nat) = 19 + 1 from rfl, List.replicate_succ, rootOf]
  apply rootOf_length
  simp only [Nat.zero_div, Nat.zero_mod, if_true]
  exact xmssHash_length ..

theorem wotsPk_made (seed m : List Byte) : wotsPk seed 0 0 0 m (madeChains seed m) = madeEnds seed := by
  unfold wotsPk madeEnds
  apply List.map_congr_left
  intro i hi
  have hd := wotsDigits_le m i
  have hg : (madeChains seed m).getD i [] = wotsChain seed (chainAdrs 0 0 0 i) ((wotsDigits m).getD i 0) 0 (zeros 32) := by
    simp only [List.mem_range] at hi
    simp [madeChains, List.getD_eq_getElem?_getD, hi]
  simp only [hg]
  have := wotsChain_add seed (chainAdrs 0 0 0 i) ((wotsDigits m).getD i 0) (15 - (wotsDigits m).getD i 0) 0 (zeros 32)
  rw [Nat.zero_add, Nat.add_sub_cancel' hd] at this
  exact this.symm

theorem madeParts (seed m : List Byte) : ∀ b ∈ madeChains seed m ++ madePath, b.length = 32 := by
  intro b hb
  simp only [List.mem_append, madeChains, madePath, List.mem_map, List.mem_replicate] at hb
  rcases hb with ⟨i, -, rfl⟩ | ⟨-, rfl⟩
  · exact wotsChain_length _ _ _ _ _ (by simp [zeros])
  · simp [zeros]

theorem madeSig_length (seed msg : List Byte) : (madeSig seed msg).length = 2820 := by
  rw [madeSig, List.length_append, List.length_append, beBytes_length, flatten_length32 _ (madeParts seed _)]
  simp [zeros, madeChains, madePath]

/-- What is made so verifies, whatever the message. -/
theorem madeSig_verifies (seed msg : List Byte) (hs : seed.length = 32) : xmssVerify 20 (madeRoot seed ++ seed) msg (madeSig seed msg) = true := by
  have h0 : beNat (beBytes 4 0) = 0 := by decide
  have hr := madeRoot_length seed
  have hz : (zeros 32).length = 32 := by simp [zeros]
  have h4 := beBytes_length 4 0
  have hn : ∀ m, (madeChains seed m ++ madePath).length = 87 := by intro m; simp [madeChains, madePath]
  have hc : ∀ m, (madeChains seed m).length = 67 := by intro m; simp [madeChains]
  generalize hm : xmssHash 2 (zeros 32 ++ madeRoot seed ++ beBytes 32 0) msg = m
  have hb : blocks32 87 (madeChains seed m ++ madePath).flatten = madeChains seed m ++ madePath := by
    have := blocks32_flatten _ (madeParts seed m)
    rwa [hn] at this
  have hk : (madeSig seed msg).take 4 = beBytes 4 0 := by
    rw [madeSig, List.append_assoc, List.take_left' h4]
  have hrd : ((madeSig seed msg).drop 4).take 32 = zeros 32 := by
    rw [madeSig, List.append_assoc, List.drop_left' h4, List.take_left' hz]
  have hp : (madeSig seed msg).drop 36 = (madeChains seed m ++ madePath).flatten := by
    rw [madeSig, hm, List.drop_left' (by simp [h4, hz])]
  have ht : (madeRoot seed ++ seed).take 32 = madeRoot seed := List.take_left' hr
  have hq : ((madeRoot seed ++ seed).drop 32).take 32 = seed := by
    rw [List.drop_left' hr, List.take_of_length_le (by omega)]
  simp only [xmssVerify, madeSig_length, hk, hrd, hp, ht, hq, h0, hm, hb, List.take_left' (hc m), List.drop_left' (hc m), treeRoot, wotsPk_made]
  rw [show rootOf seed 0 0 0 0 (ltree seed 0 0 0 (madeEnds seed)) madePath = madeRoot seed from rfl]
  simp

end Sys2Proof.Machine
end

