-- ==== Sys2Proof/Tests/Slice0.lean ====
section
/-! SUPPORT. The model's own tests: words of the spec, ill-formed terms refused, one step on small states, and for every statement with
hypotheses states and operands that meet them. -/
set_option Elab.async false
open Sys2Proof Sys2Proof.Machine
namespace Sys2Proof.Tests

/-- No wait, no signal. -/
def h0 : Hdr := { w := none, s := none }

/-- A running core whose code is `ws`. -/
def coreOf (ws : List Word64) : Core :=
  { status := .running, codeLen := ws.length, sram := wrBytes [] codeBase (ws.flatMap fun w => leBytes 8 w.toNat) }

/-- A READY module with power, all of its cores in service, and core 0 as given. -/
def modOf (k : Core) : State :=
  { State.reset with
    cores := sset {} [] 0 k
    boot := { State.reset.boot with power := true, perst := false, ready := true, fwstate := 4, enabled := 0xFFFF, cores := 2048 } }

def cc (o : CcOp) : Word64 := encOp h0 (.cc o)

/-! ### Words of the spec, and ill-formed terms -/

/-- R144, the row of CC.ADD: OPC 0x01, RD in bits 40:35, RA in 34:29, RB in 28:23; here V = W = SE = 0. -/
theorem test_word_add : decOp 0x0100001821000000 = some (h0, .cc (.add 3 1 2)) := by decide
/-- R145 and form B: OPC 0x20, RA in bits 40:35, RB in 34:29, OFF in 28:0. -/
theorem test_word_jmp : decOp (encOp h0 (.cc (.jmp 0x1FFFFFFF))) = some (h0, .cc (.jmp 0x1FFFFFFF)) := by decide
/-- The reserved major opcode 0x47 (R75). -/
theorem test_word_reserved : decOp 0x4740000000000000 = none := by decide
/-- ENG that differs from OPC[7:6] (R139). -/
theorem test_word_engine : decOp 0x0140001821000000 = none := by decide

theorem test_wf_shift : Instr.wf (.ccShli 0 h0 1 1 64) = false ∧ Instr.wf (.ccShli 0 h0 1 1 63) = true := by decide
theorem test_wf_selector : Instr.wf (.ccRds 0 h0 1 0x09) = false ∧ Instr.wf (.ccRds 0 h0 1 0x22) = true := by decide
theorem test_wf_clears : Instr.wf (.ccRdsc 0 h0 1 0x00) = false ∧ Instr.wf (.ccRdsc 0 h0 1 0x10) = true := by decide
theorem test_wf_readout : Instr.wf (.mmRd 0 h0 0 0 0 .copy32 .dsr 0) = false ∧ Instr.wf (.mmRd 0 h0 0 0 0 .copy32 .rne 0) = true := by decide
theorem test_wf_fma : Instr.wf (.veFma 0 h0 .fma .u8 .rne 0 0 (.span 0) (.imm 0)) = false := by decide
theorem test_wf_alu : Instr.wf (.veAlu 0 h0 .add .u8 .rtz 0 0 (.span 0) (.imm 0)) = false := by decide
theorem test_wf_un : Instr.wf (.veUn 0 h0 .exp2 .int32 .rne 0 0 (.imm 0)) = false := by decide
theorem test_wf_bcast : Instr.wf (.veBcast 0 h0 .fp32 .rne 0 (.span 1) (.imm 0)) = false := by decide
theorem test_wf_iota : Instr.wf (.veIota 0 h0 .bf16 0 (.imm 0)) = false ∧ Instr.wf (.veIota 0 h0 .int32 0 (.imm 0)) = true := by decide
theorem test_wf_parcel : Instr.wf (.parcelArrival 0 (zeros 64)) = false ∧ Instr.wf (.parcelArrival 0 (zeros 128)) = true := by decide +kernel
theorem test_wf_word : Instr.wf (.go 0 (zeros 63)) = false ∧ Instr.wf (.go 0 (zeros 64)) = true := by decide
theorem test_wf_ring : Instr.wf (.mailboxEntryWrite 0 0xFFFF ⟨[0, 0], 0⟩) = false ∧ Instr.wf (.mailboxEntryWrite 0 0x1000 ⟨[], 0⟩) = false := by decide
theorem test_wf_nonce : Instr.wf (.smcAttestationRequest 0 (zeros 31) 0) = false := by decide
theorem test_wf_plan : Instr.wf (.cablingPlan 0 (zeros 223)) = false := by decide +kernel
theorem test_wf_route : Instr.wf (.routingEntryWrite 0 0 (zeros 31)) = false := by decide

/-! ### A core that runs -/

/-- The next state that an outcome answers. -/
def nextOf : Host.Outcome State Fault Refusal → Option State
  | .next t => some t
  | _ => none

/-- The next state of a command, or the state itself. -/
def after (i : Instr) (s : State) : State := (nextOf (exec i s)).getD s

/-- A READY module whose core 0 is about to issue `o`. -/
def at0 (o : CcOp) : State := modOf (coreOf [cc o])

/-- The same with a scalar of the core set. -/
def with1 (o : CcOp) (r : Reg) (v : Word64) : State := modOf ((coreOf [cc o]).setSc r v)

/-- StepRunsFront, CommandsKeepQueue: a queue of two, the first run, the second kept. -/
theorem test_queue : (nextOf (step { at0 (.add 3 1 2) with pending := [.ccAdd 0 h0 3 1 2, .presenceRelease] })).map (·.pending)
    = some [.presenceRelease] := by decide
/-- WordReadsBack: a legal instruction. -/
theorem test_legal : (AnyOp.cc (.li 63 0xFFFFFFFF)).legal = true ∧ (AnyOp.ve (.iota .fp32 15 (.vc 0xFFF))).legal = true := by decide
/-- SpecWords: the boundary of each reserved field. -/
theorem test_reserved : 64 ≤ (64 : BitVec 29).toNat ∧ selLegal (0x09 : Byte).toNat = false ∧ selClears (0x00 : Byte).toNat = false
    ∧ Rnd.dsr ≠ .rne := by decide
/-- IdleCoreIssues: the hypotheses on the core. -/
theorem test_idle :
    let s := at0 (.add 3 1 2)
    (s.core 0).atInstr (.cc (.add 3 1 2)) h0 = true ∧ (s.core 0).engIdle = true ∧ h0.w = none ∧ (s.core 0).pendRes = [] ∧ (s.core 0).pendSig = []
      ∧ (s.core 0).pendClip = [] ∧ ∀ r ∈ [(3 : Reg), 1, 2], (s.core 0).availAt r ≤ (s.core 0).beat := by decide
/-- A scalar of the debug window written over a result that is available by then (R148, R152). -/
theorem test_settles : (({ coreOf [] with pendRes := [(3, 5, 9)] }).settleRes 3).sc 5 = 9 ∧ (({ coreOf [] with pendRes := [(3, 5, 9)] }).settleRes 2).sc 5 = 0 := by
  decide
/-- A core whose Waymark 3 is as given. -/
def wmCore (w : Waymark) : Core := { coreOf [encOp ⟨none, some 3⟩ (.cc .nop)] with wms := [(3, w)] }
theorem test_idle_wf : Sparse.Wf {} (at0 (.add 3 1 2)).cores := by unfold Sparse.Wf; decide

/-- ControlCoreArithmetic: instructions of the three forms issue, and the result stands in RD. -/
theorem test_issue_add : ((with1 (.add 3 1 2) 1 7).issueAt 0 (.add 3 1 2) h0 [3, 1, 2]).isSome = true := by decide
theorem test_add : ((after (.ccAdd 0 h0 3 1 1) (with1 (.add 3 1 1) 1 0xFFFFFFFFFFFFFFFF)).core 0).sc 3 = 0xFFFFFFFFFFFFFFFE := by decide
theorem test_sub : ((after (.ccSub 0 h0 3 0 1) (with1 (.sub 3 0 1) 1 1)).core 0).sc 3 = 0xFFFFFFFFFFFFFFFF := by decide
theorem test_sar : ((after (.ccSar 0 h0 1 1 1) (with1 (.sar 1 1 1) 1 0x8000000000000001)).core 0).sc 1 = 0xC000000000000000 := by decide
theorem test_shl : ((after (.ccShl 0 h0 1 1 1) (with1 (.shl 1 1 1) 1 65)).core 0).sc 1 = 130 := by decide
theorem test_slt : ((after (.ccSlt 0 h0 3 1 0) (with1 (.slt 3 1 0) 1 0x8000000000000000)).core 0).sc 3 = 1 := by decide
theorem test_sltu : ((after (.ccSltu 0 h0 3 1 0) (with1 (.sltu 3 1 0) 1 0x8000000000000000)).core 0).sc 3 = 0 := by decide
theorem test_min : ((after (.ccMin 0 h0 3 1 0) (with1 (.min 3 1 0) 1 0x8000000000000000)).core 0).sc 3 = 0x8000000000000000 := by decide
theorem test_addi : ((after (.ccAddi 0 h0 0 1 5) (with1 (.addi 0 1 5) 1 1)).core 0).sc 0 = 0 := by decide
theorem test_andi : ((after (.ccAndi 0 h0 3 1 0x1FFFFFFF) (with1 (.andi 3 1 0x1FFFFFFF) 1 0x8000000000000007)).core 0).sc 3 = 0x8000000000000007 := by decide
theorem test_shli : ((at0 (.shli 3 1 63)).issueAt 0 (.shli 3 1 63) h0 [3, 1]).isSome = true ∧ (63 : BitVec 29).toNat < 64 := by decide
theorem test_li : ((after (.ccLi 0 h0 3 0x80000000) (at0 (.li 3 0x80000000))).core 0).sc 3 = 0xFFFFFFFF80000000 := by decide
theorem test_lih : ((after (.ccLih 0 h0 1 0x12345678) (with1 (.lih 1 0x12345678) 1 0xAAAAAAAA9ABCDEF0)).core 0).sc 1 = 0x123456789ABCDEF0 := by decide
/-- MultiplyAndLoad: the result is not there until its beat (R148). -/
theorem test_issue_mul : ((with1 (.mul 3 1 1) 1 5).issueAt 0 (.mul 3 1 1) h0 [3, 1, 1]).isSome = true := by decide
theorem test_mul : ((after (.ccMul 0 h0 3 1 1) (with1 (.mul 3 1 1) 1 5)).core 0).pendRes = [(3, 3, 25)] := by decide
theorem test_issue_ld : ((at0 (.ld 3 1 7)).issueAt 0 (.ld 3 1 7) h0 [3, 1]).isSome = true := by decide
/-- CC.LD with bit 2 to 0 of the address set reads the doubleword below. -/
theorem test_ld : ((after (.ccLd 0 h0 3 1 7) (modOf { coreOf [cc (.ld 3 1 7)] with sram := wrBytes (coreOf [cc (.ld 3 1 7)]).sram 0 [0x78, 0x56] })).core 0).pendRes
    = [(4, 3, 0x5678)] := by decide
/-- Branching: taken and not taken. -/
theorem test_branch_taken : ((after (.ccBeq 0 h0 1 2 0x1FFFFFFF) (at0 (.beq 1 2 0x1FFFFFFF))).core 0).pc = 0x7FFF
    ∧ ((after (.ccBeq 0 h0 1 2 0x1FFFFFFF) (at0 (.beq 1 2 0x1FFFFFFF))).core 0).beat = 2 := by decide
theorem test_branch_not_taken : ((after (.ccBlt 0 h0 2 1 5) (with1 (.blt 2 1 5) 1 0xFFFFFFFFFFFFFFFF)).core 0).pc = 1
    ∧ ((after (.ccBlt 0 h0 2 1 5) (with1 (.blt 2 1 5) 1 0xFFFFFFFFFFFFFFFF)).core 0).beat = 1 := by decide
theorem test_issue_branch : ((at0 (.jmp 1)).issueAt 0 (.jmp 1) h0 []).isSome = true ∧ ((at0 (.bgeu 1 2 1)).issueAt 0 (.bgeu 1 2 1) h0 [1, 2]).isSome = true := by decide
/-- Branching: CC.NOP, CC.HALT and CC.ST issue. -/
theorem test_issue_nop : ((at0 .nop).issueAt 0 .nop h0 []).isSome = true ∧ ((at0 .halt).issueAt 0 .halt h0 []).isSome = true
    ∧ ((at0 (.st 3 1 8)).issueAt 0 (.st 3 1 8) h0 [3, 1]).isSome = true := by decide
theorem test_st : rdBytes ((after (.ccSt 0 h0 1 0 8) (with1 (.st 1 0 8) 1 0x0102)).core 0).sram 8 2 = [2, 1] := by decide
/-- A store into the code window changes nothing and counts in CWD (R147). -/
theorem test_st_code : ((after (.ccSt 0 h0 1 0 0x3C0000) (with1 (.st 1 0 0x3C0000) 1 0x0102)).core 0).sram = (coreOf [cc (.st 1 0 0x3C0000)]).sram := by decide
/-- EngineStores: an empty SRAM and a store over the top of SRAM. -/
theorem test_store_wraps : Memory.wf (coreOf []).sram ∧ ([1, 2] : List Byte).length ≤ sramSize
    ∧ rdByte ((coreOf []).engWrite (sramSize - 1) [1, 2]).sram 0 = 2 := by decide
/-- SpecialRegisters. -/
theorem test_issue_rds : selLegal (0x22 : Byte).toNat = true ∧ ((at0 (.rds 3 0x22)).issueAt 0 (.rds 3 0x22) h0 [3]).isSome = true
    ∧ selClears (0x10 : Byte).toNat = true ∧ ((at0 (.rdsc 3 0x10)).issueAt 0 (.rdsc 3 0x10) h0 [3]).isSome = true := by decide
theorem test_rds : ((after (.ccRds 1 h0 3 0x05) (modOf (coreOf []) |>.setCore 1 (coreOf [cc (.rds 3 0x05)]))).core 1).sc 3 = 1 := by decide
theorem test_rdsc : ((after (.ccRdsc 0 h0 3 0x1F) (modOf { coreOf [cc (.rdsc 3 0x1F)] with clips := [(15, 9)] })).core 0).clip 15 = 0 := by decide
/-- ScalarFile. -/
theorem test_scalars_wf : Sparse.Wf (0 : Word64) (({} : Core).setSc 5 1).scal := by unfold Sparse.Wf; decide
/-- WaymarkCounts: below and at the top of the count, a take, the lowest-numbered Waymark that tops and its first signaller, a wait on zero. -/
theorem test_signal : let w : Waymark := ({ value := 0xFFE } : Waymark).roll 1
    w.value.toNat + w.add < 4095 ∧ w.re = false ∧ w.value ≠ 0 ∧ Sparse.Wf {} (modOf (coreOf [])).cores
      ∧ (((after (.ccNop 0 ⟨none, some 3⟩) (modOf (wmCore {}))).core 0).wm 3).shown = 1 := by unfold Sparse.Wf; decide
theorem test_signal_top : let w : Waymark := ({ value := 0xFFF } : Waymark).roll 0
    (((wmCore { value := 0xFFF }).signal 3 0 0 0).takesLeft 3 0) + 4095 ≤ w.value.toNat + w.add
      ∧ ((after (.ccNop 0 ⟨none, some 3⟩) (modOf (wmCore { value := 0xFFF }))).core 0).status = .halted := by decide
theorem test_overflow_names : let s := modOf { (wmCore {}) with wms := [(3, { value := 0xFFF, add := 1, first := some (0, 7) }), (9, { value := 0xFFF, add := 1 })] }
    let k := (s.core 0).signalAll ((s.core 0).signalsIn 0)
    (List.finRange 32).find? (k.tops 0) = some 3 ∧ (k.wm 3).first = some (0, 7) := by decide +kernel
/-- Two takes of one beat at VALUE 1: the first takes it, the other waits for a later signal (R249). -/
theorem test_take_once : let k := (wmCore { value := 1 }).take 3 0
    ((k.wm 3).shown = 0) ∧ ((k.wm 3).openAt 0) = none ∧ ((((k.signal 3 1 0 0).wm 3).roll 1).openAt 1) = some 1 := by decide
theorem test_wait_holds : let h : Hdr := ⟨some 3, none⟩
    let s := modOf (coreOf [encOp h (.cc (.add 3 1 2))])
    let s1 := s.sync 0 ((s.core 0).issueBeat [3, 1, 2] - 1)
    (s.core 0).atInstr (.cc (.add 3 1 2)) h = true ∧ ((s1.core 0).wm 3).shown = 0 ∧ ((s1.core 0).wm 3).value = 0
      ∧ (s.core 0).ccHeld = some 3 ∧ ((after (.ccAdd 0 h 3 1 2) s).core 0).pc = 0 := by decide
/-- PassInstructions: with the outbound channels quiet, and with a slot not yet sent. -/
theorem test_issue_pass : ((at0 (.parrive .part)).issueAt 0 (.parrive .part) h0 []).isSome = true
    ∧ ((at0 (.penter (.mod 3 true true))).issueAt 0 (.penter (.mod 3 true true)) h0 []).isSome = true
    ∧ ((at0 (.penter .part)).issueAt 0 (.penter .part) h0 []).isSome = true ∧ ((at0 (.pwait (.mod 0))).issueAt 0 (.pwait (.mod 0)) h0 []).isSome = true
    ∧ ((at0 (.plevel 31 true true 0xFFF)).issueAt 0 (.plevel 31 true true 0xFFF) h0 []).isSome = true := by decide
theorem test_may_arrive : (coreOf []).mayArrive = true ∧ ((coreOf []).modChan 5 fun x => { x with t := 1 }).mayArrive = false := by decide
theorem test_pwait_owes : (((coreOf []).setPview 1 { o := 1 }).pview 1).o ≠ 0 ∧ ((coreOf []).pview 1).o = 0 := by decide
theorem test_plevel : let k := (after (.ccPlevel 0 h0 31 true true 0xFFF) (at0 (.plevel 31 true true 0xFFF))).core 0
    (k.wm 31).shown = 0xFFF ∧ (k.wm 31).desig = true ∧ (k.wm 30).shown = 0 ∧ Sparse.Wf (α := Waymark) {} [] ∧ ((coreOf []).wm 31).at_ ≤ 0
      ∧ ((coreOf []).wm 31).re = false := by unfold Sparse.Wf; decide
/-- ArrivalCounts: a core that takes part arrives for the first time, for a third time, and with another L. -/
theorem test_arrive : let t := after (.ccParrive 0 h0 .part) (at0 (.parrive .part))
    (t.pass 0).arr = 1 ∧ ((t.core 0).pview 0).o = 1 ∧ (t.pass 0).brk = false ∧ t.passReady 0 = false := by decide +kernel
theorem test_arrive_third : let s := modOf ((coreOf [cc (.parrive .part)]).setPview 0 { o := 2 })
    2 ≤ ((s.core 0).pview 0).o ∧ (s.pass 0).brk = false := by decide
theorem test_arrive_mismatch : let x : Pass := { arr := 1, l := true }
    ¬ (x.arr = 0 ∨ (x.l = false ∧ x.ring = false)) := by decide

/-! ### Passes, engines and fills -/

/-- GenerationGivesWay: a generation that is complete, one that waits for the rings, and one that is not complete. -/
theorem test_generation : let s := modOf (coreOf [])
    (s.modPass 0 fun x => { x with arr := 128 }).passReady 0 = true ∧ (s.modPass 0 fun x => { x with arr := 127 }).passReady 0 = false
      ∧ (s.modPass 16 fun x => { x with arr := 2048, ring := true }).passReady 16 = false := by decide +kernel
theorem test_generation_wf : Sparse.Wf {} ((modOf (coreOf [])).modPass 0 fun x => { x with arr := 128 }).passes := by
  unfold Sparse.Wf; decide
/-- A notice for a core as it is, and one of an earlier reset generation. -/
theorem test_notice : let s := { modOf (coreOf []) with notices := [⟨0, 0, true, 0⟩] }
    s.notices.find? (fun n => decide (n.core = 0 ∧ n.pass = passIdx .part)) = some ⟨0, 0, true, 0⟩ ∧ (0 : BitVec 4) = s.coreGen 0
      ∧ (1 : BitVec 4) ≠ s.coreGen 0 := by decide
theorem test_notice_frees : let s := { modOf ((coreOf []).setPview 0 { o := 2 }) with notices := [⟨0, 0, false, 0⟩] }
    (((after (.releaseNotice 0 .part) s).core 0).pview 0).o = 1 := by decide
/-- Crossing: a designated Waymark and one that is not, arrivals with L. -/
theorem test_crossing_wf : Sparse.Wf {} (modOf (coreOf [])).cores ∧ Sparse.Wf (α := Waymark) {} [(4, { level := 9, desig := true })]
    ∧ Sparse.Wf (α := PassView) {} [(1, { n := 1, unc := 1, uncL := true })] := by
  unfold Sparse.Wf; decide
def crossCore : Core := { coreOf [] with wms := [(4, { level := 9, desig := true, at_ := 6 })], pv := [(1, { n := 1, unc := 1, uncL := true })] }
theorem test_crossing : (((crossCore.crossIn 1 6)).wm 4).shown = 9 ∧ (crossCore.wm 4).at_ ≤ 6 ∧ (crossCore.wm 5).desig = false
    ∧ (crossCore.pview 1).uncL = true ∧ (crossCore.pview 2).uncL = false := by decide
/-- A signal that falls in the crossing beat is discarded (R265). -/
theorem test_crossing_discards : ((((crossCore.crossIn 1 6)).signal 4 2 0 6).wm 4).shown = 9 := by decide
/-- EnginesQueued: an instruction of each engine is placed. -/
theorem test_placed : ((modOf (coreOf [encOp h0 (.mm (.lw 2 true))])).placeAt 0 (.mm (.lw 2 true)) h0 [] (·.mq.length)).isSome = true
    ∧ ((modOf (coreOf [encOp h0 (.ve (.iota .fp32 1 (.scalar 5)))])).placeAt 0 (.ve (.iota .fp32 1 (.scalar 5))) h0
      (veRegList (.iota .fp32 1 (.scalar 5))) (·.vq.length)).isSome = true
    ∧ ((modOf (coreOf [encOp h0 (.st (.arm 5 true 63))])).placeAt 0 (.st (.arm 5 true 63)) h0 [63] (·.sq.length)).isSome = true := by decide
theorem test_placed_legal : (MmOp.rd 7 63 15 .bf16 .dsr 5).legal = true ∧ (MmOp.rd 7 63 15 .copy32 .rne 5).legal = true
    ∧ (VeOp.alu .add .bf16 .rtz 0 0 (.span 0) (.vc 0)).legal = true ∧ (VeOp.fma .fma .fp32 .rne 0 0 (.span 0) (.vc 0)).legal = true
    ∧ (VeOp.un .neg .int32 .rne 0 0 (.vc 0)).legal = true ∧ (VeOp.bcast .u8 .rne 0 (.scalar 1) (.vc 0)).legal = true
    ∧ (VeOp.iota .int32 0 (.vc 0)).legal = true ∧ (VeOp.cvt .fp32 .e4m3 .dsr 0 0 5 (.vc 0)).legal = true
    ∧ (VeOp.red .sumsq .bf16 0 0 (some 12) (.vc 0)).legal = true := by decide
theorem test_veIota_queued : ((after (.veIota 0 h0 .fp32 1 (.scalar 5)) (modOf ((coreOf [encOp h0 (.ve (.iota .fp32 1 (.scalar 5)))]).setSc 5 3))).core 0).vq.map
    (fun e => (e.op, e.cnt, e.q)) = [(.iota .fp32 1 (.scalar 5), 3, 0)] := by decide

/-- MM.LW of t2 into L1, issued in beat 0. -/
def lwIssued : State := after (.mmLw 0 h0 2 true) (modOf (coreOf [encOp h0 (.mm (.lw 2 true))]))
/-- The same with its fill started, and with its verdict given. -/
def lwStarted : State := after (.fillStart 0) lwIssued
def lwDone : State := after (.fillVerdict 0) lwStarted

/-- FillsStart. -/
theorem test_fill_start : let s1 := lwIssued.pumpUntil 0 fun k => k.fillable.isSome
    ((s1.core 0).fillable.map fun x => x.ent.op) = some (.lw 2 true)
      ∧ (((s1.core 0).fillable.map fun x => ((s1.sync 0 ((s1.core 0).fillBeat x - 1)).core 0).engLive) = some true) := by decide +kernel
theorem test_fill_not_ready : ((lwStarted.core 0).latch true).ready = false ∧ ((lwIssued.core 0).latch true).ready = true := by decide +kernel
theorem test_held_released : ((lwStarted.core 0).lws.find? LwItem.holding).isSome = true
    ∧ ((lwStarted.syncIn 0 (((lwStarted.core 0).lws.find? LwItem.holding).bind (·.fill) |>.elim 0 (·.start + 32))).core 0).engLive = true := by
  decide +kernel
/-- FillVerdicts: the Open tile register passes; one of kind WEIGHT whose bytes do not give its checksum fails. -/
theorem test_verdict : (lwStarted.core 0).lws.length = 1 ∧ fillCause {} [] = 0 ∧ ((lwDone.core 0).latch true).ready = true
    ∧ (lwDone.core 0).xopen = 1 := by decide +kernel
def lwBad : State := after (.fillVerdict 0) (after (.fillStart 0) (after (.mmLw 0 h0 2 true)
  (modOf { coreOf [encOp h0 (.mm (.lw 2 true))] with tiles := [(2, { hdr := 0 })] })))
theorem test_verdict_fails : fillCause { hdr := 0 } [] ≠ 0 ∧ (lwBad.core 0).status = .halted ∧ (lwBad.core 0).xfail = true := by decide +kernel

/-- A vector instruction as issued, and with its completion. -/
def veIssued (o : VeOp) (i : Instr) : State := after i (modOf (coreOf [encOp h0 (.ve o)]))
/-- UnitsComplete: each unit with an instruction that completes. -/
theorem test_due : ((after (.ccMul 0 h0 3 1 1) (with1 (.mul 3 1 1) 1 5)).core 0).nextDue = some 3 := by decide
theorem test_due_result : ((after (.instructionCompletion 0 .control) (after (.ccMul 0 h0 3 1 1) (with1 (.mul 3 1 1) 1 5))).core 0).sc 3 = 25 := by decide
def n2Args : MmArgs := { sa := 1, ss := 0, acc := 0, col := 0, nt := 0, ls := false, clr := false, half := none, tr := false }
def n2Issued : State := after (.mmN2 0 h0 false n2Args) (modOf (coreOf [encOp h0 (.mm (.comp (.n2 false) n2Args))]))
theorem test_lane_row_due : let s1 := n2Issued.pumpUntil 0 fun k => k.cmps.any fun x => x.start.isSome
    (s1.core 0).cmps.map (fun x => (x.start, x.busy)) = [(some 2, 16)]
      ∧ ((s1.sync 0 20).core 0).engLive = true := by decide +kernel
def rdIssued : State := after (.mmRd 0 h0 0 0 3 .bf16 .rne 0) (modOf (coreOf [encOp h0 (.mm (.rd 0 0 3 .bf16 .rne 0))]))
theorem test_readout_due : let s1 := rdIssued.pumpUntil 0 fun k => k.rds.any fun x => x.start.isSome
    (s1.core 0).rds.map (fun x => x.start) = [some 2] ∧ ((s1.sync 0 17).core 0).engLive = true := by decide +kernel
theorem test_vector_due : let s1 := (veIssued (.iota .int32 1 (.imm 3)) (.veIota 0 h0 .int32 1 (.imm 3))).pumpUntil 0 Core.veSettled
    (firstDone (s1.core 0).ves).isSome = true ∧ ((s1.sync 0 (((firstDone (s1.core 0).ves).elim 0 (·.done)) - 1)).core 0).engLive = true := by
  decide +kernel
/-- VE.IOTA writes 0, 1, 2, 3 as INT32 (R117). -/
theorem test_iota : rdBytes ((((after (.instructionCompletion 0 .vector)
    (veIssued (.iota .int32 1 (.imm 3)) (.veIota 0 h0 .int32 1 (.imm 3)))).core 0)).tile 1).bytes 0 16 = [0,0,0,0, 1,0,0,0, 2,0,0,0, 3,0,0,0] := by
  decide +kernel
def stIssued (o : StOp) (i : Instr) (k : Core) : State := after i (modOf { k with codeLen := 1, sram := wrBytes k.sram codeBase (leBytes 8 (encOp h0 (.st o)).toNat) })
theorem test_stream_due : let s1 := (stIssued (.cancel 0) (.stCancel 0 h0 0) (coreOf [])).pumpUntil 0 fun k => k.sts.any fun x => x.start.isSome && x.todo.isEmpty
    (s1.core 0).sts.map (fun x => (x.start.isSome, x.todo)) = [(true, [])] ∧ (s1.core 0).runs = true ∧ ((s1.sync 0 40).core 0).runs = true := by decide +kernel
def stDone : State := after (.instructionCompletion 0 .stream) (stIssued (.cancel 0) (.stCancel 0 h0 0) (coreOf []))
theorem test_stream_done : (stDone.core 0).sts = [] ∧ (stDone.core 0).runs = true := by decide +kernel

/-! ### Streams -/

/-- A descriptor of an inbound channel: eight slots of one granule of LPDDR. -/
def someDesc : Desc :=
  { start := 0x200000000000, xk := 0, rk := false, nslot := 7, lead := 3, tck := false, unit := 0, tps := 0, slsz := 0, rbaseT := 0
    rbase := 0, gate := none, counts := [15, 0, 0, 0, 0], strides := [64, 0, 0, 0, 0], botbase := 0, tbase := 0, tmul := [0, 0, 0, 0, 0]
    layerStep := 0, armPc := 0, first := 0 }
def geo8 : Geo := { rk := false, rbase := 0, rbaseT := 0, nslot := 7, slsz := 0 }
def inCore : Core := { coreOf [] with chans := [(0, { active := some someDesc, geo := geo8 })] }
/-- StreamPointers: the items of the three clauses. -/
def stItem (o : StOp) (bad : Nat) : StItem :=
  { ent := { seq := 0, pc := 0, h := h0, op := o, sv := 0, q := 0 }, disp := 1, start := some 2, occ := 1, desc := [], bad := bad
    todo := [], xfer := 0, xlen := none, got := 0, slen := 0, want := 0, zap := [], buf := none }
theorem test_stream_items : (stItem (.tail 0 15) 0).ent.op = .tail 0 15 ∧ (stItem (.tail 0 15) 0).bad = 0
    ∧ (stItem (.head 5 0) 0).ent.op = .head 5 0 ∧ (stItem (.head 5 0) 3).bad ≠ 0 ∧ (stItem (.arm 0 false 1) 0).ent.op = .arm 0 false 1 := by decide
theorem test_arm_ignored : (if false then ((modOf inCore).core 0 |>.chan 0).shadow.isSome else ((modOf inCore).core 0 |>.chan 0).active.isSome) = true := by
  decide
theorem test_tail_moves : (((modOf inCore).streamDone 0 (stItem (.tail 0 15) 0) 5).core 0 |>.chan 0).t = 16 := by decide +kernel
/-- SlotFills: a slot within lead and credits; a fill with a transfer outstanding, live and cancelled; transfers one by one. -/
theorem test_fill_slot : (modOf inCore).fillSlot 0 0 = some (0, someDesc) ∧ ((modOf inCore).core 0).moving = true ∧ ((modOf inCore).core 0).crossAt = none := by
  decide +kernel
/-- A fill of slot 0 of one granule that has read its granule. -/
def oneFill (g r : BitVec 4) : SlotFill :=
  { n := 0, gen := g, rgen := r, out := [⟨0, 2, 0, 1, zeros 64⟩], next := 1, count := 1, desc := someDesc }
def fillOf (g : BitVec 4) : State := modOf { inCore with chans := [(0, { active := some someDesc, geo := geo8, fills := [oneFill g 0] })] }
theorem test_fill_in_flight : (((fillOf 0).core 0 |>.chan 0).fills.find? ((fillOf 0).core 0 |>.chan 0).isLive) = some (oneFill 0 0)
    ∧ (oneFill 0 0).rgen = (fillOf 0).coreGen 0 ∧ (oneFill 0 0).n = ((fillOf 0).core 0 |>.chan 0).f
    ∧ (oneFill 0 0).next = (oneFill 0 0).count ∧ (oneFill 0 0).out = [⟨0, 2, 0, 1, zeros 64⟩] := by decide +kernel
theorem test_fill_cancelled : (((fillOf 1).core 0 |>.chan 0).fills.find? ((fillOf 1).core 0 |>.chan 0).isLive) = none
    ∧ (((fillOf 1).core 0 |>.chan 0).fills.find? fun f => !((fillOf 1).core 0 |>.chan 0).isLive f) = some (oneFill 1 0)
    ∧ (oneFill 1 0).out.length ≤ 1 ∧ 1 < ({ oneFill 1 0 with out := [⟨0, 2, 0, 1, []⟩, ⟨1, 2, 64, 1, []⟩] } : SlotFill).out.length
    ∧ ({ oneFill 0 0 with next := 0, out := [] } : SlotFill).next < (oneFill 0 0).count := by decide +kernel
theorem test_fill_passes : ((after (.slotFillComplete 0 0) (fillOf 0)).core 0 |>.chan 0).f = 1
    ∧ ((after (.staleFillAbsorbed 0 0) (fillOf 1)).core 0 |>.chan 0).f = 0 ∧ ((after (.staleFillAbsorbed 0 0) (fillOf 1)).core 0 |>.chan 0).fills = [] := by
  decide +kernel
/-- Two transfers of one slot hold two credits (R205, R219). -/
theorem test_fill_credits : let d := { someDesc with tps := 1, slsz := 1, counts := [15, 0, 0, 0, 0] }
    let s := modOf { inCore with chans := [(0, { active := some d, geo := { geo8 with slsz := 1 } })] }
    ((after (.slotFillStart 0 0) s).core 0 |>.chan 0).outstanding = 2 ∧ (after (.slotFillStart 0 0) s).freeCredits 0 0 + 2 = creditsOf 0 := by decide +kernel
/-- A granule reaches a send slot before and after its send of the step (R283). -/
theorem test_send_held : let y : SendSlot := {}
    y.late = [] ∧ ((y.take 7 true 64 [9]).sent).valid = 2 ∧ rdByte ((y.take 7 true 64 [9]).settle 8).bytes 64 = 9 ∧ (y.take 7 true 64 [9]).valid = 0 := by
  decide +kernel
/-- OutboundSlots: a slot handed over by a running core and by a halted one, and granules in and out of the ranges of the run. -/
def outState (st : CoreStatus) : State := let s := modOf { coreOf [] with status := st, chans := [(4, { geo := geo8, t := 1, outs := [⟨0, [(0x200000000000, 0, 1)], none⟩] })] }
  { s with ctxs := [(0, { opened := true, imgsize := 4096 })], run := { phase := .running, runid := 77 } }
theorem test_out_slot : ((outState .running).core 0 |>.chan 4).outs = [⟨0, [(0x200000000000, 0, 1)], none⟩] ∧ ((outState .running).core 0).status ≠ .halted
    ∧ ((outState .halted).core 0).status = .halted ∧ ((after (.outboundSlotSent 0 0) (outState .running)).core 0 |>.chan 4).f = 1 := by decide +kernel
theorem test_ranges : 0x200000000000 / 2 ^ 44 = 2 ∧ inRanges (outState .running).writeRanges (0x200000000000 % 2 ^ 44) 64 = true
    ∧ inRanges (outState .running).writeRanges (0x2FFFFFFFFFC0 % 2 ^ 44) 64 = false := by decide
/-- ParkedCoreResumes: each kind of park, with and without what it waits for. -/
def parked (w : ParkWhy) (f : Nat) (o : Nat) : State := modOf
  { coreOf [] with status := .parked w, sts := [stItem (.head 4 0) 0], chans := [(4, { geo := geo8, t := f, f := f })], pv := [(1, { o := o, n := 2 })] }
theorem test_parked_stream : ((parked .head 1 0).core 0).status = .parked .head ∧ ((parked .head 1 0).core 0).streamReady = true
    ∧ ((parked .head 0 0).core 0).streamReady = false := by decide
theorem test_parked_pass : ((parked (.pass 1 h0 0) 0 1).core 0).status = .parked (.pass 1 h0 0) ∧ (((parked (.pass 1 h0 0) 0 1).core 0).pview 1).o ≠ 0
    ∧ (((parked (.pass 1 h0 0) 0 0).core 0).pview 1).o = 0 := by decide
theorem test_parked_arrive : ((parked (.arrive 0 false false true h0 0) 0 0).core 0).mayArrive = true := by decide
/-- An ST.CANCEL that waits for its generation, and one that may go on (R227). -/
theorem test_parked_cancel : let k (l : List SlotFill) : Core := { coreOf [] with status := .parked .cancel, sts := [stItem (.cancel 0) 0]
                                                                                  chans := [(0, { geo := geo8, fills := l })] }
    (k []).cancelReady = some 0 ∧ (k [oneFill 1 0]).cancelReady = none ∧ ((k []).lateCancel 0).chans ≠ [] := by decide +kernel
theorem test_resume_counts : ((after (.coreResume 0 700) (parked .head 1 0)).core 0).parkt = 700 := by decide
/-- ProgramEnds: a core whose CC.HALT has issued, one that goes on, and a deadlock of its control core with debug locked and unlocked. -/
def haltedIssue : State := after (.ccHalt 0 h0) (at0 .halt)
theorem test_program_done : (haltedIssue.core 0).programDone = true ∧ ((haltedIssue.settle 0 0).core 0).runs = true
    ∧ ((coreOf []).programDone = false) ∧ ((after (.programEnd 0) haltedIssue).core 0).status = .none
    ∧ ((after (.programEnd 0) haltedIssue).core 0).beats = some 1 := by decide +kernel
def stuck : Core := coreOf [encOp ⟨some 3, none⟩ (.cc .nop)]
theorem test_deadlock : stuck.deadlocked = true ∧ stuck.haltAt.isNone = true ∧ stuck.ccHeld = some 3 ∧ (modOf stuck).trust.dbg = false := by decide +kernel
theorem test_deadlock_halts : ((after (.waymarkDeadlock 0) (modOf stuck)).core 0).status = .halted := by decide +kernel
/-- DebugWindow: mapped by mailbox 0 at the expert level, with debug locked and unlocked, and a window with no core. -/
def mapped (dbg : Bool) : State :=
  let s := modOf (coreOf [])
  { s with host := { s.host with mapped := some (0, 0), expert := true }, mbx := sset {} s.mbx 0 { s.mbox 0 with expert := true }, trust := { s.trust with dbg := dbg } }
theorem test_mapped : (mapped true).boot.ready = true ∧ (mapped true).host.mapped = some (0, 0) ∧ (mapped true).expertLevel 0 = true
    ∧ (mapped true).inReset 0 = false ∧ (mapped true).trust.dbg = true ∧ (mapped false).trust.dbg = false := by decide
theorem test_debug_value : (((after (.wymValWrite 31 0xFFFFFFFF 0) (mapped true)).core 0).wm 31).shown = 0xFFF
    ∧ (((after (.wymValWrite 31 0xFFFFFFFF 0) (mapped false)).core 0).wm 31).shown = 0 := by decide +kernel
/-- A debug signal takes effect at once without a fence in progress, and waits for one that is (R255). -/
theorem test_debug_signal : let s := (mapped true).modCore 0 fun k => { k with fence := true }
    let t := after (.wymSignal 3 0) s
    (s.core 0).fence = true ∧ (t.core 0).sigWait = [3] ∧ (t.core 0).windowHeld = false ∧ ((t.core 0).wm 3).shown = 0
      ∧ (((after .debugFenceDone t).core 0).wm 3).shown = 1 ∧ ((after .debugFenceDone t).core 0).fence = false
      ∧ (((after (.wymSignal 3 0) (mapped true)).core 0).wm 3).shown = 1
      ∧ ((mapped true).core 0).tops ((mapped true).core 0).now 3 = false := by decide +kernel
/-- A window write held by a fill keeps BUSY; a Waymark at the top is topped by a debug signal. -/
theorem test_debug_held : ({ lwStarted.core 0 with held := [.window ⟨2, 0, [1]⟩] } : Core).windowHeld = true
    ∧ ((wmCore { value := 0xFFF }).signalDbg 3 (wmCore {}).now).tops (wmCore {}).now 3 = true := by decide +kernel
/-- A core of a partition that the part lacks, and one mapped by the window. -/
theorem test_absent : ({ mapped true with host := { (mapped true).host with mapped := some (absentCore, 0) } } : State).windowCore = some absentCore
    ∧ (after (.debugWindowAccess (.read 4 4) 0) { mapped true with host := { (mapped true).host with mapped := some (absentCore, 0) } }).sent
      = [.readData [0, 0, 0, 0]] := by decide +kernel
theorem test_debug_scalar : ((after (.scalarDebugWrite 0 true 0xFFFFFFFF 0) (mapped true)).core 0).sc 0 = 0
    ∧ ((after (.scalarDebugWrite 63 true 0xFFFFFFFF 0) (mapped true)).core 0).sc 63 = 0xFFFFFFFF00000000 := by decide
theorem test_window : (mapped true).alive = true ∧ (mapped true).windowCore = some 0 ∧ (modOf (coreOf [])).windowCore = none
    ∧ onPage pageBase 4 = true ∧ onPage 0 3 = false ∧ 0 + 3 ≤ 0x1000000 := by decide
theorem test_window_read : (after (.debugWindowAccess (.read 0 2) 0) (mapped true)).sent = [.readData [0, 0]]
    ∧ (after (.debugWindowAccess (.read 0 2) 0) (modOf (coreOf []))).sent = [.completerAbort] := by decide +kernel
theorem test_window_part_word : (after (.debugWindowAccess (.read pageBase 2) 0) (mapped true)).host.ur = 1 := by decide +kernel

/-! ### The ring -/

/-- A record of the ring plan of layer 0. -/
def recOf (act off : Nat) (port : BitVec 2) (hops : Nat) : PlanRec :=
  { layer := 0, stepoff := off, act := act, kind := 0, port := port, hops := hops, slotg := 1, home := 0, pmask := 1, seq := 0, lbase := 0
    ngran := 1, src := 0 }
/-- An image of one layer that opens at step 0 and ends at step 50, with the records `l`. -/
def imageOf (l : List PlanRec) : Loaded :=
  { at_ := 0, len := 64, planAt := 0, planLen := 0, hasv := false, cores := 128, ringlen := 2, rings := 1, pos := 0, idx := 0, split := (0, 0, 0)
    layers := [⟨0, 0, 50⟩], codes := [], map := [], datas := [], digest := [], recs := l, timeouts := [8], planDigest := [] }
/-- A module of one partition in the run of context 0 under tag 5, at step n, with the plan `l`. -/
def running (l : List PlanRec) (n : Nat) : State :=
  let s := modOf (coreOf [])
  { s with
    boot := { s.boot with enabled := 1, cores := 128 }
    ctxs := [(0, { opened := true, imgsize := 4096, areas := [0], loaded := some (imageOf l), tag := some 5 })]
    run := { phase := .running, runid := 77, edition := 3 }
    ring := { s.ring with ms := n } }
/-- A parcel of one granule with TAG, HOPS and STEP as given and a right HCRC. -/
def parcel (tag hops step : Nat) : List Byte :=
  let b := zeros 4 ++ leBytes 2 tag ++ [0, BitVec.ofNat 8 hops] ++ zeros 4 ++ leBytes 4 3 ++ zeros 12 ++ leBytes 4 1 ++ leBytes 8 step ++ zeros 88
  leBytes 4 (parCrc b).toNat ++ b.drop 4

/-- StepsAdvance: a step whose landings are complete, one that misses one, a core past its DEADLINE, and a missed gate. -/
theorem test_landed : (running [] 1).runHolds = true ∧ 0 < (running [] 1).nparts ∧ ((running [] 1).part 0).step + 1 ≤ (running [] 1).schedStep
    ∧ (running [] 1).landingMissing 0 1 = false := by decide
theorem test_landing_missing : (running [recOf 0 0 0 1] 1).landingMissing 0 1 = true := by decide
theorem test_step_advances : ((after (.lndStepAdvance 0) (running [] 1)).part 0).step = 1
    ∧ ((after (.lndStepAdvance 0) (running [recOf 0 0 0 1] 1)).part 0).step = 0 := by decide
theorem test_milestone : (modOf (coreOf [])).boot.power = true ∧ (modOf (coreOf [])).run.stopLeft = 0 ∧ (modOf (coreOf [])).run.declLeft = 0
    ∧ (modOf (coreOf [])).run.phase = .idle ∧ (modOf (coreOf [])).err.lostOwed = false
    ∧ (∀ q < 4, ((modOf (coreOf [])).port q).trained = false ∧ ((modOf (coreOf [])).port q).st ≠ .ready)
    ∧ (after .milestoneAdvance (modOf (coreOf []))).ring.ms = 1 := by
  decide +kernel
theorem test_deadline : (running [] 50).lateCore = some (0, 0) ∧ (running [] 49).lateCore = none := by decide
def gateState : State :=
  let s := running [] 5
  { s with cores := [(0, { coreOf [] with chans := [(0, { active := some { someDesc with gate := some (2, 3), start := 0x100000000000, armPc := 9 }, geo := geo8 })] })] }
theorem test_gate : (gateState.lateCores 0).map (fun x => (x.1, x.2.2)) = [(0, 9)] ∧ (running [] 5).lateCores 0 = [] := by decide +kernel
/-- PlanSends: an INJECT whose stored parcel is the record's, one whose is not, and a SEND with its granules and without. -/
def injecting (e : Nat) : State :=
  let s := running [recOf 0 2 0 3] 2
  { s with lpddr := wrBytes [] 0 (zeros 12 ++ leBytes 4 e ++ zeros 12 ++ leBytes 2 1) }
theorem test_inject_due : (injecting 3).dueNow 0 0 = some (recOf 0 2 0 3) ∧ (injecting 3).storedOk (recOf 0 2 0 3) ((injecting 3).storedParcel (recOf 0 2 0 3)) = true
    ∧ (injecting 4).storedOk (recOf 0 2 0 3) ((injecting 4).storedParcel (recOf 0 2 0 3)) = false := by decide +kernel
def sending (v : BitVec 4096) : State := let s := running [recOf 1 2 2 1] 2
  { s with ring := { s.ring with slots := [(32, { valid := v })] } }
theorem test_send_due : (sending 1).dueNow 0 1 = some (recOf 1 2 2 1) ∧ (∀ g < 1, ((sending 1).sendSlot 2 0).valid.getLsbD g = true)
    ∧ (∃ g < 1, ((sending 0).sendSlot 2 0).valid.getLsbD g = false) := by decide +kernel
theorem test_send_overrun : (after (.send 0) (sending 0)).run.stopped = true ∧ (after (.send 0) (sending 1)).run.stopped = false := by decide +kernel

/-- ParcelsArrive: a READY port with a parcel of the run's tag, of another tag, with a bad HCRC; and a port that is DOWN. -/
def arriving (l : List PlanRec) : State := { running l 3 with ports := [(0, { st := .ready, trained := true })] }
theorem test_parcel_in : ((arriving []).port 0).st = .ready ∧ allZero ((parcel 5 1 2).take 64) = false ∧ parCrcOk (parcel 5 1 2) = true
    ∧ (arriving []).runHolds = true ∧ (arriving []).isRunTag (parTag (parcel 5 1 2)) = true ∧ (arriving []).isRunTag (parTag (parcel 6 1 2)) = false
    ∧ parCrcOk (parcel 6 1 2) = true ∧ ((arriving []).port 1).st ≠ .ready := by decide +kernel
theorem test_parcel_bad : parCrcOk (0xFF :: (parcel 5 1 2).drop 1) = false ∧ allZero ((0xFF :: (parcel 5 1 2).drop 1 : List Byte).take 64) = false
    ∧ (after (.parcelArrival 0 (0xFF :: (parcel 5 1 2).drop 1)) (arriving [])).ring.hdrdrop = 1 := by decide +kernel
/-- A parcel of a stopped run: its record met Step Timeout and it is landed still, or it did not and is dropped (R294, R369). -/
def stoppedRun (t : List Nat) : State := let s := arriving [recOf 2 2 0 1]
  { s with run := { s.run with phase := .idle, stopped := true }, ring := { s.ring with timedOut := t } }
theorem test_late_parcel : (stoppedRun []).run.phase = .idle ∧ (stoppedRun []).run.stopped = true ∧ parTag (parcel 5 0 2) = (stoppedRun []).runTag
    ∧ parTag (parcel 5 0 2) ≠ 0 ∧ ((stoppedRun []).port 0).st = .ready ∧ parCrcOk (parcel 5 0 2) = true
    ∧ (after (.parcelArrival 0 (parcel 5 0 2)) (stoppedRun [])).ring.matched = [] := by decide +kernel
/-- A RECVF parcel in its step, and one that first arrives two steps later (R292). -/
theorem test_recvf : (arriving [recOf 3 2 0 2]).recvRec 0 (parStep (parcel 5 1 2)) = some 0 ∧ (arriving [recOf 3 2 0 2]).planRec 0 = some (recOf 3 2 0 2)
    ∧ 0 ∉ (arriving [recOf 3 2 0 2]).ring.matched ∧ (arriving [recOf 3 2 0 2]).differs (recOf 3 2 0 2) (parcel 5 1 2) = false
    ∧ (arriving [recOf 3 2 0 2]).schedStep < (arriving [recOf 3 2 0 2]).recStep (recOf 3 2 0 2) + 2
    ∧ (arriving [recOf 3 1 0 2]).recStep (recOf 3 1 0 2) + 2 ≤ (arriving [recOf 3 1 0 2]).schedStep ∧ 0 ∉ (arriving [recOf 3 1 0 2]).ring.timedOut := by
  decide +kernel
/-- A TIME word that names a word of the present frame, and one that names none. -/
def framed : State := let s := running [] 3
  { s with ports := [(0, { st := .ready, trained := true, frames := [(2, 0)] })] }
/-- ForwardsAndDetours: a RECVF record to be forwarded, a record out of its time, one that is matched, and a parcel in a Detour buffer. -/
def forwarding (m : List Nat) (n : Nat) : State := let s := running [recOf 3 2 0 2] n
  { s with ring := { s.ring with matched := m, forwards := [⟨0, parcel 5 2 2⟩] } }
theorem test_forward : (forwarding [0] 3).runHolds = true ∧ (forwarding [0] 3).planRec 0 = some (recOf 3 2 0 2)
    ∧ (forwarding [0] 3).ring.forwards.find? (fun f => decide (f.rix = 0)) = some ⟨0, parcel 5 2 2⟩
    ∧ (forwarding [0] 3).schedStep = (forwarding [0] 3).recStep (recOf 3 2 0 2) + 1 ∧ 0 ∈ (forwarding [0] 3).ring.matched := by decide +kernel
theorem test_timeout_due : 0 ∉ (forwarding [] 10).ring.matched ∧ 0 ∉ (forwarding [] 10).ring.timedOut ∧ 2 ≤ (recOf 3 2 0 2).act
    ∧ (forwarding [] 10).recStep (recOf 3 2 0 2) + (forwarding [] 10).layerTimeout 0 ≤ (forwarding [] 10).schedStep ∧ (recOf 3 2 0 2).act = 3
    ∧ (forwarding [] 10).recStep (recOf 3 2 0 2) + 2 ≤ (forwarding [] 10).schedStep := by decide
/-- A transit entry of tag 9 from East to West over Spine lane 0, that owns every phase. -/
def transitRoute : Route := { w0 := 0xC040000100000000, w1 := 0xFFFFFFFFFFFFFFFF }
def detouring : State := let s := running [] 0
  { s with
    ring := { s.ring with ms := 32 }
    ports := [(0, { st := .ready, trained := true }), (1, { st := .ready, trained := true })]
    links := { s.links with routes := [(9, transitRoute)], detours := [(9, { queue := [(20, parcel 9 1 2)] })] } }
theorem test_detour_due : (detouring.detour 9).queue = [(20, parcel 9 1 2)] ∧ (detouring.route 9).transit = true ∧ (detouring.route 9).outp = 1
    ∧ (detouring.port 1).st = .ready ∧ (detouring.port 1).lastTx ≠ detouring.ring.ms + 1 ∧ 20 + 1 + crossTime (detouring.route 9).laneCount ≤ detouring.ring.ms
    ∧ bitOf ((detouring.route 9).sphase 1) (detouring.ring.ms % 16) = true ∧ (1 < 2 ∨ detouring.ring.ms % 4 = 0) := by decide +kernel
theorem test_takes_transit : detouring.takesTransit 0 9 = true ∧ detouring.takesTransit 0 8 = false := by decide

/-! ### Control words and ports -/

/-- A control word of TYPE `t` with SEQ 0, tag 5 and the body b, and a right CCRC. -/
def cword (t : Nat) (b : List Byte) : List Byte :=
  let w := [BitVec.ofNat 8 t, 0] ++ leBytes 2 5 ++ zeros 16 ++ (b ++ zeros 40).take 40
  leBytes 4 (crc32c w).toNat ++ w
/-- ControlWords: words of each TYPE arrive on a READY port; a word with a bad CCRC; a port that is not trained. -/
def hearing : State := { running [] 3 with ports := [(0, { st := .ready, trained := true })] }
theorem test_word : (hearing.port 0).trained = true ∧ wordOk (cword 1 []) = true ∧ wordType (cword 1 []) = 1 ∧ (hearing.port 0).st = .ready
    ∧ wordOk (cword 2 []) = true ∧ wordType (cword 2 []) = 2 ∧ hearing.isRunTag (wordTag (cword 2 [])) = true ∧ hearing.runHolds = true
    ∧ (hearing.port 1).trained = false := by decide +kernel
theorem test_word_bad : wordOk ((cword 1 []).set 0 0xFF) = false ∧ wordOk (cword 6 []) = false
    ∧ ((after (.identReceived 0 (cword 6 [])) hearing).port 0).cwdrop = 1 := by decide +kernel
theorem test_time_word : wordOk (cword 0 []) = true ∧ wordType (cword 0 []) = 0
    ∧ (((framed.heardAt 0 (cword 0 []) 40000).port 0).sentBy 0 (framed.ring.ms * 65536 + 40000) (byteAt (cword 0 []) 0x10)).isSome = true
    ∧ (((hearing.heardAt 0 (cword 0 []) 40000).port 0).sentBy 0 (hearing.ring.ms * 65536 + 40000) (byteAt (cword 0 []) 0x10)) = none := by decide +kernel
theorem test_stop_word : wordOk (cword 3 (leBytes 4 77)) = true ∧ wordType (cword 3 (leBytes 4 77)) = 3
    ∧ wordTag (cword 3 (leBytes 4 77)) = hearing.runTag ∧ leAt (wordBody (cword 3 (leBytes 4 77))) 0 4 = hearing.run.runid.toNat
    ∧ hearing.run.runid ≠ 0 ∧ hearing.runBound = true := by decide +kernel
def planOf : CPlan := { cmode := false, dres := 1, xwrap := false, planid := 7, ringlen := 2, rings := 1, pos := 0, idx := 0
                        ports := List.replicate 4 ⟨true, 1, 0x55, zeros 16⟩ }
def routed : State := { hearing with links := { hearing.links with plan := some planOf }
                                     jobs := [⟨0, 0x20, 0, 0, 9, 0, [], .peerLoad 3 false⟩] }
theorem test_msg_word : wordOk (cword 4 [0, 0, 3, 0]) = true ∧ wordType (cword 4 [0, 0, 3, 0]) = 4 ∧ routed.links.plan = some planOf
    ∧ leAt (wordBody (cword 4 [0, 0, 3, 0])) 0 1 = planOf.pos ∧ leAt (wordBody (cword 4 [0, 0, 3, 0])) 1 1 = planOf.idx
    ∧ bitOf (leAt (wordBody (cword 4 [0, 0, 3, 0])) 3 1) 0 = false ∧ leAt (wordBody (cword 4 [0, 0, 3, 0])) 4 4 ≠ 0xFFFFFFFF
    ∧ bitOf (leAt (wordBody (cword 4 [0, 0, 3, 1])) 3 1) 0 = true
    ∧ (routed.jobs.find? fun j => j.streams (byteAt (wordBody (cword 4 [0, 0, 3, 0])) 2)).isSome = true := by decide +kernel
theorem test_msg_passes : ¬ (leAt (wordBody (cword 4 [1, 0])) 0 1 = planOf.pos ∧ leAt (wordBody (cword 4 [1, 0])) 1 1 = planOf.idx) := by
  decide +kernel
/-- RingPassReports: a ring Pass whose own participants are complete; one without RING. -/
def reporting (r : Bool) : State := { running [] 3 with passes := [(18, { arr := 128, ring := r })] }
theorem test_report : (reporting true).runHolds = true ∧ ((reporting true).pass 18).ring = true ∧ ((reporting true).pass 18).reported = false
    ∧ ((reporting true).pass 18).arr = ((reporting true).participants 18).length ∧ (reporting true).sendOwed = false
    ∧ ((reporting false).pass 18).ring = false ∧ (reporting true).runImage = some (imageOf []) := by decide +kernel
theorem test_report_pos : ((after (.ringPassReport 2) (reporting true)).pass 18).pos = 1 := by decide +kernel
/-- PortStates: a cable that is accepted and one that is not, lanes that lock and that do not, a lane lost, a missing neighbour, the steering. -/
def memOf (m : Byte) : CableMem := ⟨true, 0x40, false, true, m, zeros 16, zeros 3, zeros 16, [1, 2], 3⟩
def portIn (p : Port) : State := { modOf (coreOf []) with ports := [(0, p)], links := { ({} : Links) with plan := some planOf } }
theorem test_cable : cableOk (memOf 1) = true ∧ cableOk (memOf 4) = true ∧ cableOk (memOf 5) = false ∧ cableOk (memOf 0) = false
    ∧ ((portIn { st := .held }).port 0).st = .held ∧ ((portIn { st := .held }).port 0).trained = false
    ∧ (after (.cableRead 0 (memOf 1)) (portIn { st := .held })).sent = [.pageSelect 0] := by decide
theorem test_lanes : ((portIn { st := .train }).port 0).st = .train ∧ laneCount (portLanes 0 (0x07FFFFFFF : BitVec 34)) < 32
    ∧ 32 ≤ laneCount (portLanes 0 (0x0FFFFFFFF : BitVec 34)) ∧ laneCount (portLanes 2 ((0x07F : BitVec 34) &&& 0x1FF)) < 8
    ∧ 0 = (portIn { st := .train }).ring.ms := by decide
/-- The lowest good lanes of both ends are in service; a lane that training alone finds bad is marked pending (R335). -/
theorem test_trains : let t := after (.portAlign 0 0x3FFFFFFFF 0x3FFFFFFFE 0) (portIn { st := .train, base := 0x3FFFFFFFF })
    (t.port 0).insvc = 0x1FFFFFFFE ∧ t.keep.pendUnits = [.lane 0 0] ∧ t.keep.spseq = 1 := by decide +kernel
theorem test_training_ends : ((after (.trainTimeout 0) (portIn { st := .train })).port 0).st = .down
    ∧ ((after (.trainRetry 0) (portIn { st := .down, serial := [1] })).port 0).st = .train := by decide
theorem test_lane_lost : ((portIn { st := .align, trained := true, insvc := 1 }).port 0).trained = true
    ∧ (1 : BitVec 34) &&& ((portIn { st := .align, trained := true, insvc := 1 }).port 0).insvc ≠ 0
    ∧ ((after (.linkLost 0 1) (portIn { st := .align, trained := true, insvc := 1 })).port 0).st = .down := by decide
theorem test_missing : (portIn { st := .down }).planFor 0 = some planOf ∧ planOf.ports[0]? = some ⟨true, 1, 0x55, zeros 16⟩
    ∧ ((portIn { st := .down }).port 0).found = none ∧ ((portIn { st := .down, serial := [1] }).port 0).serial ≠ [] ∧ planOf.cmode = false
    ∧ (((after (.missingNeighbour 0) (portIn { st := .down })).port 0).found).isSome = true := by decide +kernel
/-- The Milestone is steered against the mean offset, at most once in 1,024 steps (R346). -/
def steering (n : Nat) : State := let s := portIn { st := .align, trained := true, theta := 65536 }
  { s with ring := { s.ring with ms := n } }
theorem test_steer : (steering 1023).ring.ms < (steering 1023).links.steerAt + 1024 ∧ (steering 1024).links.steerAt + 1024 ≤ (steering 1024).ring.ms
    ∧ (after .milestoneSteer (steering 1024)).links.steer = -6400 ∧ (after .milestoneSteer (steering 1024)).links.steerAt = 1024 := by decide +kernel

/-! ### Batches and editions -/

/-- RunAgreement: RUN words of the five OPs reach a module in agreement. -/
def agreeing (p : RunPhase) : State := { hearing with run := { hearing.run with phase := p, b := 5000 } }
def runWord (op : Nat) : List Byte := cword 5 (leBytes 4 77 ++ [BitVec.ofNat 8 op])
theorem test_run_words : ∀ op ∈ [1, 2, 3, 4, 5], wordOk (runWord op) = true ∧ wordType (runWord op) = 5 ∧ wordTag (runWord op) = hearing.runTag
    ∧ leAt (wordBody (runWord op)) 0 4 = (agreeing .ready).run.runid.toNat ∧ leAt (wordBody (runWord op)) 4 1 = op := by decide +kernel
theorem test_agree : (agreeing .ready).run.phase ≠ .idle ∧ ((agreeing .ready).port 0).trained = true ∧ ((agreeing .ready).port 0).st = .ready
    ∧ (agreeing .ready).run.readys.all (fun r => !decide (r.pos = 0 ∧ r.idx = 0)) = true ∧ (agreeing .ready).isLeader = true
    ∧ (agreeing .ready).run.firstReady + 2 ^ 24 ≤ ({ (agreeing .ready).ring with ms := 2 ^ 24 } : Ring).ms := by decide +kernel
theorem test_bind_due : ({ (agreeing .fixed) with ring := { (agreeing .fixed).ring with ms := 3976 } } : State).run.b
    ≤ ({ (agreeing .fixed) with ring := { (agreeing .fixed).ring with ms := 3976 } } : State).ring.ms + 1024 := by decide
theorem test_admission : (agreeing .fixed).admission (agreeing .fixed).run.ctx (agreeing .fixed).run.pctx (agreeing .fixed).run.b = none := by decide
/-- RunStartsAndEnds: at B with GO, at B without, before B; a run whose cores have ended; a run that was stopped. -/
theorem test_start_due : ({ agreeing .go with ring := { (agreeing .go).ring with ms := 5000 } } : State).run.b ≤ 5000
    ∧ (agreeing .go).runImage = some (imageOf []) ∧ (agreeing .go).ring.ms < (agreeing .go).run.b ∧ (agreeing .go).boot.cores = 128 := by decide
theorem test_start_wf : Sparse.Wf {} (agreeing .go).cores := by unfold Sparse.Wf; decide
theorem test_start : ((({ agreeing .go with ring := { (agreeing .go).ring with ms := 5000 } } : State).startRun (imageOf [])).core 127).status = .running := by
  decide +kernel
/-- RunStartsAndEnds: the credits of the cores are back, and are not. -/
theorem test_credits : (agreeing .go).creditsBack = true
    ∧ ({ agreeing .go with cores := [(0, { chans := [(1, { fills := [oneFill 1 0] })] })] } : State).creditsBack = false := by decide +kernel
def endedRun : State := let s := running [] 9
  { s with boot := { s.boot with cores := 1 }, cores := [(0, { beats := some 3 })] }
theorem test_ended : endedRun.runHolds = true ∧ (∀ c ∈ endedRun.coreList, (endedRun.core c).ended = true) := by decide
theorem test_stopped : ({ running [] 9 with run := { phase := .idle, stopped := true, stopLeft := 0 } } : State).stopRecorded = false := by decide
/-- EditionEvents: a pending slot that is due, one that is not, a damaged one; the scrubber; the re-digest; the loads; a stalled transfer. -/
def pendingAt (n : Nat) (d : Bool) : State := { modOf (coreOf []) with
  ctxs := [(3, { opened := true, eslots := 2, slots := [(1, { st := .pending, edition := 8, dmg := d })], at_ := n })] }
theorem test_pending : ((pendingAt 0 false).ctx 3).slotIn .pending = some 1 ∧ ((pendingAt 0 false).ctx 3).at_ ≤ (pendingAt 0 false).ring.ms
    ∧ (((pendingAt 0 false).ctx 3).slot 1).dmg = false ∧ (((pendingAt 0 true).ctx 3).slot 1).dmg = true
    ∧ (pendingAt 1 false).ring.ms < ((pendingAt 1 false).ctx 3).at_ := by decide
theorem test_switch : (((after (.editionSwitch 3) (pendingAt 0 false)).ctx 3).slot 1).st = .live
    ∧ (((after (.editionSwitch 3) (pendingAt 0 true)).ctx 3).slot 1).st = .verified := by decide +kernel
theorem test_scrub_idle : (modOf (coreOf [])).boot.halt = false ∧ (modOf (coreOf [])).scrub.run = false := by decide
def manifestOf : Manifest := { charge := 64, manlen := 0x300, shards := [⟨0, 0, 0, 1, zeros 64⟩], runs := [], tables := [], images := [], digest := zeros 64 }
def scrubbing : State :=
  let s := modOf (coreOf [])
  { s with scrub := { s.scrub with run := true, todo := [(3, 1, 0, 8)] }
           ctxs := [(3, { opened := true, eslots := 2, areas := [0, 0x1000], slots := [(1, { st := .live, edition := 8, man := some manifestOf })] })] }
theorem test_scrubbing : scrubbing.scrub.run = true ∧ scrubbing.scrub.todo = [(3, 1, 0, 8)] ∧ scrubbing.scrubs (3, 1, 0, 8) = true
    ∧ scrubbing.scrub.due = false := by decide
/-- With no manifest to compare against, the digest holds. -/
theorem test_digest_holds : (pendingAt 0 false).digestHolds 3 1 0 = true := by decide
/-- A digest of zeros is not that of an empty shard. -/
theorem test_digest_fails : scrubbing.digestHolds 3 1 0 = false ∧ (after .scrubDigestDone scrubbing).scrub.err = 1 := by decide +kernel
theorem test_redigest : ({ modOf (coreOf []) with redigests := [⟨5, 6, []⟩] } : State).redigests = [⟨5, 6, []⟩]
    ∧ (modOf (coreOf [])).failedShards ⟨5, 6, []⟩ = none := by decide +kernel
/-- A shard of a resident edition that holds the tile; its digest is not the manifest's, and the slot is damaged (R198). -/
def homed : State :=
  let s := modOf (coreOf [])
  { s with
    redigests := [⟨5, 6, [(3, 1)]⟩]
    ctxs := [(3, { opened := true, eslots := 2, areas := [0, 0x1000], slots := [(1, { st := .live, edition := 8, man := some manifestOf, tiles := [[5]] })] })] }
theorem test_redigest_damages : homed.failedShards ⟨5, 6, [(3, 1)]⟩ = some (3, 1, [0])
    ∧ (((after .recordHandling (after .recordHandling (after .redigestDone homed))).ctx 3).slot 1).dmg = true
    ∧ (((after .recordHandling (after .recordHandling (after .redigestDone homed))).ctx 3).slot 1).bad = [0] := by decide +kernel
theorem test_load_digest : ∀ p ∈ [JobPhase.imgDigest, .planDigest, .manDigest, .shardDigest [0] [] [] 0 false],
    ((routed.jobs.map fun j => { j with phase := p }).find? Job.digests).isSome = true := by decide
def stalled : State := { routed with ring := { routed.ring with ms := 2 ^ 20 }, links := { routed.links with streams := [⟨3, [], none, 0⟩] } }
theorem test_stall : stalled.links.streams.find? (fun x => decide (x.progress + 2 ^ 20 ≤ stalled.ring.ms)) = some ⟨3, [], none, 0⟩
    ∧ (stalled.jobs.find? fun j => j.streams 3).isSome = true
    ∧ routed.links.streams.find? (fun x => decide (x.progress + 2 ^ 20 ≤ routed.ring.ms)) = none := by decide

/-! ### Mailboxes -/

/-- A core with a fill of an earlier reset generation in flight. -/
def fillsCore : Core := { ({} : Core) with chans := [(0, { fills := [oneFill 0 1] })] }
/-- A READY module whose mailbox m has one command waiting, with the policy's expert level on. -/
def posted (s : State) (m : MbxId) (opc : Nat) (ctx : Byte) (args : List Byte) : State :=
  ({ s with host := { s.host with expert := true } }).modMbox m.val fun x =>
    { x with ctail := 1, page := wrBytes [] 0x1000 (leBytes 2 opc ++ zeros 2 ++ leBytes 4 0x77 ++ [ctx] ++ zeros 7 ++ args) }
/-- The command that waits. -/
def jobAt (s : State) (m : MbxId) : Job := parseJob m ((s.mbox m.val).entry (s.mbox m.val).chead.toNat)
/-- A module with context 0 open. -/
def opened : State := { modOf (coreOf []) with ctxs := [(0, { opened := true, eslots := 2, easize := 2 ^ 20, imgsize := 4096, work := 4096, imgBase := 0, workBase := 4096, areas := [8192, 65536] })] }

/-- MailboxRegisters: a doorbell that fills the ring, one beyond it, one with a reserved bit; heads at their tails and beyond; a ring write. -/
theorem test_doorbell : let x := (modOf (coreOf [])).mbox 0
    x.armed = true ∧ (256 : Word32).toNat < 512 ∧ (x.ctail - x.chead).toNat + ((256 : BitVec 9) - x.ctail).toNat ≤ 256
      ∧ 256 < (x.ctail - x.chead).toNat + ((257 : BitVec 9) - x.ctail).toNat ∧ ((modOf (coreOf [])).mbox 1).armed = false := by decide
theorem test_doorbell_moves : ((after (.doorbell 0 ⟨256, 7⟩) (modOf (coreOf []))).mbox 0).ctail = 256
    ∧ ((after (.doorbell 0 ⟨257, 7⟩) (modOf (coreOf []))).mbox 0).ctail = 0 ∧ ((after (.doorbell 0 ⟨257, 7⟩) (modOf (coreOf []))).mbox 0).errLast = 3 := by decide +kernel
theorem test_heads : let x : Mbx := { armed := true, rtail := 3, ntail := 2 }
    ((3 : BitVec 9) - x.rhead).toNat ≤ (x.rtail - x.rhead).toNat ∧ (x.rtail - x.rhead).toNat < ((4 : BitVec 9) - x.rhead).toNat
      ∧ ((2 : Byte) - x.nhead).toNat ≤ (x.ntail - x.nhead).toNat ∧ (x.ntail - x.nhead).toNat < ((3 : Byte) - x.nhead).toNat := by decide
theorem test_ring_write : 0x1000 ≤ (0x8FFF : BitVec 16).toNat ∧ (0x8FFF : BitVec 16).toNat + [(1 : Byte)].length ≤ 0x9000
    ∧ (∀ i < [(1 : Byte)].length, ((modOf (coreOf [])).mbox 0).owned (0x8FFF + i) = false)
    ∧ ((posted opened 0 1 0xFF []).mbox 0).owned 0x1000 = true := by decide +kernel
/-- A write that touches an entry which the module owns: its first owned byte is reported, and no byte of it changes (R416, R418). -/
theorem test_owned_write : ((after (.mailboxEntryWrite 0 0x1000 ⟨[0xEE], 7⟩) (posted opened 0 1 0xFF [])).mbox 0).errLast = 4
    ∧ rdByte ((after (.mailboxEntryWrite 0 0x1000 ⟨[0xEE], 7⟩) (posted opened 0 1 0xFF [])).mbox 0).page 0x1000 = 1
    ∧ Memory.wf ((posted opened 0 1 0xFF []).mbox 0).page ∧ Sparse.Wf {} (posted opened 0 1 0xFF []).mbx := by
  unfold Sparse.Wf; decide +kernel
/-- A load from a module of the slice and from one that is not (R312). -/
def sliced : State := { opened with
  links := { opened.links with plan := some planOf, routes := [(5, { w0 := BitVec.ofNat 64 (2 ^ 12 + 2 ^ 26) })] }
  ctxs := opened.ctxs.map fun (n, k) => (n, { k with tag := some 5 }) }
theorem test_slice : opened.inSlice 0 63 63 = true ∧ (∃ p < 64, sliced.inSlice 0 p 0 = true) ∧ sliced.inSlice 0 0 1 = false := by decide +kernel
/-- A transfer over two areas of the context, one byte of which the host may not write (R307). -/
theorem test_put_allowed : (opened.ctx 0).mayWrite (2 ^ 34) 1 = false ∧ (opened.ctx 0).mayWrite (4095 + 1) 1 = true
    ∧ rdByte (putAllowed (opened.ctx 0) [] 4095 [1, 2]) 4096 = 2 ∧ putAllowed (opened.ctx 0) [] (2 ^ 34) [1] = [] := by decide +kernel

/-- A command as posted, its permission and its named arguments. -/
structure Posted where
  opc : Nat
  need : Need
  named : List (Nat × Nat)
  ctx : Byte
  args : List Byte
/-- Whether a posted command starts. -/
def Posted.ok (p : Posted) (s : State) : Bool :=
  let t := posted s 0 p.opc p.ctx p.args
  let j := jobAt t 0
  decide (t.boot.ready = true) && (decide (t.boot.halt = false) || decide (p.opc = 1)) && decide (t.nextServed = some 0)
    && decide (j.opc.toNat = p.opc) && decide (t.permission ⟨p.opc, p.need, p.named, noArgs⟩ j = 0)
    && Cmd.entryOk ⟨p.opc, p.need, p.named, noArgs⟩ ((t.mbox 0).entry (t.mbox 0).chead.toNat) j
/-- What `Posted.ok` computes is that the command starts. -/
theorem starts_of_ok (p : Posted) (s : State) (h : p.ok s = true) :
    (posted s 0 p.opc p.ctx p.args).starts 0 p.opc p.need p.named (jobAt (posted s 0 p.opc p.ctx p.args) 0) := by
  simp only [Posted.ok, Bool.and_eq_true, Bool.or_eq_true, decide_eq_true_eq] at h
  obtain ⟨⟨⟨⟨⟨h1, h2⟩, h3⟩, h4⟩, h5⟩, h6⟩ := h
  exact ⟨h1, h2, h3, rfl, h4, h5, h6⟩
/-- The commands of the tables of R422 and R426, each with arguments that meet its statement. -/
def openCmds : List Posted :=
  [⟨0x0003, .context, [], 0, []⟩, ⟨0x0041, .context, [(0, 2)], 0, leBytes 2 1008⟩,
   ⟨0x0010, .context, [(0, 32)], 0, leBytes 8 0 ++ leBytes 8 2048 ++ leBytes 8 2048 ++ leBytes 8 2048⟩, ⟨0x0011, .context, [], 0, []⟩,
   ⟨0x0012, .context, [(0, 2)], 0, leBytes 2 5⟩, ⟨0x0013, .context, [], 0, []⟩, ⟨0x0020, .context, [(0, 6)], 0, [1]⟩,
   ⟨0x0021, .context, [(0, 2), (8, 8)], 0, [1, 1] ++ zeros 6 ++ leBytes 8 1024⟩, ⟨0x0022, .context, [(0, 1)], 0, [1]⟩,
   ⟨0x0023, .context, [(0, 1)], 0, [1]⟩, ⟨0x0030, .context, [(0, 5)], 0, [9, 0, 0, 0, 0xFF]⟩, ⟨0x0031, .context, [(0, 4)], 0, [77]⟩,
   ⟨0x0040, .context, [(0, 1), (8, 24)], 0, [0] ++ zeros 15 ++ leBytes 8 0 ++ leBytes 8 4096⟩]
def otherCmds : List Posted :=
  [⟨0x0001, .plain, [], 0xFF, []⟩, ⟨0x0002, .context, [(0, 20)], 1, leBytes 4 4⟩,
   ⟨0x0050, .admin, [], 0xFF, []⟩, ⟨0x0060, .admin, [(0, 2), (8, 8)], 0xFF, [15, 1] ++ zeros 6 ++ [1]⟩, ⟨0x0061, .admin, [(0, 1)], 0xFF, [15]⟩,
   ⟨0x0062, .admin, [(0, 1)], 0xFF, [3]⟩, ⟨0x8001, .expert, [(0, 3)], 0xFF, [0, 15, 7]⟩, ⟨0x8002, .expert, [], 0xFF, []⟩,
   ⟨0x8003, .expert, [(0, 4)], 0xFF, [0, 15, 7, 2]⟩, ⟨0x8004, .expert, [(0, 24)], 0xFF, leBytes 8 0x200000000000 ++ leBytes 8 0x200000000040 ++ leBytes 8 64⟩,
   ⟨0x8005, .expert, [(0, 1), (8, 104)], 0xFF, [5]⟩, ⟨0x8010, .expert, [], 0xFF, []⟩, ⟨0x8011, .expert, [], 0xFF, []⟩, ⟨0x8012, .expert, [], 0xFF, []⟩]
theorem test_open_commands_start : ∀ p ∈ openCmds, p.ok opened = true := by decide +kernel
theorem test_other_commands_start : ∀ p ∈ otherCmds, p.ok opened = true := by decide +kernel
theorem test_opened : (opened.ctx 0).opened = true ∧ (opened.ctx 1).opened = false := by decide
/-- ContextCommands: a placement that fits, one that does not, an idle context and a pinned one. -/
theorem test_placements : (opened.placeCtx 4 unit64 unit64 unit64 4096).isSome = true ∧ (opened.placeCtx 4 (2 ^ 40) 0 0 0) = none
    ∧ (∀ e < 4, ((opened.ctx 0).slot e).pin = 0) ∧ (∀ i ∈ opened.jobs, i.names 0 = false) ∧ 1008 + 64 ≤ 1072 := by decide +kernel
theorem test_status : ((after (.status 0) (posted opened 0 0x0001 0xFF [])).mbox 0).chead = 1 := by decide +kernel
/-- ImageCommands: ranges within the context, and the first check on an empty image. -/
theorem test_image_args : let p := posted opened 0 0x0010 0 (leBytes 8 0 ++ leBytes 8 2048 ++ leBytes 8 2048 ++ leBytes 8 2048)
    let a := (jobAt p 0).imageArgs
    a.1 + a.2.1 ≤ (p.ctx 0).imgsize ∧ a.2.2.1 + a.2.2.2 ≤ (p.ctx 0).imgsize ∧ imageCheck1 (p.imageBytes (jobAt p 0)) (p.jobImage (jobAt p 0)) a.2.1 = 1 := by
  decide +kernel
theorem test_bound_image : let s := running [] 3
    (s.ctx 0).loaded = some (imageOf []) ∧ s.batchOf 0 = true ∧ (opened.batchOf 0) = false := by decide
/-- EditionCommands: a slot in each state. -/
theorem test_slots : 1 < (opened.ctx 0).eslots ∧ ((opened.ctx 0).slot 1).st = .empty ∧ ((opened.ctx 0).slot 1).dmg = false
    ∧ (opened.ctx 0).slotIn .pending = none ∧ opened.ring.ms + 1024 ≤ 1024 := by decide
theorem test_publish : let p := posted (opened.modSlot 0 1 fun k => { k with st := .verified }) 0 0x0021 0 ([1, 1] ++ zeros 6 ++ leBytes 8 1024)
    (((after (.publish 0) p).ctx 0).slot 1).st = .pending := by decide +kernel
/-- RunCommands: a free module, a batch that runs, a transfer within the ranges and one beyond. -/
theorem test_run_free : opened.runFree = true ∧ (running [] 3).runBound = true ∧ (running [] 3).run.runid.toNat = 77 ∧ opened.dmaRunning = 0
    ∧ (opened.ctx 0).mayWrite 0 4096 = true ∧ (opened.ctx 0).mayRead 0 4096 = true ∧ (opened.ctx 0).mayRead (2 ^ 35) 64 = false := by decide
theorem test_dma : let p := posted opened 0 0x0040 0 ([0] ++ zeros 15 ++ leBytes 8 0 ++ leBytes 8 64)
    rdByte (after (.dmaTransferDone ⟨true, 0, [7]⟩) (after (.dma 0) p)).lpddr 0 = 7 := by decide +kernel
/-- AdminCommands: mailbox 15 disarmed and armed, the policy unlocked and locked. -/
theorem test_admin : (opened.mbox 15).armed = false ∧ opened.inprog 15 = 0 ∧ opened.host.lock = false ∧ bitOf 3 0 = true := by decide
theorem test_strict : (after (.setStrict 0) (posted opened 0 0x0050 0xFF [])).boot.strict = true := by decide +kernel
theorem test_policy_locked : let p := posted { opened with host := { opened.host with lock := true } } 0 0x0062 0xFF [0]
    (after (.setPolicy 0) p).host.expert = true ∧ p.host.lock = true := by decide +kernel
/-- ExpertCommands: positions, ranges of a raw transfer, the mapped core, a unit of the running job, a reset under way. -/
theorem test_expert : 0 < opened.nparts ∧ posArgs [0, 15, 8] = true ∧ posArgs [0, 15, 9] = false
    ∧ (posted opened 0 0x8004 0xFF []).rawOk 0 0x200000000000 64 true = true ∧ (posted opened 0 0x8004 0xFF []).rawOk 0 0x2FFFFFFFFFC0 64 true = false
    ∧ (running [] 3).runHoldsUnit (.partition 0) = true ∧ opened.runHoldsUnit (.partition 0) = false := by decide +kernel
theorem test_resets : let s := { opened with resets := [.partition 3], jobs := [⟨0, 0x8003, 0, 0, 1, 0xFF, [], .resetting (.partition 3)⟩] }
    s.resets.contains (.partition 3) = true ∧ (s.jobs.find? fun j => j.resets (.partition 3)).isSome = true
      ∧ (after (.resetComplete (.partition 3)) s).resets = [] := by decide +kernel
theorem test_stale : let s := { opened with cores := [(0, { fillsCore with status := .none })] }
    (unitCores (.core 0 0 0)).find? (fun n => (s.core (s.coreAt n)).fills.any fun f => decide (f.rgen ≠ s.posGen n)) = some 0 := by decide +kernel
/-- DEBUG_MAP of a partition that the part lacks maps nothing that is (R2). -/
theorem test_map_absent : let p := posted { opened with boot := { opened.boot with enabled := 0x7FFF, cores := 1920 } } 0 0x8001 0xFF [15, 0, 0]
    p.nparts ≤ 15 ∧ (after (.debugMap 0) p).host.mapped = some (absentCore, 0) := by decide +kernel
/-- PresenceCommands: a press with each of the three commands waiting, with the jumper and the loop in each position, and with none waiting. -/
def waiting (opc : BitVec 16) (jumper shut : Bool) : State := { opened with
  jobs := [⟨0, opc, 0, 0, 1, 0xFF, [], .presence 0⟩], trust := { opened.trust with jumper := jumper, sealed := shut } }
theorem test_press : (waiting 0x8010 true true).trust.pres = false ∧ ((waiting 0x8010 true true).jobs.find? Job.waitsPress).isSome = true
    ∧ opened.jobs.find? Job.waitsPress = none ∧ opened.trust.regened = false ∧ opened.keep.idgen < 16 := by decide
theorem test_unlock : (after .presencePress (waiting 0x8010 true true)).trust.dbg = true
    ∧ (after .presencePress (waiting 0x8010 false true)).trust.dbg = false := by decide +kernel
theorem test_stuck : ({ opened.trust with pres := true } : Trust).stuck = false ∧ (waiting 0x8010 true true).trust.sealed = true := by decide
/-- CommandsRefused: an entry of each kind that is refused. -/
theorem test_refused : let p := posted opened 0 0x0099 0xFF []
    p.nextServed = some 0 ∧ p.nextServed ≠ some 1 ∧ (jobAt p 0).opc = 0x0099
      ∧ (jobAt (posted (opened.modMbox 1 fun x => { x with armed := true }) 1 0x0050 0xFF []) 1).opc = 0x0050
      ∧ (opened.mbox 1).mask.getLsbD 0 = false ∧ opened.expertLevel 0 = false := by decide +kernel
theorem test_refused_flags : let p := posted opened 0 0x0050 0xFF []
    4 ≤ (4 : Byte).toNat ∧ Cmd.entryOk ⟨0x50, .admin, [], noArgs⟩ ((p.mbox 0).entry 0) (jobAt p 0) = true := by decide +kernel

/-! ### The host, resets and start-up -/

/-- HostRegisters: a window with all of it writable, and none. -/
def windowed : State := { opened with host := { opened.host with window := some (0, 0) } }
theorem test_windowed : windowed.alive = true ∧ windowed.boot.ready = true ∧ windowed.window = some (0, 0) ∧ 0 + 2 ≤ bar2Size
    ∧ (∀ i < 2, (windowed.ctx 0).mayRead (0 + i) 1 = true) ∧ (∀ i < [(1 : Byte), 2].length, (windowed.ctx 0).mayWrite (0 + i) 1 = true)
    ∧ (windowed.ctx 0).mayWrite (2 ^ 34) 1 = false ∧ Memory.wf windowed.lpddr := by decide
theorem test_bar2 : rdByte (after (.bar2Access (.write 7 [9])) windowed).lpddr 7 = 9
    ∧ (after (.bar2Access (.read 7 1)) windowed).sent = [.readData [0]] := by decide
theorem test_errsum : (after (.errsumClear 0x40000001) { opened with err := { opened.err with errsum := 0xC0000003 } }).err.errsum = 0x80000002 := by decide
theorem test_scrubcfg : (after (.registerWrite 0x36000 ⟨[0xFF, 0xFF, 0xFF, 0xFF], 0⟩) opened).scrub.cfg = 0xFFFF00FF
    ∧ (after (.registerWrite 0x36002 ⟨[0xFF, 0xFF], 0⟩) opened).host.ur = 1 := by decide +kernel
theorem test_bad_tlp : (after (.malformedTlp .reservedBar0 4 5) opened).host.ur = 1 ∧ (after (.malformedTlp .poisoned 4 5) opened).host.ur = 0 := by decide
/-- Attestation: a request that is free and one too soon, an identity that is ready, an index that is reserved and one that is not. -/
def attesting (n : Nat) : State := { opened with trust := { opened.trust with idrdy := true, next := n, lim := 4096, hostReq := some (zeros 32, 0xFF) } }
theorem test_att_free : attFree false none 0 = true ∧ attFree false (some 0) 99 = false ∧ attFree false (some 0) 100 = true
    ∧ (0x80000000 : Word32).getLsbD 31 = true ∧ opened.trust.attGo = false ∧ (zeros 32).length = 32 ∧ (zeros 31).length ≠ 32 := by decide
theorem test_att_checks : (attesting 4095).attCheck 0xFF = 0 ∧ (attesting 4095).trust.next < (attesting 4095).trust.lim
    ∧ (attesting 4096).trust.lim ≤ (attesting 4096).trust.next ∧ (attesting 0).attCheck 64 = 5 ∧ (attesting 0).attCheck 63 = 0 ∧ opened.serves = true := by decide
theorem test_identity : opened.trust.idrdy = false ∧ ({ opened.trust with seeds := some [1] } : Trust).seeds.isSome = true := by decide
/-- A record whose tag was changed opens no more (R486); the index record holds LIM. -/
theorem test_sealed : let r := sealRecord [1] [2] (leBytes 8 4096)
    limOf [1] (some r) = some 4096 ∧ sealTag [1] r.nonce r.text ≠ (0 : Byte) :: r.tag ∧ limOf [1] (some { r with tag := 0 :: r.tag }) = none := by decide +kernel
/-- A resident image that still gives its digest, and one that does not (R439). -/
theorem test_resident : digest512 (⟨[1, 2], digest512 [1, 2], 0⟩ : Firmware).image = (⟨[1, 2], digest512 [1, 2], 0⟩ : Firmware).digest
    ∧ digest512 (⟨[1, 3], digest512 [1, 2], 0⟩ : Firmware).image ≠ (⟨[1, 3], digest512 [1, 2], 0⟩ : Firmware).digest ∧ opened.boot.romOk = true := by
  decide +kernel
/-- ModuleResets: a module with power and without, with PERST# asserted and not, with its firmware running. -/
theorem test_reset_states : opened.alive = true ∧ opened.boot.fwstate = 4 ∧ State.reset.boot.power = false ∧ State.reset.boot.perst = true
    ∧ opened.boot.perst = false ∧ ({ State.reset.boot with power := true } : Boot).perst = true := by decide
theorem test_reset_keeps : let t := after (.moduleReset opened.boot.straps ⟨true, 0⟩) { opened with lpddr := [(5, 6)] }
    t.lpddr = [(5, 6)] ∧ t.boot.ready = false ∧ t.ctxs = [] := by decide +kernel
/-- FirmwareLoads: GO with a length in order and out of order, and images whose header holds and does not. -/
def loading (n : Word32) (st : BitVec 4) : State := { opened with boot := { opened.boot with fwlen := n, fwstate := st, ready := false } }
theorem test_fw_go : (loading 64 1).alive = true ∧ (1 : Word32).getLsbD 0 = true ∧ (loading 8388608 1).boot.fwlen.toNat ≤ 8388608
    ∧ 8388608 % 64 = 0 ∧ 8388608 < (loading 8388672 1).boot.fwlen.toNat ∧ (loading 0 1).boot.fwlen.toNat = 0 := by decide
/-- An image without a body: its header, and 2,820 bytes of signature, padded to 64. -/
def fwImage (release floor : Nat) : List Byte :=
  [0x51, 0x46, 0x57, 0x49] ++ leBytes 2 1 ++ zeros 2 ++ leBytes 4 release ++ leBytes 4 floor ++ leBytes 8 0 ++ zeros 40 ++ zeros 64 ++ zeros 128 ++ zeros 2880
theorem test_fw_header : (loading 3136 2).boot.fwstate = 2 ∧ fwHeaderOk ((fwImage 9 9 ++ zeros 3136).take 3136) = true
    ∧ fwHeaderOk ((fwImage 8 9 ++ zeros 3136).take 3136) = false ∧ (loading 3136 2).keep.floor ≤ leAt (fwImage 9 9) 8 4 := by decide +kernel
/-- The header of an image without a body: RELEASE 9, FLOOR 9. -/
def fwHead : List Byte :=
  [0x51, 0x46, 0x57, 0x49] ++ leBytes 2 1 ++ zeros 2 ++ leBytes 4 9 ++ leBytes 4 9 ++ leBytes 8 0 ++ zeros 40 ++ digest512 [] ++ zeros 128
theorem fwHead_parts : fwHead.length = 256 ∧ fwHead.take 4 = [0x51#8, 0x46#8, 0x57#8, 0x49#8] ∧ leAt fwHead 4 2 = 1 ∧ zeroAt fwHead 6 2 = true
    ∧ leAt fwHead 8 4 = 9 ∧ leAt fwHead 12 4 = 9 ∧ leAt fwHead 0x10 8 = 0 ∧ zeroAt fwHead 0x18 40 = true ∧ zeroAt fwHead 0x80 128 = true
    ∧ (fwHead.drop 0x40).take 64 = digest512 [] := by decide +kernel
/-- The key, and the whole image: header, signature, and 60 bytes of padding. -/
def fwKey : List Byte := madeRoot (zeros 32) ++ zeros 32
def fwMade : List Byte := fwHead ++ (madeSig (zeros 32) fwHead ++ zeros 60)
theorem fwMade_length : fwMade.length = 3136 := by
  simp only [fwMade, List.length_append, fwHead_parts.1, madeSig_length _ _]
  simp [zeros]
/-- FirmwareLoads: VKEY and an image exist whose header is in order and whose signature verifies. -/
theorem test_fw_signed : fwHeaderOk fwMade = true ∧ leAt fwMade 8 4 = 9
    ∧ fwSigned ({ State.reset.keep with vkey := BitVec.ofNat 512 (leNat fwKey) } : Persist).vkeyBytes fwMade = true := by
  obtain ⟨h0, h1, h2, h3, h4, h5, h6, h7, h8, h9⟩ := fwHead_parts
  have hl : ∀ off n, off + n ≤ 256 → leAt fwMade off n = leAt fwHead off n := fun off n h => by
    unfold leAt fwMade; rw [part_append _ _ _ _ (by omega)]
  have hz : ∀ off n, off + n ≤ 256 → zeroAt fwMade off n = zeroAt fwHead off n := fun off n h => by
    unfold zeroAt fwMade; rw [part_append _ _ _ _ (by omega)]
  have hk : ({ State.reset.keep with vkey := BitVec.ofNat 512 (leNat fwKey) } : Persist).vkeyBytes = fwKey :=
    key_back _ (by rw [fwKey, List.length_append, madeRoot_length]; rfl)
  have ht4 : fwMade.take 4 = fwHead.take 4 := List.take_append_of_le_length (by omega)
  have ht : fwMade.take 0x100 = fwHead := List.take_left' h0
  have hs : (fwMade.drop 0x100).take 2820 = madeSig (zeros 32) fwHead := by
    rw [fwMade, List.drop_left' h0, List.take_left' (madeSig_length _ _)]
  have hd : (fwMade.drop 0x40).take 64 = digest512 [] := by
    rw [fwMade, part_append _ _ _ _ (by omega), h9]
  have hb : leAt fwMade 0x10 8 = 0 := by rw [hl _ _ (by omega), h6]
  have h8' : leAt fwMade 8 4 = 9 := by rw [hl _ _ (by omega), h4]
  refine ⟨?_, h8', ?_⟩
  · simp [fwHeaderOk, ht4, h1, hl, h2, hz, h3, h7, h8, h4, h5, h6, fwMade_length]
  · rw [hk]
    simp only [fwSigned, hb, List.take_zero, hd, Nat.add_zero, ht, hs, fwKey, madeSig_verifies (zeros 32) fwHead (by simp [zeros])]
    simp
theorem test_fw_floor : leAt (fwImage 9 9) 8 4 < ({ State.reset.keep with floors := [10] } : Persist).floor := by decide +kernel
def noResults : TestResults := ⟨[], [], [], [], [], 0⟩
def pathless (k : Persist) : State :=
  { opened with keep := k, boot := { opened.boot with ready := false, path := 0, fwstate := 4, results := some noResults } }
/-- The keeping flash of the reset state with a token written then (R449). -/
def tokened : Persist := { State.reset.keep with token := State.reset.keep.tokenAt 0 }
theorem test_cold : (pathless State.reset.keep).awaitsPath = true ∧ (pathless State.reset.keep).tokCode ≠ 0 := by decide
theorem test_warm : (pathless tokened).awaitsPath = true
    ∧ (pathless tokened).tokCode = 0 := by decide +kernel
theorem test_retest : State.reset.keep.addsResults noResults noResults = false ∧ State.reset.keep.addsResults noResults { noResults with cores := [5] } = true
    ∧ State.reset.keep.addsResults noResults { noResults with units := [.lane 0 33] } = true := by decide +kernel
/-- The records of an identity that opens: the current key alone, and the index. -/
def identified : State := { opened with
  trust := { opened.trust with kf := [1], kn := some [2] }
  keep := { opened.keep with idKey := some (sealRecord [1] [3] (keyPlain opened.keep.idgen [7, 8])), idLim := some (sealRecord [1] [4] (leBytes 8 4096)) } }
theorem test_identified : keySeeds identified.trust.kf identified.keep.idgen identified.keep.idPend = none
    ∧ keySeeds (identified.trust.kn.getD []) (identified.keep.idgen + 1) identified.keep.idPend = none
    ∧ keySeeds identified.trust.kf identified.keep.idgen identified.keep.idKey = some [7, 8]
    ∧ limOf identified.trust.kf identified.keep.idLim = some 4096 ∧ identified.openIdentity.trust.lim = 4096 := by decide +kernel

/-! ### Physics and faults -/

/-- SensorsAndRails: the boundaries of the rails, the floors and the wear samples. -/
theorem test_rail_step : railStep 650 750 100 1500 30 = 660 ∧ railStep 650 750 1501 1500 30 = 650 ∧ railStep 750 750 100 1500 30 = 750
    ∧ 650 % 10 = 0 := by decide
def hotRun : State := let s := running [] 3
  { s with phys := { s.phys with va := 650, vb := 650, powerOver := 100, hot := [(0, 100), (256, 100)] } }
theorem test_floors : hotRun.runHolds = true ∧ 100 ≤ hotRun.phys.powerOver ∧ 100 ≤ sget 0 hotRun.phys.hot lowKey ∧ 100 ≤ sget 0 hotRun.phys.hot 0
    ∧ hotRun.phys.tripped = [] ∧ hotRun.phys.va ≠ 0 ∧ hotRun.boot.fwstate = 4 := by decide +kernel
theorem test_power_floor : (after .powerFloor hotRun).run.stopped = true ∧ (after (.thermalFloor 0) hotRun).run.stopped = true := by decide +kernel
theorem test_wear : ∀ y ∈ [((2303, 1023) : Nat × Nat)], y.1 < 2304 ∧ y.2 < 1024 := by decide
/-- EventsHandled: a known code, an unknown one, the queue's head in each phase of its handling, records for the persistent log. -/
def evRec (n : Nat) (runid : Word32) (cls : BitVec 3) : EvRec :=
  ⟨n, 0x0201, cls, false, false, false, 1, 0, 0, runid, 0, 0, 0, 0, 0, 0, 0, 0, 0, 0, 0, 0⟩
def handling (busy : Bool) (left : Nat) : State := let s := running [] 3
  { s with run := { s.run with stopped := true, stopLeft := left }, err := { s.err with queue := [evRec 4 77 clsJob], busy := busy, ppend := [evRec 3 0 clsCond] } }
theorem test_handling : (handling true 5).accounts (evRec 4 77 clsJob) = true ∧ (handling true 5).run.stopLeft ≠ 0 ∧ (handling true 0).run.stopLeft = 0
    ∧ (handling false 0).err.queue = [evRec 4 77 clsJob] ∧ eventKnown 0x0201 = true ∧ eventKnown 0x0299 = false ∧ (0x0201 : BitVec 16) ≠ 0x0604
    ∧ (handling false 0).err.ppend = [evRec 3 0 clsCond] ∧ opened.boot.halt = false := by decide +kernel
theorem test_smc_halt : (after (.smcHalt 7) opened).boot.halt = true ∧ (after (.smcHalt 7) opened).err.haltCode = 0x0803 := by decide +kernel
/-- EventClasses: a code of each class, and a full queue. -/
theorem test_classes : eventClass 0x0803 = clsModule ∧ eventClass 0x0201 = clsJob ∧ eventClass 0x0306 ≠ clsModule ∧ eventClass 0x0306 ≠ clsJob
    ∧ (running [] 3).runBound = true ∧ 32 ≤ (List.replicate 32 (evRec 0 0 0)).length := by decide
/-- Sideband: a plan, an entry that is granted and one on a reserved tag, a shape, an endpoint ID and a queue. -/
def planBytes (serial : Nat) : List Byte :=
  [0x52, 0x43, 0x42, 0x50] ++ leBytes 2 1 ++ [1, 0] ++ zeros 4 ++ [4, 1, 3, 0] ++ leBytes 8 serial ++ zeros 200
theorem test_plan : (planBytes 0).length = 224 ∧ leAt (planBytes 0) 0x10 8 = opened.keep.modser.toNat ∧ planOk (planBytes 0) = true
    ∧ leAt (planBytes 9) 0x10 8 ≠ opened.keep.modser.toNat ∧ opened.boot.straps.coord = false ∧ shapeOk 4 1 3 0 = true
    ∧ ({ opened.boot.straps with coord := true } : Straps).coord = true := by decide +kernel
theorem test_route : (zeros 32).length = 32 ∧ opened.routeCheck 9 (parseRoute (zeros 32)) = 0 ∧ opened.routeCheck 0 (parseRoute (zeros 32)) ≠ 0 := by decide +kernel
theorem test_eid : (1 : Byte) ≠ 0 ∧ (0xFE : Byte) ≠ 0xFF ∧ (after (.setEndpointId 1) opened).phys.eid = some 1 ∧ opened.phys.eid = none := by decide +kernel
/-- LpddrStaysCanonical, StrictModeStays, HaltStays: a state that meets each, and a command that leaves a next state. -/
theorem test_invariants : State.reset.lpddr = [] ∧ Memory.wf State.reset.lpddr
    ∧ ({ opened with boot := { opened.boot with strict := true } } : State).boot.ready = true ∧ resetsModule (.telemetryRequest 1) = false
    ∧ (nextOf (exec .milestoneAdvance opened)).isSome = true := by decide
theorem test_halt_stays : (after .milestoneAdvance (after (.smcHalt 7) opened)).boot.halt = true
    ∧ (after (.moduleReset opened.boot.straps ⟨true, 0⟩) (after (.smcHalt 7) opened)).boot.halt = false := by decide +kernel

/-! ### Arithmetic -/

/-- VectorArithmetic, rounding: above and below the unit, a tie, an exact value, a stochastic one with a remainder. -/
theorem test_round_units : roundUnits .rne 0 5 0 1 = 2 ∧ roundUnits .rne 0 7 0 1 = 4 ∧ roundUnits .rtz 0 7 0 1 = 3 ∧ roundUnits .rna 0 5 0 1 = 3
    ∧ roundUnits .rne 0 5 1 0 = 10 ∧ roundUnits .rtz 0 6 0 1 = 3 ∧ (7 : Nat) % 2 ^ ((1 : Int) - 0).toNat ≠ 0
    ∧ roundUnits .dsr (2 ^ 23) 7 0 1 = 4 ∧ roundUnits .dsr (2 ^ 23 - 1) 7 0 1 = 3 := by decide
/-- VectorArithmetic, formats: a finite code, the maximum, a magnitude above it, and NaN. -/
theorem test_formats : (1 : Nat) < 2 ^ Fmt.f32.width ∧ Fmt.f32.dec 1 ≠ .nan ∧ Fmt.e4m3 ≠ .f32 ∧ Fmt.e4m3 ≠ .bf16
    ∧ Fmt.e4m3.dec Fmt.e4m3.maxCode = .fin false 14 5 ∧ Fmt.e4m3.dec 0x81 = .fin true 1 (-9)
    ∧ Fmt.e4m3.encNarrow .rne 0 (.fin true 1 9) = (0xFE, 1, 0) ∧ Fmt.e4m3.encNarrow .rne 0 (.fin true 14 5) = (0xFE, 0, 0) := by decide +kernel
/-- VectorArithmetic, comparisons: a NaN and finite operands; a clamp at each end. -/
theorem test_nan_compare : f32 0x7FC00000 = .nan ∧ (f32 0x3F800000).isFin = true ∧ cmpElem .ne .fp32 0x7FC00000 0x3F800000 = true
    ∧ cmpElem .ge .fp32 0x7FC00000 0x3F800000 = false ∧ clampI32 (2 ^ 31) = (0x7FFFFFFF, 1) ∧ clampU8 (-1) = (0, 1) := by decide +kernel
theorem test_clip_stops : clipAdd 0x7EFFFFFF 1 1 = 0xFFFFFFFF ∧ clipAdd 0xFFFFFFFF 0 1 = 0xFFFFFFFF ∧ clipAdd 0xFFFFFE 1 0 = 0xFFFFFF := by decide
/-- VectorArithmetic, a group: no guard, nothing loading, an element of the group and one of another. -/
theorem test_group : Sparse.Wf {} (coreOf []).tiles ∧ Memory.wf ((coreOf []).tile 3).bytes ∧ (coreOf []).guardTile 3 = none ∧ (coreOf []).lws = []
    ∧ 65 < 4096 ∧ 65 / 64 = 1 ∧ 4095 / 64 ≠ 1
    ∧ ((coreOf []).applyOut (veElems 66 3 .u8 1 fun e => (e, 0))).elem 3 .u8 65 = 65
    ∧ ((coreOf []).applyOut (veElems 66 3 .u8 1 fun e => (e, 0))).elem 3 .u8 66 = 0 := by unfold Sparse.Wf; decide +kernel
theorem test_marks : ([1, 0, 2] : List Nat).length ≤ [5, 6, 7].length ∧ (veFinish (.cmpr .u8 3 1 2 (.imm 2)) 3 [5, 6, 7] [1, 0, 2]).2 = some 2 := by decide
/-- MatrixArithmetic: rows that take part and do not, a scale that is a number and one that is not. -/
theorem test_matrix_wf : Sparse.Wf (0 : Word32) (coreOf []).banks ∧ Sparse.Wf (0 : Word32) (coreOf []).clips ∧ n2Args.half = none ∧ 63 < 64
    ∧ (some true : Option Bool) ≠ some (decide (32 ≤ 31)) ∧ (some true : Option Bool) = some (decide (32 ≤ 32))
    ∧ bankKey 0 1 5 ≠ bankKey 0 1 6 := by unfold Sparse.Wf; decide
theorem test_scales : (scaleSum .f4 0x7F7F 0x7F7F7F7F 0).isSome = true ∧ scaleSum .f4 0xFFFFFFFF 0x7F7F7F7F 0 = none := by decide
theorem test_products : ((weightNum .f4 0x22 0 0 0).mul (operandNum .f4 2)).isFin = true
    ∧ ((weightNum (.f8 .e4m3 .e4m3) 0x7F 0 0 0).mul (operandNum (.f8 .e4m3 .e4m3) 2)) = .nan := by decide +kernel
/-- MM.N2: two rows of weights 1 and 1 times operands 1 and 1 (R47). -/
theorem test_n2_sum : beatStep (.n2 false) 5 0x5 0 0 0 0 [1, 1] = (7, 0, 0) ∧ (beatStep (.n2 false) 0x7FFFFFFF 0x5 0 0 0 0 [1, 1]) = (0x7FFFFFFF, 1, 0) := by
  decide +kernel
/-- SpecialRegisters: a clip counter that is read and cleared. -/
theorem test_clears : selClears 0x1F = true ∧ Sparse.Wf (0 : Word32) (({ coreOf [] with clips := [(15, 9)] } : Core)).clips
    ∧ Sparse.Wf {} (modOf { coreOf [] with clips := [(15, 9)] }).cores
    ∧ (modOf { coreOf [] with clips := [(15, 9)] }).special 0 0x1F 0 = 9 := by unfold Sparse.Wf; decide

/-! ### Further states: streams, the ring, control words -/

/-- Crossing: a channel with published slots, inbound and outbound; a core that crosses with L (R228, R263). -/
theorem test_crossing_channel : let k : Core := { coreOf [] with chans := [(1, { geo := geo8, h := 9, t := 11, mask := 1 }), (4, { geo := geo8, h := 9, t := 11, mask := 7 })] }
    Sparse.Wf {} k.chans ∧ (k.doCross.chan 1).h = 11 ∧ (k.doCross.chan 1).mask = 7 ∧ (k.doCross.chan 4).mask = 1 := by unfold Sparse.Wf; decide
/-- StreamPointers: the bytes of a descriptor of inbound channel 0 that every check of R212 passes: eight slots of one granule of LPDDR. -/
def descBytes : List Byte :=
  leBytes 6 0x200000000000 ++ zeros 2 ++ leBytes 8 0x370 ++ leBytes 2 0x40 ++ zeros 6 ++ zeros 8 ++ leBytes 4 15 ++ zeros 28 ++ leBytes 5 64 ++ zeros 59
def armItem (sh : Bool) (b : List Byte) : StItem := { stItem (.arm 0 sh 1) 0 with desc := b }
def armed (y : Chan) (sh : Bool) (b : List Byte) : State := (modOf { coreOf [] with chans := [(0, y)] }).streamDone 0 (armItem sh b) 5
def parsed : Desc := parseDesc descBytes 0 0 0
theorem test_desc : descCheck (coreOf []) descBytes true parsed = 0 ∧ parsed.geo.nslot = 7 ∧ parsed.slots = 16
    ∧ descCheck (coreOf []) (zeros 128) true (parseDesc (zeros 128) 0 0 0) ≠ 0 := by decide +kernel
theorem test_arm_idle : (((armed {} false descBytes).core 0).chan 0).active = some parsed ∧ (((armed {} false descBytes).core 0).chan 0).mask = 0xFF := by
  decide +kernel
theorem test_arm_goes_on : let y : Chan := { h := 1, t := 3, geo := parsed.geo }
    (((armed y false descBytes).core 0).chan 0).active = some { parsed with first := 3 } ∧ (((armed y false descBytes).core 0).chan 0).h = 1 := by decide +kernel
theorem test_arm_shadow : let y : Chan := { h := 1, t := 3, geo := parsed.geo, active := some parsed }
    (((armed y true descBytes).core 0).chan 0).shadow = some parsed
      ∧ ((armed { y with geo := { parsed.geo with nslot := 3 } } true descBytes).core 0).stmFault = 0x87000000 := by decide +kernel
/-- StreamPointers: a descriptor whose slots end with the slots published, with a shadow and without (R215). -/
theorem test_chain : let y : Chan := { t := 1, geo := geo8, active := some { parsed with first := 0 } }
    y.t + 14 < 0 + parsed.slots ∧ 0 + parsed.slots ≤ y.t + 15 ∧ y.t + 15 < 0 + parsed.slots + parsed.slots ∧ (y.tailIn 15).active = none
      ∧ (({ y with shadow := some parsed } : Chan).tailIn 15).active = some { parsed with first := 16 } := by decide +kernel
/-- StreamPointers: ST.CANCEL with its generation free and not; the slots that it discards are zeroed (R226, R227). -/
def cancelling (y : Chan) : Core := { coreOf [] with chans := [(0, y)], sts := [stItem (.cancel 0) 0] }
theorem test_cancel : let y : Chan := { t := 5, h := 3, f := 6, geo := geo8, active := some parsed }
    y.staleBlocks = false ∧ y.geo.nslot ≠ 0 ∧ y.h + y.geo.nslot + 1 - y.t = 6 ∧ ((cancelling y).doStartSt 9).chan 0 = { y with active := none, f := 5, gen := 1, disc := 6 }
      ∧ ({ y with fills := [oneFill 1 0] } : Chan).staleBlocks = true ∧ 0 < y.geo.slotBytes
      ∧ Sparse.Wf {} (cancelling y).chans := by unfold Sparse.Wf; decide +kernel
/-- OutboundSlots: a slot that was issued before a reset of its core (R456), and a granule for a send slot. -/
def oldOut : State := let s := modOf { coreOf [] with chans := [(4, { geo := geo8, t := 1, outs := [⟨0, [(0x200000000000, 0, 1)], some (3, [[1, 2, 3]])⟩] })] }
  { s with ctxs := [(0, { opened := true, imgsize := 4096 })] }
theorem test_old_slot : rdBytes (after (.outboundSlotSent 0 0) oldOut).lpddr 0 3 = [1, 2, 3]
    ∧ (((after (.outboundSlotSent 0 0) oldOut).core 0).chan 4).f = 0 ∧ 0x400000000040 / 2 ^ 44 ≠ 2 := by decide +kernel
/-- A run that a JOB event has stopped in the present step (R465). -/
def stopped (s : State) : State := ({ s with run := { s.run with started := true } }).raise { code := 0x0202 }
/-- StepsAdvance, PlanSends, ParcelsArrive, ForwardsAndDetours: what is due in the step of the stop. -/
theorem test_stop_step : (stopped (running [] 50)).runInStep = true ∧ (stopped (running [] 50)).runHolds = false
    ∧ (stopped (running [] 50)).lateCore = some (0, 0) ∧ (stopped gateState).lateCores 0 ≠ [] ∧ (stopped gateState).stoppedNow = true := by decide +kernel
theorem test_stop_sends : (stopped (injecting 3)).dueNow 0 0 = some (recOf 0 2 0 3) ∧ (stopped (sending 1)).dueNow 0 1 = some (recOf 1 2 2 1)
    ∧ (stopped (injecting 3)).storedOk (recOf 0 2 0 3) ((stopped (injecting 3)).storedParcel (recOf 0 2 0 3)) = true
    ∧ (running [] 2).dueNow 0 0 = none ∧ (running [] 2).dueNow 0 1 = none := by decide +kernel
theorem test_stop_timeout : (stopped (forwarding [] 10)).runInStep = true ∧ 0 ∉ (stopped (forwarding [] 10)).ring.matched
    ∧ 0 ∉ (stopped (forwarding [] 10)).ring.timedOut ∧ (stopped (forwarding [] 10)).planRec 0 = some (recOf 3 2 0 2)
    ∧ (after (.stepTimeout 0) (stopped (forwarding [] 10))).ring.timedOut = [0] := by decide +kernel
/-- Two records that time out in one step are both noted, and the parcel of the second still lands (R294). -/
theorem test_two_timeouts : let s := after (.stepTimeout 1) (after (.stepTimeout 0) (arriving [recOf 2 2 0 1, recOf 2 2 1 1] |> fun s =>
      { s with run := { s.run with started := true }, ring := { s.ring with ms := 12 } }))
    s.ring.timedOut = [1, 0] := by decide +kernel
/-- A layer whose record met Step Timeout raises no Schedule Overrun (R168). -/
theorem test_timed_out_layer : let s := { running [recOf 2 2 0 1] 50 with ring := { (running [recOf 2 2 0 1] 50).ring with timedOut := [0] } }
    s.layerTimedOut 0 = true ∧ s.lateCore = none := by decide +kernel
/-- ControlWords: a STOP word after the stop under the tag of the run that was, and one with a code that is no event. -/
def stopWord (code : Nat) : List Byte := cword 3 (leBytes 4 77 ++ leBytes 2 code)
theorem test_stop_again : let s := { hearing with run := { hearing.run with phase := .idle, stopped := true, stopTag := 5 } }
    wordTag (stopWord 0x299) = s.run.stopTag ∧ s.run.stopped = true ∧ leAt (wordBody (stopWord 0x299)) 0 4 = s.run.runid.toNat
      ∧ eventKnown 0x299 = false ∧ hearing.run.phase ≠ .idle ∧ (after (.stopReceived 0 (stopWord 0x299)) hearing).run.stopped = true := by decide +kernel
theorem test_msg_ack : leAt (wordBody (cword 4 [0, 0, 3, 1])) 4 4 = 0 ∧ hearing.wordArrives 0 (cword 1 []) 1 := by
  unfold State.wordArrives; decide +kernel
/-- PortStates: a module held in reset; a peer ahead by more than a step, one behind; training with too few lanes (R25, R346). -/
def training (n : Nat) : State := { portIn { st := .train, base := 0x3FFFFFFFF } with ring := { (portIn {}).ring with ms := n } }
theorem test_peer_steps : State.reset.alive = false ∧ (training 0).alive = true ∧ (training 0).runBound = false
    ∧ (after (.portAlign 0 0x3FFFFFFFF 0x3FFFFFFFF 9) (training 0)).ring.ms = 9
    ∧ ((after (.portAlign 0 0x3FFFFFFFF 0x3FFFFFFFF 0) (training 9)).port 0).st = .skewed
    ∧ (after (.portAlign 0 1 1 0) (training 0)).boot.dgPort = true := by decide +kernel

/-! ### Further states: agreement, editions, mailboxes -/

/-- A slice of two, in agreement, with READYs and BOUNDs as given; this member leads. -/
def withRuns (p : RunPhase) (r b : List Member) : State := let s := agreeing p
  { s with links := { s.links with plan := some planOf }, run := { s.run with readys := r, bounds := b } }
def member (pos a : Nat) : Member := ⟨pos, 0, a, 0, zeros 16⟩
/-- The same under another image. -/
def inRing (im : Loaded) (r : List Member) : State := { withRuns .ready r [] with
  ctxs := [(0, { opened := true, imgsize := 4096, areas := [0], loaded := some im, tag := some 5 })] }
/-- RunAgreement: a word that is known and one that is new; every OP takes its next state. -/
theorem test_words_known : (∃ r ∈ (withRuns .ready [member 1 128] []).run.readys, r.pos = 1 ∧ r.idx = 0)
    ∧ ¬ (∃ r ∈ (withRuns .ready [member 0 128] []).run.readys, r.pos = 1 ∧ r.idx = 0)
    ∧ (∀ op ∈ [1, 2, 3, 4, 5], (agreeing .ready).runArrives 0 (runWord op) op) := by unfold State.runArrives State.wordArrives; decide +kernel
theorem test_ready_taken : (after (.ready 0 1 0 (runWord 1)) (agreeing .ready)).run.readys.length = 1
    ∧ (after (.ready 0 1 0 (runWord 1)) (after (.ready 0 1 0 (runWord 1)) (agreeing .ready))).run.readys.length = 1
    ∧ (after (.bound 0 1 0 (runWord 3)) (agreeing .bound)).run.bounds.length = 1 ∧ (after (.go 0 (runWord 4)) (agreeing .bound)).run.phase = .go
    ∧ (after (.decline 0 1 0 (runWord 5)) (agreeing .ready)).run.phase = .idle := by decide +kernel
/-- RunAgreement: READYs that differ, READYs of every member, a ring longer than its shape allows; edition numbers that agree and do not. -/
theorem test_ready_check : (withRuns .ready [member 0 128, member 1 128] []).isLeader = true ∧ (withRuns .ready [member 0 128, member 1 128] []).members = 2
    ∧ (withRuns .ready [member 0 128, member 1 128] []).hops ≤ 240 ∧ ¬ (∀ x ∈ [member 1 127], x.a = (member 0 128).a ∧ x.dig = (member 0 128).dig)
    ∧ ((withRuns .ready [member 0 128, member 1 128] []).readyCheck).run.phase ≠ .ready
    ∧ ((withRuns .ready [member 0 128] []).readyCheck).run.phase = .ready := by decide +kernel
theorem test_bound_check : ((withRuns .bound [] [⟨0, 0, 3, 0, []⟩, ⟨1, 0, 3, 0, []⟩]).boundCheck).run.phase = .go
    ∧ ((withRuns .bound [] [⟨0, 0, 3, 0, []⟩, ⟨1, 0, 4, 0, []⟩]).boundCheck).run.phase = .idle
    ∧ ((withRuns .bound [] [⟨0, 0, 3, 0, []⟩]).boundCheck).run.phase = .bound
    ∧ (inRing { imageOf [] with pos := 1 } []).isLeader = false := by decide +kernel
/-- RunAgreement: a ring of 300 modules, beyond any that a cabling plan gives, has H beyond 240. -/
theorem test_shape : let s := inRing { imageOf [] with ringlen := 300 } (List.replicate 300 (member 0 128))
    s.isLeader = true ∧ s.members = 300 ∧ 240 < s.hops ∧ ¬ ((agreeing .running).run.phase = .fixed) ∧ (agreeing .running).run.phase = .running := by
  decide +kernel
theorem test_words_stand : ((agreeing .ready).sendRun [1] false).run.words = [[1]] ∧ (agreeing .ready).run.stopLeft = 0 ∧ (agreeing .ready).run.declLeft = 0
    ∧ (agreeing .ready).runHolds = false := by decide +kernel
/-- RunStartsAndEnds: the place of a core's code in its image, and the turns of its copy. -/
theorem test_program_copy : let im := { imageOf [] with map := [(0, 0, 0)], codes := [(128, 2)] }
    im.map.getD 0 (0, 0, 0) = (0, 0, 0) ∧ im.codes.getD 0 (0, 0) = (128, 2) ∧ (opened.programTurns im 0).lpd ≠ opened.lpd := by decide +kernel
/-- A reset waits for the write that a core issued before it (R456). -/
theorem test_credits_old : oldOut.creditsBack = false := by decide +kernel
/-- EditionEvents: REGEN_IDENTITY has the lanes; a release that empties the rotation and one that does not; a mark. -/
def regening (n : Nat) : Job := ⟨0, 0x8012, 0, 0, 1, 0xFF, [], .regen n [1]⟩
theorem test_lanes_taken : (∃ i ∈ ({ scrubbing with jobs := [regening 1] } : State).jobs, i.takesLanes = true)
    ∧ (after .scrubDigestDone { scrubbing with jobs := [regening 1] }).scrub.todo = [(3, 1, 0, 8)] := by decide +kernel
theorem test_scrub_drop : (scrubbing.scrubDrop 3 1).scrub.run = false ∧ (scrubbing.scrubDrop 3 0).scrub.todo = [(3, 1, 0, 8)]
    ∧ (∀ i ∈ scrubbing.scrub.todo, i.1 = (3 : CtxId).val ∧ i.2.1 = 1) ∧ scrubbing.scrub.due = false := by decide +kernel
theorem test_mark_damage : ((scrubbing.ctx 3).slot 1).st.scrubbed = true ∧ ((scrubbing.ctx 3).slot 1).edition = 8
    ∧ (((scrubbing.markDamage 3 1 (some 0) 8).ctx 3).slot 1).bad = [0] := by decide +kernel
theorem test_loads_digest : ({ routed with jobs := routed.jobs.map fun j => { j with phase := .imgDigest } } : State).lanesBusy = false := by decide +kernel
/-- EditionCommands: every stream is in use, and the command still starts. -/
def streamless : State := { sliced with jobs := (List.range 256).map fun n => ⟨1, 0x20, 0, 0, 9, 0, [], .peerLoad (BitVec.ofNat 8 n) false⟩ }
theorem test_streamless : streamless.freeStream = none ∧ sliced.freeStream = some 0 ∧ (⟨0x20, .context, [(0, 6)], 0, [1, 1]⟩ : Posted).ok streamless = true
    ∧ ((after (.loadEdition 0) (posted streamless 0 0x20 0 [1, 1])).jobs.length) = 256 := by decide +kernel
/-- RunCommands: STOP_RUN of a batch in agreement, and of another RUNID (R365, R369). -/
theorem test_stop_run : (after (.stopRun 0) (posted (agreeing .ready) 0 0x31 0 [77])).run.stopped = true
    ∧ (after (.stopRun 0) (posted (agreeing .ready) 0 0x31 0 [78])).run.stopped = false ∧ (agreeing .ready).run.phase ≠ .idle := by decide +kernel
theorem test_dma_found : let s := after (.dma 0) (posted opened 0 0x40 0 ([1] ++ zeros 15 ++ leBytes 8 64 ++ leBytes 8 128))
    (s.jobs.find? fun j => decide (j.phase = .dmaRunning)).isSome = true ∧ opened.jobs.find? (fun j => decide (j.phase = .dmaRunning)) = none := by decide +kernel
/-- AdminCommands: a mailbox that is armed; the policy withdrawn from every mailbox. -/
def armedThree : State := opened.modMbox 3 fun x => { x with armed := true, expert := true }
theorem test_policy_withdrawn : (armedThree.mbox 3).armed = true ∧ bitOf 2 0 = false
    ∧ ((after (.setPolicy 0) (posted armedThree 0 0x62 0xFF [2])).mbox 3).expert = false ∧ (after (.setPolicy 0) (posted armedThree 0 0x62 0xFF [2])).host.lock = true := by
  decide +kernel
/-- ExpertCommands: a core with a fill and a write outstanding is reset; what is kept of it, and what waits for it (R455, R456). -/
def resetting : State := { opened with
  cores := [(0, { coreOf [] with status := .none
                                 chans := [(0, { fills := [oneFill 1 0] }), (4, { geo := geo8, t := 1, outs := [⟨0, [(0x200000000000, 0, 1)], none⟩, ⟨1, [], none⟩] })] })]
  parts := [(0, { landing := [(1, 2)], step := 5, ovr := 2, missed := [1] })], passes := [(0, { arr := 3, brk := true })]
  jobs := [⟨0, 0x8003, 0, 0, 1, 0xFF, [], .resetting (.core 0 0 0)⟩] }
theorem test_may_reset : resetting.mayReset (.core 0 0 0) = true
    ∧ ({ opened with rgen := [(0, 15)], cores := [(0, fillsCore)] } : State).gen 0 = 15
    ∧ ({ resetting with resets := [.core 0 0 0] } : State).mayReset (.core 0 0 0) = false ∧ resetting.runHolds = false
    ∧ Sparse.Wf (0 : BitVec 4) [(0, (15 : BitVec 4))] := by unfold Sparse.Wf; decide +kernel
theorem test_reset_drains : let s := resetting.startResets
    s.resets = [.core 0 0 0] ∧ (s.core 0).status = .none ∧ ((s.core 0).chan 0).fills.length = 1 ∧ (s.core 0).issued ≠ []
      ∧ (after (.resetComplete (.core 0 0 0)) s).resets = [.core 0 0 0]
      ∧ (after (.resetComplete (.core 0 0 0)) (after (.outboundSlotSent 0 0) s)).resets = [] := by decide +kernel
theorem test_reset_part : opened.boot.enabled.getLsbD 0 = true ∧ ((resetting.resetPartition 0).part 0).ovr = 0
    ∧ ((resetting.resetPartition 0).part 0).missed = [1] ∧ ((resetting.resetPartition 0).pass 0).brk = true
    ∧ Sparse.Wf {} resetting.parts ∧ Sparse.Wf {} resetting.passes := by unfold Sparse.Wf; decide +kernel
/-- PresenceCommands: a level counts its samples, and changes with the twentieth; a job in each step of REGEN_IDENTITY; spares that commit. -/
def levels (n m : Nat) : State := { opened with trust := { opened.trust with jumper := false, sealed := true, jumperN := n, sealedN := m } }
theorem test_debounce : ((levels 19 0).sampleInputs true true).trust.jumper = true ∧ ((levels 18 0).sampleInputs true true).trust.jumper = false
    ∧ ((levels 18 0).sampleInputs true true).trust.jumperN = 19 ∧ ((levels 5 0).sampleInputs false true).trust.jumperN = 0
    ∧ ((levels 0 19).sampleInputs false false).keep.sealcnt = opened.keep.sealcnt + 1 := by decide +kernel
theorem test_regen_steps : ∀ n ∈ [0, 1, 2, 3], ({ opened with jobs := [regening n] } : State).jobs.find? Job.regens = some (regening n)
    ∧ (∀ i ∈ ({ opened with jobs := [regening n] } : State).jobs, i.digests = false) := by decide
theorem test_regen_waits : ({ opened with redigests := [⟨5, 6, []⟩] } : State).redigests ≠ [] ∧ opened.regenRefusal = none
    ∧ ({ opened with trust := { opened.trust with seeds := some [1], next := 5, lim := 5 } } : State).trust.lim ≤ 5
    ∧ ({ opened with jobs := [regening 2] } : State).keep.idgen + 1 = (after .treeBuildDone { opened with jobs := [regening 2] }).keep.idgen := by decide +kernel
def spares : Persist := { tokened with fuseFree := 9, pend := [(3, 1), (9, 1)] }
theorem test_commits : spares.commitNeeds ≤ spares.fuseFree ∧ ({ spares with fuseFree := 0 } : Persist).fuseFree < spares.commitNeeds
    ∧ spares.commit.tokIntact = true ∧ spares.commit.tokValid = true ∧ spares.commit.pend = [] := by decide +kernel
/-- CommandsRefused: a command of each need that is not met, a halted module, a context that is not open. -/
theorem test_needs : (mailboxCmd (.bind 0)).isSome = true ∧ (mailboxCmd (.setStrict 1)).isSome = true ∧ (mailboxCmd (.debugUnmap 0)).isSome = true
    ∧ knownOpc 0x12 = true ∧ knownOpc 0x99 = false ∧ ({ opened with boot := { opened.boot with halt := true } } : State).boot.halt = true
    ∧ (({ opened with ctxs := [] } : State).ctx 0).opened = false
    ∧ ((after (.bind 0) (posted { opened with ctxs := [] } 0 0x12 0 [5])).mbox 0).chead = 1 := by decide +kernel

/-! ### Further states: the host, start-up, faults -/

/-- HostRegisters: a request with a wrong ECRC, while ECRC is checked and while it is not; an access of three words (R402, log entry 139). -/
theorem test_ecrc : (after (.malformedTlp .ecrc 4 5) opened).host.cfg.aerEcrc = false
    ∧ (after (.malformedTlp .ecrc 4 5) { opened with host := { opened.host with cfg := { opened.host.cfg with ecrcCheck := true } } }).host.cfg.aerEcrc = true
    ∧ (after (.registerWrite 0x36000 ⟨zeros 12, 7⟩) opened).host.ur = 1 := by decide +kernel
/-- Attestation: the index half way through a lower tree, at its end, and one on; a request of the SMC; a request too soon leaves GO set. -/
theorem test_use_index : ({ opened.trust with next := 2 ^ 19 - 1 } : Trust).useIndex.building = true
    ∧ ({ opened.trust with next := 2 ^ 20 - 1, built := true } : Trust).useIndex.idrdy = true
    ∧ ({ opened.trust with next := 2 ^ 20 - 1, idrdy := true } : Trust).useIndex.idrdy = false ∧ (5 + 1) % 2 ^ 20 ≠ 0 ∧ (5 + 1) % 2 ^ 20 ≠ 2 ^ 19 := by decide
def soon : State := { opened with trust := { opened.trust with hostLast := some 0, smcLast := some 0 } }
theorem test_go_stays : (after (.attestationGo 0x80000005) soon).trust.attGo = true ∧ (after (.attestationGo 0x80000005) soon).trust.attState = 3
    ∧ (after (.attestationReport false) (after (.attestationGo 0x80000005) soon)).trust.attGo = false
    ∧ (attFree soon.trust.smcReq.isSome soon.trust.smcLast soon.keep.ticks) = false := by decide +kernel
def smcAsks (n : Nat) (ctx : Byte) : State := { attesting n with trust := { (attesting n).trust with smcReq := some (9, zeros 32, ctx) } }
theorem test_smc_asks : (smcAsks 0 0xFF).attCheck 0xFF = 0 ∧ (smcAsks 0 0xFF).trust.next < (smcAsks 0 0xFF).trust.lim ∧ (smcAsks 0 64).attCheck 64 ≠ 0
    ∧ (smcAsks 4096 0xFF).trust.lim ≤ (smcAsks 4096 0xFF).trust.next ∧ (smcAsks 0 64).trust.smcReq = some (9, zeros 32, 64)
    ∧ (∀ i ∈ opened.jobs, i.regens = false) ∧ ({ opened.trust with idrdy := true, building := true } : Trust).building = true := by decide
theorem test_next_tree : (after .treeBuildDone { opened with trust := { opened.trust with idrdy := true, building := true } }).trust.built = true := by decide +kernel
/-- ModuleResets: an event that calls for the cold path waits for its record; DISCARD; a ROM test without a lane. -/
theorem test_reset_token : let t := after (.moduleReset opened.boot.straps ⟨true, 0⟩) { opened with keep := tokened, err := { opened.err with tokDue := true } }
    t.keep.tokValid = false ∧ tokened.tokValid = true := by decide +kernel
theorem test_reset_discard : let s : State := { opened with boot := { opened.boot with fw := some ⟨[1, 2], digest512 [1, 2], 0⟩, discard := true } }
    (after (.moduleReset opened.boot.straps ⟨true, 0⟩) s).boot.fw = none ∧ (after (.moduleReset opened.boot.straps ⟨true, 0xF⟩) s).boot.fwstate = 0xF
      ∧ (after (.moduleReset opened.boot.straps ⟨false, 0⟩) s).boot.fwstate = 0xF ∧ s.serves = true := by decide +kernel
theorem test_power_states : State.reset.boot.power = false ∧ (opened.boot.power = true ∧ opened.boot.perst = false)
    ∧ (after (.perstAssert opened.boot.straps) opened).boot.perst = true
    ∧ (after (.perstDeassert ⟨true, 0⟩) (after (.perstAssert opened.boot.straps) opened)).boot.perst = false := by decide +kernel
/-- FirmwareLoads: a load in each STATE, with a length in order and out of order; an image whose header fails is refused in STATE 0x3. -/
def holding (st : BitVec 4) (b : List Byte) : State := { loading 3136 st with boot := { (loading 3136 st).boot with fwImg := b } }
theorem test_fw_states : (holding 2 []).boot.fwlen.toNat % 64 = 0 ∧ (after (.firmwareVerified none) (holding 2 [])).boot.fwcode = 2
    ∧ (after (.firmwareVerified (some [1])) (holding 2 [])).boot.fwstate = 3
    ∧ (after (.firmwareVerified none) (holding 3 (fwImage 8 9))).boot.fwcode = 3 ∧ (after (.firmwareVerified none) (holding 4 [])).boot.fwstate = 4
    ∧ (after (.firmwareVerified none) (loading 63 2)).boot.fwcode = 1 := by decide +kernel
theorem test_fw_burns : State.reset.keep.floor < 3 ∧ State.reset.keep.floors.length < 16 ∧ (State.reset.keep.raiseFloor 3).floor = 3
    ∧ ((State.reset.keep.raiseFloor 3).raiseFloor 2).floors.length = 1 ∧ 16 ≤ (List.replicate 16 (3 : BitVec 20)).length := by decide
/-- An image that was made to verify passes every check but the floor, and starts (R483, R484). -/
theorem test_fw_starts (s : State) (h : s.keep = { State.reset.keep with vkey := BitVec.ofNat 512 (leNat fwKey) }) :
    fwHeaderOk fwMade = true ∧ fwSigned s.keep.vkeyBytes fwMade = true ∧ s.keep.floor ≤ leAt fwMade 8 4 := by
  obtain ⟨h1, h2, h3⟩ := test_fw_signed
  rw [h]
  exact ⟨h1, h3, h2 ▸ by decide⟩
/-- StartUpPaths: each phase of the two paths. -/
def inPhase (k : Persist) (path : BitVec 2) (phase : BitVec 4) : State :=
  { pathless k with boot := { (pathless k).boot with path := path, phase := phase } }
theorem test_phases : (inPhase State.reset.keep 1 3).alive = true ∧ (inPhase State.reset.keep 1 3).boot.ready = false
    ∧ (inPhase State.reset.keep 1 4).boot.results = some noResults
    ∧ (after (.coldPath noResults) (inPhase State.reset.keep 1 3)).boot.phase = 4 ∧ (after (.coldPath noResults) (inPhase State.reset.keep 1 4)).boot.phase = 5
    ∧ (after (.startupRetest noResults) (inPhase State.reset.keep 1 5)).boot.ready = true
    ∧ (after (.warmPath []) (inPhase tokened 2 7)).boot.phase = 4 ∧ (after (.warmPath []) (inPhase tokened 2 4)).boot.ready = true := by decide +kernel
/-- A token of another module, one that was changed, and one that was made invalid (R450). -/
theorem test_tokens : (pathless { tokened with modser := 4 }).tokCode = 2 ∧ (pathless { tokened with token := tokened.token.set 60 0 }).tokCode = 2
    ∧ (pathless { tokened with token := tokened.token.set 6 0 }).tokCode = 5 ∧ (pathless { tokened with token := [] }).tokCode = 1
    ∧ (0 : Nat) < 2 ^ 64 := by decide +kernel
/-- SensorsAndRails: a tenth sample and another, a wear sample within its period, a margin that stands. -/
theorem test_samples : (({ opened.keep with ticks := 9 } : Persist).ticks + 1) % 10 = 0 ∧ (opened.keep.ticks + 1) % 10 ≠ 0 ∧ opened.alive = true
    ∧ opened.ring.ms / 2 ^ 20 < ({ opened.boot with wearAt := 1 } : Boot).wearAt ∧ opened.boot.wearAt ≤ opened.ring.ms / 2 ^ 20
    ∧ (opened.wearOf 5 20).boot.wearAt = opened.boot.wearAt := by decide +kernel
/-- EventsHandled: the actions of a CONDITION, with its record and with another; a token of an earlier start-up and a later one (R451, R468). -/
def condRec : EvRec := { evRec 4 0 clsCond with code := 0x0504 }
theorem test_cond_step : let s := { scrubbing with err := { scrubbing.err with acts := [(0x0504, .damage 3 1 (some 0) 8)] } }
    condRec.code ≠ 0x0802 ∧ s.err.acts = [(condRec.code, .damage 3 1 (some 0) 8)] ∧ (((s.condStep condRec).ctx 3).slot 1).dmg = true
      ∧ (∀ a ∈ s.err.acts, a.1 ≠ (evRec 4 0 clsJob).code) := by decide +kernel
theorem test_token_step : let r := { condRec with code := 0x0205 }
    r.remote = false ∧ opened.boot.tokSeq ≤ r.seq ∧ (({ opened with keep := tokened } : State).tokenStep r).keep.tokValid = false := by decide +kernel
/-- EventClasses: a record whose key waits, one whose code the run has entered; an event that calls for the cold path. -/
theorem test_offers : (∃ q ∈ (handling false 0).err.queue, q.sameKey (evRec 9 77 clsJob) = true)
    ∧ ((77 : Word32), (0x0201 : BitVec 16)) ∈ ({ opened.err with entered := [(77, 0x0201)] } : Err).entered
    ∧ (∀ q ∈ opened.err.queue, q.sameKey (evRec 9 77 clsJob) = false) ∧ dropsToken { code := 0x0205 } = true ∧ opened.err.queue.length < 32
    ∧ bumpCount (evRec 9 77 clsJob) [{ evRec 4 77 clsJob with count := 255 }] = [{ evRec 4 77 clsJob with count := 255 }] := by decide
/-- Sideband: a module with STRAP_COORD, one with an endpoint ID and messages that wait. -/
def coordinated : State := { opened with boot := { opened.boot with straps := { opened.boot.straps with coord := true }, smbAdr := 2 } }
def messages : State := { opened with phys := { opened.phys with eid := some 9, smcq := [[1, 2], [3]] } }
theorem test_sideband : coordinated.boot.straps.coord = true ∧ coordinated.serves = true ∧ coordinated.smbAddress = 0x62 ∧ messages.phys.eid.isSome = true
    ∧ messages.phys.smcq = [1, 2] :: [[3]] ∧ messages.serves = true := by decide

end Sys2Proof.Tests
end

section
/-! SUPPORT. What a raise, a stop, a halt and the output of a mailbox leave alone, said once for each operation. -/
namespace Sys2Proof.Machine

/-- The parts of the state that no raise, stop, halt or mailbox output changes. -/
structure Apart where
  pending : List Instr
  parts : Sparse Part
  passes : Sparse Pass
  notices : List Notice
  lpddr : Memory
  bot : Sparse Word32
  keep : Persist
  trust : Trust
  phys : Phys
  rgen : Sparse (BitVec 4)
  resets : List RstUnit

/-- Those parts of a state. -/
def State.apart (s : State) : Apart :=
  ⟨s.pending, s.parts, s.passes, s.notices, s.lpddr, s.bot, s.keep, s.trust, s.phys, s.rgen, s.resets⟩

/-- What every step of a fold keeps, the fold keeps. -/
theorem foldl_proj {α β : Type} (p : State → β) {f : State → α → State} (hf : ∀ t x, p (f t x) = p t) (l : List α) :
    ∀ s, p (l.foldl f s) = p s := by
  induction l with
  | nil => exact fun _ => rfl
  | cons x l ih => exact fun s => (ih _).trans (hf s x)

section
variable (s : State)

/-! ### Mailbox output -/

@[simp] theorem signalVec_apart (v : Nat) : (s.signalVec v).apart = s.apart := by
  unfold State.signalVec
  split <;> rfl

@[simp] theorem noticeTo_apart (b : List Byte) (m : Nat) : (s.noticeTo b m).apart = s.apart := by
  unfold State.noticeTo
  dsimp only
  split
  · rfl
  · exact signalVec_apart _ _

@[simp] theorem notify_apart (kind : Nat) (ctx : Option Nat) (data : List Byte) : (s.notify kind ctx data).apart = s.apart := by
  cases ctx with
  | none => exact noticeTo_apart _ _ _
  | some x =>
    refine foldl_proj State.apart (fun t m => ?_) _ s
    split
    · exact noticeTo_apart _ _ _
    · rfl

@[simp] theorem putCompletion_apart (j : Job) (st r : Nat) (d : List Byte) : (s.putCompletion j st r d).apart = s.apart := by
  unfold State.putCompletion
  dsimp only
  split
  · exact signalVec_apart _ _
  · rfl

@[simp] theorem disarmDone_apart (m : MbxId) : (s.disarmDone m).apart = s.apart := by
  unfold State.disarmDone
  split
  · rfl
  · split
    · exact putCompletion_apart _ _ _ _ _
    · rfl

@[simp] theorem complete_apart (j : Job) (st r : Nat) (d : List Byte) : (s.complete j st r d).apart = s.apart :=
  (disarmDone_apart _ _).trans (putCompletion_apart _ _ _ _ _)

@[simp] theorem completeAll_apart (p : Job → Bool) (st r : Nat) (d : List Byte) : (s.completeAll p st r d).apart = s.apart :=
  foldl_proj State.apart (fun t j => complete_apart t j st r d) _ s

/-! ### Slots and pins -/

@[simp] theorem scrubNext_apart : s.scrubNext.apart = s.apart := by
  unfold State.scrubNext
  split <;> rfl

@[simp] theorem startRotation_apart : s.startRotation.apart = s.apart := scrubNext_apart _

@[simp] theorem scrubDue_apart : s.scrubDue.apart = s.apart := by
  unfold State.scrubDue
  split
  · exact startRotation_apart s
  · rfl

@[simp] theorem scrubDrop_apart (x e : Nat) : (s.scrubDrop x e).apart = s.apart := by
  unfold State.scrubDrop
  dsimp only
  split
  · exact (scrubDue_apart _).trans (scrubNext_apart _)
  · rfl

@[simp] theorem releaseSlot_apart (x e : Nat) : (s.releaseSlot x e).apart = s.apart := by
  unfold State.releaseSlot
  rw [notify_apart, scrubDrop_apart]
  rfl

@[simp] theorem retireSlot_apart (x e : Nat) : (s.retireSlot x e).apart = s.apart := by
  unfold State.retireSlot
  dsimp only
  split
  · exact releaseSlot_apart s x e
  · rfl

@[simp] theorem unpin_apart (x e : Nat) : (s.unpin x e).apart = s.apart := retireSlot_apart _ x e

@[simp] theorem unpinRun_apart : s.unpinRun.apart = s.apart := by
  unfold State.unpinRun
  split
  · dsimp only
    split
    · exact (unpin_apart _ _ _).trans (unpin_apart _ _ _)
    · exact unpin_apart _ _ _
  · rfl

/-! ### Records -/

@[simp] theorem noteJob_apart (r : EvRec) : (s.noteJob r).apart = s.apart := by
  unfold State.noteJob
  split
  · split
    · rfl
    · split <;> rfl
  · rfl

@[simp] theorem enqueue_apart (r : EvRec) : (s.enqueue r).apart = s.apart := by
  unfold State.enqueue
  split <;> rfl

@[simp] theorem offer_apart (r : EvRec) : (s.offer r).apart = s.apart := by
  unfold State.offer
  split
  · rfl
  · split
    · exact enqueue_apart s r
    · rfl

@[simp] theorem logEvent_apart (e : Ev) : (s.logEvent e).apart = s.apart := offer_apart _ _

/-! ### Ports -/

@[simp] theorem sendSlice_apart (type tag : Nat) (body : List Byte) : (s.sendSlice type tag body).apart = s.apart := by
  refine foldl_proj State.apart (fun t q => ?_) _ s
  split <;> rfl

@[simp] theorem jumpBy_apart (q n : Nat) : (s.jumpBy q n).apart = s.apart := logEvent_apart _ _

@[simp] theorem noteFound_apart (q : Nat) (n : Option Found) : (s.noteFound q n).apart = s.apart := by
  unfold State.noteFound
  split
  · rfl
  · cases n with
    | none => rfl
    | some x => exact logEvent_apart _ _

@[simp] theorem portReady_apart (q : Nat) : (s.portReady q).apart = s.apart := by
  unfold State.portReady
  split <;> rfl

@[simp] theorem offsetCheck_apart (q : Nat) : (s.offsetCheck q).apart = s.apart := by
  unfold State.offsetCheck
  dsimp only
  split
  · rfl
  · split
    · rfl
    · split
      · split
        · exact (portReady_apart _ _).trans (jumpBy_apart _ _ _)
        · rfl
      · exact portReady_apart s q

@[simp] theorem checkPort_apart (q : Nat) : (s.checkPort q).apart = s.apart := by
  unfold State.checkPort
  dsimp only
  split
  · rfl
  · split
    · rfl
    · split
      · exact offsetCheck_apart s q
      · split
        · split
          · exact (offsetCheck_apart _ _).trans (noteFound_apart _ _ _)
          · exact noteFound_apart _ _ _
        · split <;> rfl

/-! ### Stops and halts -/

@[simp] theorem swapImage_apart (x : Nat) : (s.swapImage x).apart = s.apart := rfl

@[simp] theorem jobEnded_apart : s.jobEnded.apart = s.apart := by
  refine foldl_proj State.apart (fun t q => ?_) _ _
  split
  · exact checkPort_apart t q
  · rfl

@[simp] theorem stopAll_apart (code : BitVec 16) (pos idx step : Nat) : (s.stopAll code pos idx step).apart = s.apart := by
  unfold State.stopAll
  dsimp only
  rw [jobEnded_apart, sendSlice_apart]
  exact unpinRun_apart s.haltCores

@[simp] theorem stopJob_apart (code : BitVec 16) (pos idx step : Nat) : (s.stopJob code pos idx step).apart = s.apart := by
  unfold State.stopJob
  split
  · exact stopAll_apart s code pos idx step
  · rfl

@[simp] theorem haltAgreement_apart : s.haltAgreement.apart = s.apart := by
  unfold State.haltAgreement
  split
  · exact completeAll_apart _ _ _ _ _
  · rfl

/-- The ports of a halted module are held (R471). -/
theorem holdPorts_apart (l : List Nat) : (l.foldl (fun s q =>
    if (s.port q).st = .ready then s.modPort q fun p => { p with st := .held, cause := 9 } else s) s).apart = s.apart :=
  foldl_proj State.apart (fun t q => by split <;> rfl) l s

/-- What a halt sets itself is not among those parts. -/
theorem setHalt_apart (c : Scrub) (d : List Redigest) (l : Links) (b : Boot) (e : Err) :
    ({ s with scrub := c, redigests := d, links := l, boot := b, err := e } : State).apart = s.apart := rfl

@[simp] theorem moduleHalt_apart (code : BitVec 16) (seq : Word32) : (s.moduleHalt code seq).apart = s.apart := by
  unfold State.moduleHalt
  split
  · rfl
  · dsimp only
    rw [setHalt_apart, holdPorts_apart, completeAll_apart, completeAll_apart]
    exact (haltAgreement_apart _).trans (stopJob_apart _ _ _ _ _)

@[simp] theorem noteSkew_apart (e : Ev) : (s.noteSkew e).apart = s.apart := by
  unfold State.noteSkew
  split <;> rfl

@[simp] theorem noteLost_apart (lost : Bool) : (s.noteLost lost).apart = s.apart := by
  unfold State.noteLost
  split <;> rfl

/-- The error state of the module is not among those parts. -/
theorem setErr_apart (e : Err) : ({ s with err := e } : State).apart = s.apart := rfl

@[simp] theorem raise_apart (e : Ev) : (s.raise e).apart = s.apart := by
  unfold State.raise
  extract_lets s0 r0 esc r s1 _ s1' seq lost s2 head sec _ s3 s4
  have h0 : s0.apart = s.apart := noteSkew_apart s e
  have h1 : s1'.apart = s.apart := by
    have : s1.apart = s.apart := (noteJob_apart _ _).trans ((offer_apart _ _).trans h0)
    unfold s1'
    split
    · exact (setErr_apart _ _).trans this
    · exact this
  have h2 : s2.apart = s.apart := by
    unfold s2
    split
    · rw [noteLost_apart]
      split <;> exact (stopJob_apart _ _ _ _ _).trans h1
    · split
      · exact (moduleHalt_apart _ _ _).trans h1
      · exact h1
  have h4 : s4.apart = s.apart := (offer_apart _ _).trans ((setErr_apart _ _).trans h2)
  split
  · split
    · exact (moduleHalt_apart _ _ _).trans h4
    · exact h4
  · exact h2

@[simp] theorem raiseBroken_apart (c i : Nat) (pc : BitVec 15) : (s.raiseBroken c i pc).apart = s.apart := raise_apart _ _

end

end Sys2Proof.Machine
end

section
/-! PROOFS. The debug window (R171, R249, R255, R272, R427, R430). -/
namespace Sys2Proof.Machine

section
variable {s : State}

/-! ### The core that the window shows -/

theorem windowCore_mapped {c : Nat} {m : MbxId} (hm : s.host.mapped = some (c, m)) (hx : s.expertLevel m.val = true) :
    s.windowCore = some c := by
  simp [State.windowCore, hm, hx]

/-- A write of the window reaches the mapped core, brought forward to the end of the beat before the one in which it stands. -/
theorem windowWrite_shown {c : CoreId} {off : Nat} {rid : BitVec 16} {f : Nat → State → State} (hr : s.boot.ready = true)
    (hw : s.windowCore = some c.val) (hi : s.inReset c = false) :
    s.windowWrite off rid f = f c (s.sync c ((s.core c).now - 1)) := by
  have hc : c.val ≠ absentCore := by have := c.isLt; unfold absentCore; omega
  simp [State.windowWrite, hr, hw, hi, hc]

theorem unlocked_of_dbg {f : State → State} (h : s.trust.dbg = true) : s.unlocked f = f s := if_pos h

theorem unlocked_of_not_dbg {f : State → State} (h : s.trust.dbg = false) : s.unlocked f = s := by
  simp [State.unlocked, h]

/-- The bytes that a read of the window returns, by what it shows. -/
theorem windowRead_before_ready {off n : Nat} {rid : BitVec 16} (hr : s.boot.ready = false) :
    s.windowRead off n rid = s.emit (.readData (zeros n)) := by
  simp [State.windowRead, hr]

theorem windowRead_none {off n : Nat} {rid : BitVec 16} (hr : s.boot.ready = true) (hw : s.windowCore = none) :
    s.windowRead off n rid = (({ s with host := { s.host with cfg := { s.host.cfg with aerAbort := true } } } : State).windowDenied off
      rid).emit .completerAbort := by
  simp [State.windowRead, hr, hw]

theorem windowRead_shown {c off n : Nat} {rid : BitVec 16} (hr : s.boot.ready = true) (hw : s.windowCore = some c)
    (hi : s.inReset c = false) :
    s.windowRead off n rid = s.emit (.readData (if c = absentCore then zeros n
      else (List.range n).map fun i => (s.core c).atNow.windowByte (off + i))) := by
  simp [State.windowRead, hr, hw, hi]

/-! ### Waymarks that the window writes -/

/-- What an earlier beat has left of a Waymark names its last signaller still. -/
@[simp] theorem roll_eng (w : Waymark) (b : Nat) : (w.roll b).eng = w.eng := by
  unfold Waymark.roll
  split <;> rfl

@[simp] theorem roll_pc (w : Waymark) (b : Nat) : (w.roll b).pc = w.pc := by
  unfold Waymark.roll
  split <;> rfl

theorem wm_setWm_same {k : Core} (h : Sparse.Wf {} k.wms) (n : Nat) (x : Waymark) : (k.setWm n x).wm n = x := sget_sset_same _ _ _ h

/-- VALUE as a debug write leaves it: what is written plus the signals of the beat, unless a re-level replaces it (R249). -/
theorem shown_of_write (w : Waymark) (v : Word32) : ({ w with wr := some (v.truncate 12) } : Waymark).shown
    = if w.re then w.level else BitVec.ofNat 12 (Nat.min (v.toNat % 4096 + w.add) 4095) := by
  simp [Waymark.shown, Waymark.sum]

/-! ### Debug signals and the fence -/

/-- A debug signal waits while a fence is in progress (R255). -/
theorem writeSignal_fenced {c : Nat} {n : Fin 32} (h : (s.core c).fence = true) :
    s.writeSignal c n = s.modCore c fun k => { k with fence := true, sigWait := k.sigWait ++ [n] } := by
  simp [State.writeSignal, h]

theorem fenceOver_held {c : Nat} (h : (s.core c).windowHeld = true) : s.fenceOver c = s := by
  simp [State.fenceOver, h]

theorem fenceOver_free {c : Nat} {n : Fin 32} (hf : (s.core c).fence = true) (hh : (s.core c).windowHeld = false)
    (hw : (s.core c).sigWait = [n]) (hd : s.trust.dbg = true) :
    s.fenceOver c = (s.setCore c { (s.core c).endFence with sigWait := [] }).debugSignal c n := by
  simp only [State.fenceOver, hf, hh, hw, Bool.not_false, Bool.and_self, if_true, List.foldl_cons, List.foldl_nil]
  exact unlocked_of_dbg hd

end

/-! ### The claim -/

/-- Register writes and the fence of a mapped core. -/
theorem windowWrites_mapped {s : State} {c : CoreId} {m : MbxId} (rid : BitVec 16) (v : Word32) (n : Fin 32) (r : Reg) (hi : Bool)
    (hr : s.boot.ready = true) (hm : s.host.mapped = some (c.val, m)) (hx : s.expertLevel m.val = true) (hc : s.inReset c = false) :
    let t := s.sync c ((s.core c).now - 1)
    exec (.wymValWrite n v rid) s = .next (t.unlocked fun s => s.writeWm c n v)
      ∧ exec (.scalarDebugWrite r hi v rid) s = .next (t.unlocked fun s => s.modCore c fun k => k.writeHalf r hi v)
      ∧ exec (.wymSignal v rid) s = .next (t.unlocked fun s => s.writeSignal c (Fin.ofNat 32 v.toNat))
      ∧ exec (.wymDbgfence v rid) s = .next (t.modCore c fun k => k.setFence v) := by
  have hw := windowCore_mapped hm hx
  exact ⟨congrArg _ (windowWrite_shown hr hw hc), congrArg _ (windowWrite_shown hr hw hc), congrArg _ (windowWrite_shown hr hw hc),
    congrArg _ (windowWrite_shown hr hw hc)⟩

/-- A read of the window that R430 lets through. -/
theorem debugWindowRead_words {s : State} {off n : Nat} {rid : BitVec 16} (ha : s.alive = true) (hn : off + n ≤ 0x1000000)
    (h : ¬ (onPage off n = true ∧ (off % 4 ≠ 0 ∨ n % 4 ≠ 0 ∨ off < pageBase ∨ pageBase + 0x10000 < off + n))) :
    exec (.debugWindowAccess (.read off n) rid) s = .next (s.windowRead off n rid) := by
  show execDebugWindowAccess (.read off n) rid s = _
  unfold execDebugWindowAccess
  dsimp only
  rw [if_neg (by simp [ha]; omega), if_neg h]

theorem debugWindowRead_partWord {s : State} {off n : Nat} {rid : BitVec 16} (ha : s.alive = true) (hn : off + n ≤ 0x1000000)
    (h : onPage off n = true ∧ (off % 4 ≠ 0 ∨ n % 4 ≠ 0 ∨ off < pageBase ∨ pageBase + 0x10000 < off + n)) :
    exec (.debugWindowAccess (.read off n) rid) s = .next (s.unsupported (loW (windowBase + off)) rid) := by
  show execDebugWindowAccess (.read off n) rid s = _
  unfold execDebugWindowAccess
  dsimp only
  rw [if_neg (by simp [ha]; omega), if_pos h]

/-- Settles O28: a write meets the mapped core brought forward, a Waymark rolled forward takes it, and a read is split by what the window shows. -/
theorem debugWindow : Obligations.DebugWindow := by
  refine ⟨fun s c m rid v n r hi hr hm hx hc => ?_, fun s c n v => ?_, fun s off n rid ha hn => ?_⟩
  · obtain ⟨hval, hsc, hsig, hfence⟩ := windowWrites_mapped rid v n r hi hr hm hx hc
    intro t
    refine ⟨fun hd => ?_, fun hd => ?_, hfence, rfl⟩
    · exact ⟨hval.trans (congrArg _ (unlocked_of_dbg hd)), hsc.trans (congrArg _ (unlocked_of_dbg hd)),
        hsig.trans (congrArg _ (unlocked_of_dbg hd))⟩
    · exact ⟨hval.trans (congrArg _ (unlocked_of_not_dbg hd)), hsc.trans (congrArg _ (unlocked_of_not_dbg hd)),
        hsig.trans (congrArg _ (unlocked_of_not_dbg hd))⟩
  · intro b s1 s2
    refine ⟨fun h => if_neg (Bool.eq_false_iff.1 h), fun h => if_pos h, fun h => if_neg (Bool.eq_false_iff.1 h), fun h => if_pos h, fun k hk => ?_,
      writeSignal_fenced, fun _ => fenceOver_held, fenceOver_free⟩
    intro w
    have hv : (k.writeValue n (v.truncate 12) b).wm n = { w with wr := some (v.truncate 12) } := wm_setWm_same hk _ _
    refine ⟨hv, ?_, wm_setWm_same hk _ _, roll_eng _ _, roll_pc _ _⟩
    rw [hv]
    exact shown_of_write w v
  · refine ⟨fun h => ?_, fun h => ?_⟩
    · rw [debugWindowRead_partWord ha hn h]
      have hl : loW (windowBase + off) = BitVec.ofNat 32 ((0x1000000 + off) % 2 ^ 32) :=
        BitVec.eq_of_toNat_eq (by simp [loW, windowBase])
      rw [hl]
    · rw [debugWindowRead_words ha hn h]
      exact ⟨fun hr => congrArg _ (windowRead_before_ready hr), fun hr hw => congrArg _ (windowRead_none hr hw),
        fun c hr hw hi => congrArg _ (windowRead_shown hr hw hi)⟩

end Sys2Proof.Machine
end

section
/-! PROOFS. BAR2, the registers of BAR0 and the requests that are refused (R10 to R14, R330, R412, R413, R429, R479, R511). -/
namespace Sys2Proof.Machine

/-! ### Ranges of bytes -/

/-- Where no gap is found in a range, every byte of it lies in one of the ranges. -/
theorem mem_range_of_firstGap_none {l : List (Nat × Nat)} (fuel : Nat) :
    ∀ {a n x : Nat}, firstGap fuel l a n = none → a ≤ x → x < a + n → ∃ r ∈ l, r.1 ≤ x ∧ x < r.1 + r.2 := by
  induction fuel with
  | zero =>
    intro a n x h _ _
    simp only [firstGap] at h
    split at h
    · omega
    · cases h
  | succ fuel ih =>
    intro a n x h ha hn
    simp only [firstGap] at h
    split at h
    · omega
    · split at h
      · cases h
      · next r hr =>
        have hp := List.find?_some hr
        simp only [Bool.and_eq_true, decide_eq_true_eq] at hp
        by_cases hx : x < r.1 + r.2
        · exact ⟨r, List.mem_of_find?_eq_some hr, by omega, hx⟩
        · exact ih h (by omega) (by omega)

/-- A byte that lies in one of the ranges leaves no gap. -/
theorem covered_byte {l : List (Nat × Nat)} {x : Nat} (h : ∃ r ∈ l, r.1 ≤ x ∧ x < r.1 + r.2) : covered l x 1 = true := by
  obtain ⟨r, hr, hlo, hhi⟩ := h
  have hs : (l.find? fun r => decide (r.1 ≤ x) && decide (x < r.1 + r.2)).isSome := by
    rw [List.find?_isSome]
    exact ⟨r, hr, by simp [hlo, hhi]⟩
  obtain ⟨q, hq⟩ := Option.isSome_iff_exists.1 hs
  have hp := List.find?_some hq
  simp only [Bool.and_eq_true, decide_eq_true_eq] at hp
  obtain ⟨y, t, rfl⟩ := List.exists_cons_of_ne_nil (List.ne_nil_of_mem hr)
  have h0 : 1 - (q.1 + q.2 - x) = 0 := by omega
  have hz : firstGap t.length (y :: t) (q.1 + q.2) 0 = none := by cases t <;> simp [firstGap]
  simp only [covered, Nat.one_ne_zero, if_false, List.length_cons, firstGap, hq, h0, hz, Option.isNone_none]

theorem firstGap_of_covered {l : List (Nat × Nat)} {a n : Nat} (hn : n ≠ 0) (h : covered l a n = true) :
    firstGap l.length l a n = none := by
  simpa [covered, hn] using h

/-- Every byte of a range that is covered is covered. -/
theorem covered_sub {l : List (Nat × Nat)} {a n x : Nat} (h : covered l a n = true) (ha : a ≤ x) (hx : x < a + n) :
    covered l x 1 = true :=
  covered_byte (mem_range_of_firstGap_none _ (firstGap_of_covered (by omega) h) ha hx)

/-! ### Bytes that a context lets the host write -/

/-- Where every byte may be written, all are. -/
theorem putAllowed_all {k : Ctx} (l : List Byte) : ∀ {m : Memory} {a : Nat},
    (∀ x, a ≤ x → x < a + l.length → k.mayWrite x 1 = true) → putAllowed k m a l = wrBytes m a l := by
  induction l with
  | nil => exact fun _ => rfl
  | cons b l ih =>
    intro m a h
    simp only [List.length_cons] at h
    rw [putAllowed, if_pos (h a (by omega) (by omega)), wrBytes]
    exact ih fun x hx hl => h x (by omega) (by omega)

/-- A byte that may not be written stays. -/
theorem rdByte_putAllowed {k : Ctx} {x : Nat} (hx : k.mayWrite x 1 = false) (l : List Byte) : ∀ {m : Memory} {a : Nat},
    Memory.wf m → rdByte (putAllowed k m a l) x = rdByte m x := by
  induction l with
  | nil => exact fun _ => rfl
  | cons b l ih =>
    intro m a hm
    rw [putAllowed]
    split
    · next ha =>
      have hne : x ≠ a := by rintro rfl; rw [hx] at ha; cases ha
      rw [ih (wrByte_wf m a b hm), rdByte_wrByte_ne m a x b hm hne]
    · exact ih hm

/-! ### BAR2 -/

section
variable (s : State)

/-- LPDDR is not touched by what is logged or counted. -/
@[simp] theorem bar2Bad_lpddr (a : Nat) : (s.bar2Bad a).lpddr = s.lpddr := by
  unfold State.bar2Bad
  dsimp only
  split
  · split
    · rfl
    · exact congrArg Apart.lpddr (logEvent_apart _ _)
  · rfl

@[simp] theorem logDropped_lpddr (x a n : Nat) : (s.logDropped x a n).lpddr = s.lpddr := by
  refine foldl_proj State.lpddr (fun t y => foldl_proj State.lpddr (fun u e => ?_) _ t) _ s
  split
  · exact congrArg Apart.lpddr (logEvent_apart _ _)
  · rfl

@[simp] theorem areaTurns_lpddr (l : List (Nat × Nat)) (a n : Nat) : (s.areaTurns l a n).lpddr = s.lpddr := by
  refine foldl_proj State.lpddr (fun t r => ?_) l s
  rfl

end

section
variable {s : State} {c : CtxId} {g off : Nat}

theorem bar2Read_ready {n : Nat} (hr : s.boot.ready = true) (hn : off + n ≤ bar2Size) :
    exec (.bar2Access (.read off n)) s = .next (s.bar2Read off n) := by
  show execBar2Access (.read off n) s = _
  simp [execBar2Access, hr, hn]

theorem bar2Write_ready {d : List Byte} (hr : s.boot.ready = true) (hn : off + d.length ≤ bar2Size) :
    exec (.bar2Access (.write off d)) s = .next (s.bar2Write off d) := by
  show execBar2Access (.write off d) s = _
  simp [execBar2Access, hr, hn]

/-- A read of the window: bytes outside the ranges are zero, and the first of them is counted. -/
theorem bar2Read_window (n : Nat) (hw : s.window = some (c, g)) :
    ∃ t : State, s.bar2Read off n = { t with sent := t.sent ++ [.readData ((List.range n).map fun i =>
        if (s.ctx c).mayRead (g * 2 ^ 30 + off + i) 1 then rdByte s.lpddr (g * 2 ^ 30 + off + i) else 0)] }
      ∧ t.lpddr = s.lpddr
      ∧ (0 < n → (s.ctx c).mayRead (g * 2 ^ 30 + off) n = true → t = s.areaTurns (s.ctx c).readAreas (g * 2 ^ 30 + off) n) := by
  unfold State.bar2Read
  rw [hw]
  dsimp only
  refine ⟨_, rfl, ?_, fun hn hc => ?_⟩
  · rw [areaTurns_lpddr]
    split
    · rfl
    · exact bar2Bad_lpddr _ _
  · rw [firstGap_of_covered hn.ne' hc]

/-- A write of the window puts down the bytes that the context lets the host write. -/
theorem bar2Write_lpddr (d : List Byte) (hw : s.window = some (c, g)) :
    (s.bar2Write off d).lpddr = putAllowed (s.ctx c) s.lpddr (g * 2 ^ 30 + off) d := by
  unfold State.bar2Write
  rw [hw]
  dsimp only
  split
  · rw [areaTurns_lpddr]
  · rw [logDropped_lpddr, bar2Bad_lpddr, areaTurns_lpddr]

/-- A write that lies in the ranges of the context whole. -/
theorem bar2Write_allowed {d : List Byte} (hw : s.window = some (c, g)) (hd : d ≠ [])
    (hc : (s.ctx c).mayWrite (g * 2 ^ 30 + off) d.length = true) :
    s.bar2Write off d = State.areaTurns { s with lpddr := wrBytes s.lpddr (g * 2 ^ 30 + off) d } (s.ctx c).writeAreas
      (g * 2 ^ 30 + off) d.length := by
  unfold State.bar2Write
  rw [hw]
  dsimp only
  rw [firstGap_of_covered (by simpa using hd) hc, putAllowed_all d fun x => covered_sub hc]

end

/-! ### Register words -/

/-- The little-endian bytes of a number that fits give it again. -/
theorem leNat_leBytes (n : Nat) : ∀ x, x < 256 ^ n → leNat (leBytes n x) = x := by
  induction n with
  | zero => intro x h; simp at h; simp [leBytes, leNat, h]
  | succ n ih =>
    intro x h
    rw [Nat.pow_succ] at h
    rw [leBytes, leNat, ih _ (by omega), BitVec.toNat_ofNat]
    omega

/-- The bytes of a register word are one word at its offset. -/
theorem regWords_word (off : Nat) (v : Word32) : regWords off (leBytes 4 v.toNat) = [(off, v)] := by
  have hv : leAt (leBytes 4 v.toNat) 0 4 = v.toNat := by
    rw [leAt, List.drop_zero, List.take_of_length_le (by rw [leBytes_length]), leNat_leBytes 4 _ (by have := v.isLt; omega)]
  simp [regWords, leBytes_length, hv]

section
variable {s : State} {off : Nat} {v : Word32} {rid : BitVec 16}

/-- A write of one whole word below the mailboxes is a register write (R429). -/
theorem registerWrite_word (ha : s.alive = true) (ho : off < 0x100000) (h4 : off % 4 = 0) :
    exec (.registerWrite off ⟨leBytes 4 v.toNat, rid⟩) s = .next (s.regWrite off v) := by
  show execRegisterWrite off ⟨leBytes 4 v.toNat, rid⟩ s = _
  simp [execRegisterWrite, ha, ho, wholeWords, h4, leBytes_length, regWords_word]

theorem registerWrite_partWord {d : List Byte} (ha : s.alive = true) (ho : off < 0x100000)
    (hd : off % 4 ≠ 0 ∨ (d.length ≠ 4 ∧ d.length ≠ 8)) :
    exec (.registerWrite off ⟨d, rid⟩) s = .next (s.unsupported (BitVec.ofNat 32 off) rid) := by
  have hw : wholeWords off d.length = false := by
    rw [Bool.eq_false_iff]
    simp only [wholeWords, ne_eq, Bool.and_eq_true, Bool.or_eq_true, decide_eq_true_eq]
    omega
  show execRegisterWrite off ⟨d, rid⟩ s = _
  simp [execRegisterWrite, ha, ho, hw, loW]

/-- A global register of a module that has started. -/
theorem regWrite_global (hr : s.boot.ready = true) (hlo : 0x110 ≤ off) (hhi : off < 0xE0000) : s.regWrite off v = s.glbWrite off v := by
  unfold State.regWrite
  rw [if_neg (by omega), hr, if_neg (by simp), if_pos hhi]

theorem errsumWrite_ready (hr : s.boot.ready = true) : s.errsumWrite v = { s with err := { s.err with
    errsum := w1c s.err.errsum 0xC000001F v
    lostCode := if v.getLsbD 30 then 0 else s.err.lostCode
    lostCount := if v.getLsbD 30 then 0 else s.err.lostCount } } := if_pos hr

theorem scrubcfgWrite_ready (hr : s.boot.ready = true) : s.scrubcfgWrite v = { s with scrub := { s.scrub with cfg := v &&& 0xFFFF00FF } } :=
  if_pos hr

theorem pwrctlWrite_ready (hr : s.boot.ready = true) : s.pwrctlWrite v = { s with phys := { s.phys with pwrctl := v &&& 0x1F07FF } } :=
  if_pos hr

/-! ### Requests that are refused -/

theorem malformedTlp_unsupported {k : BadTlp} (ha : s.alive = true) (hk : k = .noBar ∨ k = .reservedBar0 ∨ k = .notWholeWord) :
    exec (.malformedTlp k v rid) s = .next (s.unsupported v rid) := by
  show execMalformedTlp k v rid s = _
  rcases hk with rfl | rfl | rfl <;> simp [execMalformedTlp, ha]

/-- A request that is reported: the AER bit of its kind, and the log. -/
theorem malformedTlp_reported {k : BadTlp} {cfg : ConfigSpace} (ha : s.alive = true)
    (hk : (k = .malformed ∧ cfg = { s.host.cfg with aerMalformed := true }) ∨ (k = .poisoned ∧ cfg = { s.host.cfg with aerPoisoned := true })
      ∨ (k = .ecrc ∧ s.host.cfg.ecrcCheck = true ∧ cfg = { s.host.cfg with aerEcrc := true })) :
    exec (.malformedTlp k v rid) s = .next (State.logViolation { s with host := { s.host with cfg := cfg } } v rid 0xFFFFFFFF) := by
  show execMalformedTlp k v rid s = _
  rcases hk with ⟨rfl, rfl⟩ | ⟨rfl, rfl⟩ | ⟨rfl, he, rfl⟩
  · simp [execMalformedTlp, ha]
  · simp [execMalformedTlp, ha]
  · simp [execMalformedTlp, ha, he]

/-- ECRC is not looked at while it is not checked (R402). -/
theorem malformedTlp_ecrcUnchecked (ha : s.alive = true) (he : s.host.cfg.ecrcCheck = false) :
    exec (.malformedTlp .ecrc v rid) s = .next s := by
  show execMalformedTlp .ecrc v rid s = _
  simp [execMalformedTlp, ha, he]

end

/-! ### The claim -/

/-- Settles O48: a range without a gap is a range of allowed bytes, a word's bytes spell it again, and each register has its own write. -/
theorem hostRegisters : Obligations.HostRegisters := by
  intro s c g off n d v rid k ha hr a ctx w
  refine ⟨fun hw hn => ?_, fun hw hn hd hc => ?_, fun hw hn hm t ht x hx => ?_, ⟨?_, ?_⟩, ⟨?_, ?_⟩, ⟨?_, ?_⟩, ?_, fun ho hd => ?_,
    fun hk => ?_, ?_, ?_, ?_⟩
  · obtain ⟨t, ht, hl, hc⟩ := bar2Read_window n hw
    exact ⟨t, (bar2Read_ready hr hn).trans (congrArg _ ht), hl, hc⟩
  · exact (bar2Write_ready hr hn).trans (congrArg _ (bar2Write_allowed hw hd hc))
  · rw [bar2Write_ready hr hn, Host.Outcome.next.injEq] at ht
    rw [← ht, bar2Write_lpddr d hw]
    exact rdByte_putAllowed hx d hm
  · exact congrArg _ (errsumWrite_ready hr)
  · rw [registerWrite_word ha (by omega) rfl, regWrite_global hr (by omega) (by omega)]
    rfl
  · exact congrArg _ (scrubcfgWrite_ready hr)
  · rw [registerWrite_word ha (by omega) rfl, regWrite_global hr (by omega) (by omega)]
    rfl
  · exact congrArg _ (pwrctlWrite_ready hr)
  · rw [registerWrite_word ha (by omega) rfl, regWrite_global hr (by omega) (by omega)]
    rfl
  · rw [registerWrite_word ha (by omega) rfl, regWrite_global hr (by omega) (by omega)]
    rfl
  · exact registerWrite_partWord ha ho hd
  · exact malformedTlp_unsupported ha hk
  · exact malformedTlp_reported ha (.inl ⟨rfl, rfl⟩)
  · exact malformedTlp_reported ha (.inr (.inl ⟨rfl, rfl⟩))
  · by_cases he : s.host.cfg.ecrcCheck = true
    · rw [if_pos he]
      exact malformedTlp_reported ha (.inr (.inr ⟨rfl, he, rfl⟩))
    · rw [if_neg he]
      exact malformedTlp_ecrcUnchecked ha (Bool.eq_false_iff.2 he)

end Sys2Proof.Machine
end

section
/-! PROOFS. Attestation, the sealed records of the identity and the test access port (R13, R486 to R494, R502). -/
namespace Sys2Proof.Machine

/-! ### Sealed records -/

theorem keystream_length (key nonce : List Byte) (n : Nat) : (keystream key nonce n).length = n := by
  simp [keystream, zeros]

theorem xorBytes_length {a b : List Byte} (h : b.length = a.length) : (xorBytes a b).length = a.length := by
  simp [xorBytes, h]

/-- A key stream laid over a text twice leaves the text. -/
theorem xorBytes_twice : ∀ {a b : List Byte}, b.length = a.length → xorBytes (xorBytes a b) b = a
  | [], [], _ => rfl
  | x :: a, y :: b, h => by
    have ih : xorBytes (xorBytes a b) b = a := xorBytes_twice (by simpa using h)
    simp only [xorBytes, List.zipWith_cons_cons, BitVec.xor_assoc, BitVec.xor_self, BitVec.xor_zero] at ih ⊢
    rw [ih]

/-- A record opens under the key that sealed it (R486). -/
theorem sealRecord_opened (key nonce plain : List Byte) : (sealRecord key nonce plain).opened key = some plain := by
  have hk := keystream_length key nonce plain.length
  simp only [sealRecord, Sealed.opened, if_true, xorBytes_length hk]
  exact congrArg some (xorBytes_twice hk)

theorem limOf_sealRecord (key nonce : List Byte) {n : Nat} (hn : n < 2 ^ 64) :
    limOf key (some (sealRecord key nonce (leBytes 8 n))) = some n := by
  simp only [limOf, sealRecord_opened, Option.map_some]
  rw [leNat_leBytes 8 n (by omega)]

theorem opened_of_bad_tag {r : Sealed} {key : List Byte} (h : sealTag key r.nonce r.text ≠ r.tag) : r.opened key = none := if_neg h

/-! ### Indices -/

theorem useIndex_next (t : Trust) : t.useIndex.next = t.next + 1 := by
  unfold Trust.useIndex
  dsimp only
  split
  · rfl
  · split <;> rfl

/-- Half way through a lower tree the build of the next begins (R488). -/
theorem useIndex_half {t : Trust} (h : (t.next + 1) % 2 ^ 20 = 2 ^ 19) :
    t.useIndex = { t with next := t.next + 1, building := true, built := false } := if_pos h

/-- Where the indices of a lower tree end its successor takes its place. -/
theorem useIndex_end {t : Trust} (h : (t.next + 1) % 2 ^ 20 = 0) :
    t.useIndex = { t with next := t.next + 1, built := false, idrdy := t.built } := by
  have hn : ¬ (t.next + 1) % treeKeys = treeKeys / 2 := by
    rw [show (t.next + 1) % treeKeys = 0 from h]
    decide
  exact (if_neg hn).trans (if_pos h)

theorem useIndex_within {t : Trust} (h0 : (t.next + 1) % 2 ^ 20 ≠ 0) (h1 : (t.next + 1) % 2 ^ 20 ≠ 2 ^ 19) :
    t.useIndex = { t with next := t.next + 1 } :=
  (if_neg h1).trans (if_neg h0)

/-! ### Requests and reports -/

section
variable {s : State} {nonce : List Byte} {ctx : Byte} {tag : Word32}

theorem needsReserve_of_lt (h : s.trust.next < s.trust.lim) : s.needsReserve = false := by
  simpa [State.needsReserve] using h

theorem needsReserve_of_le (h : s.trust.lim ≤ s.trust.next) : s.needsReserve = true := by
  simpa [State.needsReserve] using h

/-- GO with none in progress: the request starts, or is refused in the access that made it. -/
theorem hostAttest_idle (h : s.trust.attGo = false) : s.hostAttest =
    if attFree false s.trust.hostLast s.keep.ticks then
      { s with trust := { s.trust with
          attGo := true, attState := 1, attCode := 0, report := [], hostReq := some ((s.trust.nonce ++ zeros 32).take 32, s.trust.attCtx)
          hostLast := some s.keep.ticks } }
    else { s with trust := { s.trust with attGo := true, attState := 3, attCode := 1, report := [], hostReq := none } } := by
  simp [State.hostAttest, h]

theorem attCtrl_ready {v : Word32} (hr : s.boot.ready = true) : s.attCtrl v =
    if v.getLsbD 31 then State.hostAttest { s with trust := { s.trust with attCtx := v.truncate 8 } }
    else { s with trust := { s.trust with attCtx := v.truncate 8 } } := if_pos hr

/-- What ATTESTATION_REPORT does for a request that waits. -/
theorem attestationReport_host (h : s.trust.hostReq = some (nonce, ctx)) :
    exec (.attestationReport false) s = .next (s.hostReport nonce ctx) := by
  show execAttestationReport false s = _
  simp [execAttestationReport, h]

theorem attestationReport_smc (h : s.trust.smcReq = some (tag, nonce, ctx)) :
    exec (.attestationReport true) s = .next (s.smcAttest tag nonce ctx) := by
  show execAttestationReport true s = _
  simp [execAttestationReport, h]

theorem hostReport_refused (h : s.attCheck ctx ≠ 0) : s.hostReport nonce ctx = s.hostRefused (BitVec.ofNat 8 (s.attCheck ctx)) := if_pos h

theorem hostReport_waits (h : s.attCheck ctx = 0) (hl : s.trust.lim ≤ s.trust.next) : s.hostReport nonce ctx = s := by
  simp [State.hostReport, h, needsReserve_of_le hl]

theorem hostReport_signed (h : s.attCheck ctx = 0) (hl : s.trust.next < s.trust.lim) : s.hostReport nonce ctx =
    { s with trust := { s.trust.useIndex with
      attGo := false, attState := 2, attCode := 0, attCount := sat16 s.trust.attCount 1, report := s.signedReport false nonce ctx
      hostReq := none } } := by
  simp [State.hostReport, h, needsReserve_of_lt hl]

theorem smcAttest_refused (h : s.attCheck ctx ≠ 0) : s.smcAttest tag nonce ctx = s.smcRefused tag (BitVec.ofNat 8 (s.attCheck ctx)) :=
  if_pos h

theorem smcAttest_waits (h : s.attCheck ctx = 0) (hl : s.trust.lim ≤ s.trust.next) : s.smcAttest tag nonce ctx = s := by
  simp [State.smcAttest, h, needsReserve_of_le hl]

theorem smcAttest_signed (h : s.attCheck ctx = 0) (hl : s.trust.next < s.trust.lim) : s.smcAttest tag nonce ctx =
    State.smcReport { s with trust := { s.trust.useIndex with smcReq := none } } tag 0 (s.signedReport true nonce ctx) := by
  simp [State.smcAttest, h, needsReserve_of_lt hl]

/-- A host request that waits for an index has one reserved (R487). -/
theorem identityReserve_host (hq : s.trust.hostReq = some (nonce, ctx)) (h : s.attCheck ctx = 0) (hl : s.trust.lim ≤ s.trust.next) :
    exec (.identityReserve true) s = .next s.reserve := by
  have hw : s.reserveWanted = true := by simp [State.reserveWanted, hq, h, needsReserve_of_le hl]
  show execIdentityReserve true s = _
  simp [execIdentityReserve, hw]

/-- A request of the SMC, by its nonce and by whether it may start (R475, R492). -/
theorem smcAttestationRequest_badNonce (hs : s.serves = true) (hn : nonce.length ≠ 32) :
    exec (.smcAttestationRequest tag nonce ctx) s = .next (s.smcAck tag 3 0) := by
  show execSmcAttestationRequest tag nonce ctx s = _
  simp [execSmcAttestationRequest, hs, hn]

theorem smcAttestationRequest_ok (hs : s.serves = true) (hn : nonce.length = 32) :
    exec (.smcAttestationRequest tag nonce ctx) s =
      if attFree s.trust.smcReq.isSome s.trust.smcLast s.keep.ticks then
        .next { s.smcAck tag 0 0 with trust := { s.trust with smcReq := some (tag, nonce, ctx), smcLast := some s.keep.ticks } }
      else .next ((s.smcAck tag 0 0).smcReport tag 1 []) := by
  show execSmcAttestationRequest tag nonce ctx s = _
  simp only [execSmcAttestationRequest, hs, hn, Bool.not_true, Bool.false_eq_true, if_false, ne_eq, not_true]
  rfl

/-! ### Builds of trees -/

theorem treeBuildDone_eq (hj : ∀ i ∈ s.jobs, i.regens = false) :
    exec .treeBuildDone s =
      if s.boot.ready && !s.trust.idrdy && s.trust.seeds.isSome then .next { s with trust := { s.trust with idrdy := true, building := false } }
      else if s.trust.building then .next { s with trust := { s.trust with building := false, built := true } }
      else .next s := by
  have hn : s.jobs.find? Job.regens = none := List.find?_eq_none.2 fun i hi => by simp [hj i hi]
  show execTreeBuildDone s = _
  simp [execTreeBuildDone, hn]

end

/-! ### The claim -/

/-- The host's requests and reports. -/
theorem attestationGo_cases (s : State) (v : Word32) (hr : s.boot.ready = true) :
    let s1 : State := { s with trust := { s.trust with attCtx := v.truncate 8 } }
    (v.getLsbD 31 = false → exec (.attestationGo v) s = .next s1)
    ∧ (v.getLsbD 31 = true → exec (.attestationGo v) s = .next s1.hostAttest) := by
  refine ⟨fun h => congrArg _ ((attCtrl_ready hr).trans ?_), fun h => congrArg _ ((attCtrl_ready hr).trans (if_pos h))⟩
  exact if_neg (Bool.eq_false_iff.1 h)

/-- Settles O49: each request by what stands in its way, an index by its place in its lower tree, and a key stream that is its own inverse. -/
theorem attestation : Obligations.Attestation := by
  refine ⟨fun s v tag nonce ctx basic => ?_, fun t => ?_, fun key nonce plain n => ?_, fun r key h => ?_⟩
  · intro s1
    refine ⟨fun hr => (attestationGo_cases s v hr).1, fun hr hv hg hf => ?_, fun hr hv hg hf => ?_, fun hr hv hg => ?_, fun hq => ?_,
      fun hq => ?_, fun hq => ?_, fun hs hn => ?_, smcAttestationRequest_badNonce, fun hr hj => ?_, rfl⟩
    · rw [(attestationGo_cases s v hr).2 hv]
      exact congrArg _ ((hostAttest_idle (s := s1) hg).trans (if_pos hf))
    · rw [(attestationGo_cases s v hr).2 hv]
      exact congrArg _ ((hostAttest_idle (s := s1) hg).trans (if_neg (Bool.eq_false_iff.1 hf)))
    · rw [(attestationGo_cases s v hr).2 hv]
      exact congrArg _ (if_pos hg)
    · show execAttestationReport false s = _
      simp [execAttestationReport, hq]
    · rw [attestationReport_host hq]
      exact ⟨fun h hl => congrArg _ (hostReport_signed h hl), fun h => congrArg _ (hostReport_refused h),
        fun h hl => ⟨congrArg _ (hostReport_waits h hl), identityReserve_host hq h hl⟩⟩
    · rw [attestationReport_smc hq]
      exact ⟨fun h hl => congrArg _ (smcAttest_signed h hl), fun h => congrArg _ (smcAttest_refused h),
        fun h hl => congrArg _ (smcAttest_waits h hl)⟩
    · rw [smcAttestationRequest_ok hs hn]
      exact ⟨fun h => if_pos h, fun h => if_neg (Bool.eq_false_iff.1 h)⟩
    · rw [treeBuildDone_eq hj]
      exact ⟨fun hi hk => if_pos (by simp [hr, hi, hk]), fun hi hb => (if_neg (by simp [hi])).trans (if_pos hb)⟩
  · intro n
    refine ⟨useIndex_next t, fun h => ?_, fun h => ?_, useIndex_within⟩
    · rw [useIndex_half h]
      exact ⟨rfl, rfl, rfl⟩
    · rw [useIndex_end h]
      exact ⟨rfl, rfl⟩
  · exact ⟨sealRecord_opened key nonce plain, limOf_sealRecord key nonce⟩
  · exact ⟨opened_of_bad_tag h, by simp [limOf, opened_of_bad_tag h]⟩

end Sys2Proof.Machine
end

section
/-! PROOFS. The commands of the expert level and the resets below module level (R268, R426, R427, R453 to R456). -/
namespace Sys2Proof.Machine

/-! ### The commands -/

section
variable {s : State} {m : MbxId} {j : Job}

theorem needPos_in {f : Fin 16 → Fin 16 → Fin 9 → State} (h : leAt j.args 0 1 < s.nparts) :
    s.needPos j f = f (Fin.ofNat 16 (physPart s.boot.enabled (leAt j.args 0 1))) (Fin.ofNat 16 (leAt j.args 1 1))
      (Fin.ofNat 9 (leAt j.args 2 1)) := if_pos h

theorem mapKey_in (h : leAt j.args 0 1 < s.nparts) :
    s.mapKey j.args = s.coreOf (Fin.ofNat 16 (physPart s.boot.enabled (leAt j.args 0 1))) (Fin.ofNat 16 (leAt j.args 1 1))
      (Fin.ofNat 9 (leAt j.args 2 1)) := if_pos h

/-- A partition beyond the enabled ones has no core to map (R2). -/
theorem mapKey_absent (h : s.nparts ≤ leAt j.args 0 1) : s.mapKey j.args = absentCore := if_neg (by omega)

theorem debugMap_starts (h : s.starts m 0x8001 .expert [(0, 3)] j) (hp : posArgs j.args = true) :
    exec (.debugMap m) s = .next (State.putCompletion { s.takeEntry m with
      host := { (s.takeEntry m).host with mapped := some ((s.takeEntry m).mapKey j.args, m) } } j 0 0 []) :=
  congrArg _ (startCmd_starts (d := ⟨0x8001, .expert, [(0, 3)], posArgs⟩) h (by decide) rfl hp)

theorem debugUnmap_starts (h : s.starts m 0x8002 .expert [] j) :
    exec (.debugUnmap m) s = .next (State.putCompletion { s.takeEntry m with
      host := { (s.takeEntry m).host with mapped := none } } j 0 0 []) :=
  congrArg _ (startCmd_starts (d := ⟨0x8002, .expert, [], noArgs⟩) h (by decide) rfl rfl)

/-- CORE_CTRL with an OP of the row acts on the physical position that it names. -/
theorem ctrl_starts {ops : Nat → Bool} {mine : List Byte → Bool} {f : State → Job → Fin 16 → Fin 16 → Fin 9 → State}
    {o : Nat} (h : s.starts m 0x8003 .expert [(0, 4)] j) (hp : posArgs j.args = true) (hn : leAt j.args 0 1 < s.nparts)
    (ho : ctrlOp j.args = o) (hm : ∀ a, ctrlOp a = o → mine a = true) (hops : ops o = true) :
    s.startCmd m (ctrlCmd ops) mine (fun s j => s.needPos j (f s j)) = f (s.takeEntry m) j
      (Fin.ofNat 16 (physPart s.boot.enabled (leAt j.args 0 1))) (Fin.ofNat 16 (leAt j.args 1 1)) (Fin.ofNat 9 (leAt j.args 2 1)) := by
  rw [startCmd_starts (d := ctrlCmd ops) h rfl (hm _ ho) (by simp [ctrlCmd, hp, ho, hops])]
  exact needPos_in hn

theorem rawXfer_starts (h : s.starts m 0x8004 .expert [(0, 24)] j) (ha : leAt j.args 16 8 % 64 = 0) :
    let t := s.takeEntry m
    exec (.rawXfer m) s = .next (
      if t.rawOk m.val (leAt j.args 0 8) (leAt j.args 16 8) false && t.rawOk m.val (leAt j.args 8 8) (leAt j.args 16 8) true then
        (((t.rawWrite (leAt j.args 8 8) (t.rawRead (leAt j.args 0 8) (leAt j.args 16 8))).rawTurns (leAt j.args 0 8)
          (leAt j.args 16 8)).rawTurns (leAt j.args 8 8) (leAt j.args 16 8)).putCompletion j 0 0 []
      else t.putCompletion j 3 0x40 []) :=
  congrArg _ (startCmd_starts (d := ⟨0x8004, .expert, [(0, 24)], fun a => decide (leAt a 16 8 % 64 = 0)⟩) h (by decide) rfl
    (by simp [ha]))

theorem rawDesc_starts {c : Nat} {n : MbxId} (h : s.starts m 0x8005 .expert [(0, 1), (8, 104)] j) (ha : leAt j.args 0 1 < 6)
    (hm : s.host.mapped = some (c, n)) :
    exec (.rawDesc m) s = .next (if (s.core c).status = .none ∧ c ≠ absentCore then
      ((s.takeEntry m).rawArm c (leAt j.args 0 1) ((j.args.drop 8).take 104 ++ zeros 24)).putCompletion j 0 0 []
      else (s.takeEntry m).putCompletion j 7 0x45 []) := by
  have h1 : (s.takeEntry m).host.mapped = some (c, n) := hm
  refine congrArg _ ((startCmd_starts (d := ⟨0x8005, .expert, [(0, 1), (8, 104)], fun a => decide (leAt a 0 1 < 6)⟩) h (by decide) rfl
    (by simp [ha])).trans ?_)
  rw [h1]
  rfl

end

/-! ### When a reset begins -/

section
variable {s : State} {u : RstUnit}

theorem commandReset_held {j : Job} (h : s.runHoldsUnit u = true) : s.commandReset j u = s.putCompletion j 7 0x45 [] := if_pos h

theorem commandReset_waits {j : Job} (h : s.runHoldsUnit u = false) :
    s.commandReset j u = (s.pushJob { j with phase := .resetting u }).startResets := if_neg (Bool.eq_false_iff.1 h)

theorem startResets_single {i : Job} (hj : s.jobs = [i]) (hp : i.phase = .resetting u) :
    s.startResets = if s.mayReset u then s.beginReset u else s := by
  simp [State.startResets, hj, hp]

/-- A reset begins while none of its unit is under way and nothing outstanding carries the RGEN that it would produce (R455). -/
theorem mayReset_iff : s.mayReset u = true ↔ u ∉ s.resets ∧ ∀ n ∈ unitCores u,
    (∀ f ∈ (s.core (s.coreAt n)).fills, f.rgen ≠ s.posGen n + 1) ∧ s.posGen n + 1 ∉ (s.core (s.coreAt n)).issued := by
  simp [State.mayReset]

/-! ### What a reset does -/

/-- Passes that break leave the reset generations and the resets under way alone. -/
theorem breakPasses_rgen_resets (s : State) (ps : List Nat) (by_ : Word32) :
    (s.breakPasses ps by_).rgen = s.rgen ∧ (s.breakPasses ps by_).resets = s.resets := by
  have hr : (s.breakPasses ps by_).apart = (s.markBroken ps by_).apart := by
    refine (foldl_proj State.apart (fun t x => raiseBroken_apart t _ _ _) _ _).trans ?_
    refine foldl_proj State.apart (fun t x => ?_) _ _
    rfl
  have hm : (s.markBroken ps by_).rgen = s.rgen ∧ (s.markBroken ps by_).resets = s.resets := by
    constructor
    · refine foldl_proj State.rgen (fun t x => ?_) _ _
      rfl
    · refine foldl_proj State.resets (fun t x => ?_) _ _
      rfl
  exact ⟨(congrArg Apart.rgen hr).trans hm.1, (congrArg Apart.resets hr).trans hm.2⟩

/-- So does the reset of a position. -/
theorem resetPos_rgen_resets (s : State) (n : Nat) : (s.resetPos n).rgen = s.rgen ∧ (s.resetPos n).resets = s.resets := by
  show (s.breakOf (s.coreAt n)).rgen = _ ∧ (s.breakOf (s.coreAt n)).resets = _
  unfold State.breakOf
  split
  · exact breakPasses_rgen_resets _ _ _
  · exact ⟨rfl, rfl⟩

theorem resetPos_foldl_rgen (s : State) (l : List Nat) : (l.foldl State.resetPos s).rgen = s.rgen :=
  foldl_proj State.rgen (fun t n => (resetPos_rgen_resets t n).1) l s

theorem resetPos_foldl_resets (s : State) (l : List Nat) : (l.foldl State.resetPos s).resets = s.resets :=
  foldl_proj State.resets (fun t n => (resetPos_rgen_resets t n).2) l s

theorem resetPartition_rgen_resets (s : State) (p : Nat) :
    (s.resetPartition p).rgen = s.rgen ∧ (s.resetPartition p).resets = s.resets := by
  unfold State.resetPartition
  split <;> exact ⟨rfl, rfl⟩

theorem resetPos_idle (n : Nat) (h : s.runHolds = false) : s.resetPos n = s.modCore (s.coreAt n) fun k => k.cleared (s.posGen n) := by
  simp [State.resetPos, State.breakOf, h]

/-- The generations that a reset advances are those of its unit, and it is under way from then on. -/
theorem beginReset_rgen_resets (s : State) (u : RstUnit) :
    (s.beginReset u).rgen = (unitGens u).foldl (fun m k => sset 0 m k (sget 0 m k + 1)) s.rgen
      ∧ (s.beginReset u).resets = s.resets ++ [u] := by
  unfold State.beginReset
  extract_lets s1 s2
  have h1 : s1.rgen = (unitGens u).foldl (fun m k => sset 0 m k (sget 0 m k + 1)) s.rgen := by
    unfold s1 State.bumpGens
    rw [resetPos_foldl_rgen]
  have h2 : s2.rgen = s1.rgen ∧ s2.resets = s1.resets := by
    unfold s2
    split
    · exact resetPartition_rgen_resets _ _
    · exact ⟨rfl, rfl⟩
  exact ⟨h2.1.trans h1, congrArg (· ++ [u]) (h2.2.trans (resetPos_foldl_resets _ _))⟩

/-- No key stands twice among the generations of a unit: cores, cluster ports and ramps have keys apart. -/
theorem unitGens_nodup (u : RstUnit) : (unitGens u).Nodup := by
  have hr : ∀ n k : Nat, ((List.range n).map (· + k)).Nodup := fun n k =>
    List.nodup_range.map fun a b h => Nat.add_right_cancel h
  cases u with
  | core p c j => exact List.nodup_singleton _
  | cluster p c =>
    refine List.nodup_append.2 ⟨hr _ _, List.nodup_singleton _, fun a ha b hb => ?_⟩
    simp only [unitCores, List.mem_map, List.mem_range, List.mem_singleton] at ha hb
    obtain ⟨x, hx, rfl⟩ := ha
    omega
  | partition p =>
    have hp : ((List.range 16).map (· + 4096 + 16 * p.val)).Nodup := List.nodup_range.map fun a b h => by
      simpa using h
    refine List.nodup_append.2 ⟨List.nodup_append.2 ⟨hr _ _, hp, fun a ha b hb => ?_⟩, List.nodup_singleton _, fun a ha b hb => ?_⟩
    · simp only [unitCores, List.mem_map, List.mem_range] at ha hb
      obtain ⟨x, hx, rfl⟩ := ha
      obtain ⟨y, hy, rfl⟩ := hb
      omega
    · simp only [unitCores, List.mem_append, List.mem_map, List.mem_range, List.mem_singleton] at ha hb
      rcases ha with ⟨x, hx, rfl⟩ | ⟨x, hx, rfl⟩ <;> omega

/-- Keys that are advanced one after the other: each that stands in the list by one, the others not at all. -/
theorem sget_advance (l : List Nat) : ∀ {m : Sparse (BitVec 4)}, l.Nodup → Sparse.Wf 0 m → ∀ g,
    sget 0 (l.foldl (fun m k => sset 0 m k (sget 0 m k + 1)) m) g = if g ∈ l then sget 0 m g + 1 else sget 0 m g := by
  induction l with
  | nil => intro m _ _ g; simp
  | cons k l ih =>
    intro m hl hm g
    obtain ⟨hk, hl⟩ := List.nodup_cons.1 hl
    rw [List.foldl_cons, ih hl (sset_wf m k _ hm)]
    by_cases hg : g = k
    · subst hg
      rw [if_neg hk, if_pos List.mem_cons_self, sget_sset_same m g _ hm]
    · rw [sget_sset_ne m k g _ hm hg]
      simp only [List.mem_cons, hg, false_or]

theorem beginReset_gen (hw : Sparse.Wf 0 s.rgen) (g : Nat) :
    (s.beginReset u).gen g = if g ∈ unitGens u then s.gen g + 1 else s.gen g := by
  unfold State.gen
  rw [(beginReset_rgen_resets s u).1]
  exact sget_advance _ (unitGens_nodup u) hw g

/-- What a partition reset clears beside its cores, and what it keeps (R9, R267, R268). -/
theorem resetPartition_part {q : Nat} (he : s.boot.enabled.getLsbD q = true) (hw : Sparse.Wf {} s.parts) :
    (s.resetPartition q).part (logPart s.boot.enabled q)
      = { s.part (logPart s.boot.enabled q) with landing := [], step := 0, ovr := 0 } := by
  unfold State.resetPartition
  rw [if_pos he]
  exact sget_sset_same _ _ _ hw

theorem resetPartition_pass {q : Nat} (he : s.boot.enabled.getLsbD q = true) (hw : Sparse.Wf {} s.passes) :
    (s.resetPartition q).pass (logPart s.boot.enabled q) = (s.pass (logPart s.boot.enabled q)).initial := by
  unfold State.resetPartition
  rw [if_pos he]
  exact sget_sset_same _ _ _ hw

end

/-- A key that a fold writes reads what it has written, whatever else it writes. -/
theorem sget_foldl_sset {α : Type} [DecidableEq α] {d : α} (f : Nat → α) (n : Nat) (l : List Nat) : ∀ {m : Sparse α}, Sparse.Wf d m →
    sget d (l.foldl (fun m k => sset d m k (f k)) m) n = if n ∈ l then f n else sget d m n := by
  induction l with
  | nil => intro m _; simp
  | cons k l ih =>
    intro m hm
    rw [List.foldl_cons, ih (sset_wf m k _ hm)]
    by_cases hn : n = k
    · subst hn
      simp [sget_sset_same m n _ hm]
    · simp [hn, sget_sset_ne m k n _ hm hn]

/-- What a channel of a core has outstanding across the core's reset (R455, R456). -/
theorem cleared_chan (x : Core) (g : BitVec 4) {n : Nat} (hn : n < 6) :
    (x.cleared g).chan n = { ({} : Chan) with
      fills := (x.chan n).fills.map fun (f : SlotFill) => { f with old := true }, outs := if n < 4 then [] else x.kept n g } := by
  refine (sget_foldl_sset (fun n => { ({} : Chan) with
    fills := (x.chan n).fills.map fun (f : SlotFill) => { f with old := true }, outs := if n < 4 then [] else x.kept n g }) n
    (List.range 6) ⟨List.Pairwise.nil, fun e he => by cases he⟩).trans ?_
  rw [if_pos (List.mem_range.2 hn)]

/-! ### When it completes -/

section
variable {s : State} {u : RstUnit}

theorem drained_iff : s.drained u = true ↔ ∀ n ∈ unitCores u, (s.core (s.coreAt n)).issued = [] := by
  simp [State.drained]

theorem resetComplete_drained {i : Job} (hu : s.resets.contains u = true) (hi : s.jobs.find? (fun j => j.resets u) = some i)
    (hd : s.drained u = true) :
    exec (.resetComplete u) s = .next ((State.complete { s with resets := s.resets.erase u } i 0 0 []).startResets) := by
  show execResetComplete u s = _
  unfold execResetComplete
  rw [if_pos (by rw [hu, hd]; rfl)]
  dsimp only
  rw [hi]

theorem resetComplete_waits (hd : s.drained u = false) : exec (.resetComplete u) s = .next s := by
  show execResetComplete u s = _
  simp [execResetComplete, hd]

theorem staleResponseAbsorbed_fill {n : Nat} (h : (unitCores u).find?
      (fun n => (s.core (s.coreAt n)).fills.any fun f => decide (f.rgen ≠ s.posGen n)) = some n) :
    exec (.staleResponseAbsorbed u) s = .next ((s.modCore (s.coreAt n) fun k => k.absorb (s.posGen n)).startResets) := by
  show execStaleResponseAbsorbed u s = _
  unfold execStaleResponseAbsorbed
  dsimp only
  rw [h]

end

/-! ### The claim -/

/-- Settles O45: each command from its entry on, a reset from its wait to its end, and a unit's keys all apart. -/
theorem expertCommands : Obligations.ExpertCommands := by
  intro s m j c m' u i t a p cl k
  refine ⟨fun hn hp => ⟨fun h => ?_, fun h => ⟨fun ho => ?_, fun ho => ?_, fun ho => ?_, fun ho => ?_⟩⟩, fun hn hp h => ?_, debugUnmap_starts,
    fun h ha => ⟨fun hr hw => ?_, fun hw => ?_⟩, fun h ha hm => ⟨fun hs hc => ?_, fun hs => ?_⟩, ⟨commandReset_held, commandReset_waits⟩,
    fun hj hp => ⟨fun h => ?_, fun h => ?_⟩, mayReset_iff, ⟨(beginReset_rgen_resets s u).2, fun hw => ⟨fun g hg => ?_, fun g hg => ?_⟩⟩,
    fun n => resetPos_idle n, fun x g => ⟨rfl, fun n => cleared_chan x g⟩,
    fun q he hw hv => ⟨resetPartition_part he hw, resetPartition_pass he hv⟩,
    fun hu hi => ⟨fun hd => resetComplete_drained hu hi (drained_iff.2 hd), fun hd => ?_⟩, fun n => staleResponseAbsorbed_fill⟩
  · rw [debugMap_starts h hp, mapKey_in (s := s.takeEntry m) hn]
    rfl
  · exact congrArg _ (ctrl_starts h hp hn ho (fun a e => by simp [e]) rfl)
  · exact congrArg _ (ctrl_starts h hp hn ho (fun a e => by simp [e]) rfl)
  · exact congrArg _ (ctrl_starts h hp hn ho (fun a e => by simp [e]) rfl)
  · exact congrArg _ (ctrl_starts h hp hn ho (fun a e => by simp [e]) rfl)
  · rw [debugMap_starts h hp, mapKey_absent (s := s.takeEntry m) hn]
  · rw [rawXfer_starts h ha]
    exact congrArg _ (if_pos (by rw [Bool.and_eq_true]; exact ⟨hr, hw⟩))
  · rw [rawXfer_starts h ha]
    exact congrArg _ (if_neg (by rw [Bool.and_eq_true]; exact fun hb => Bool.eq_false_iff.1 hw hb.2))
  · exact (rawDesc_starts h ha hm).trans (congrArg _ (if_pos ⟨hs, hc⟩))
  · exact (rawDesc_starts h ha hm).trans (congrArg _ (if_neg (by rw [hs]; rintro ⟨h, -⟩; cases h)))
  · exact (startResets_single hj hp).trans (if_pos h)
  · exact (startResets_single hj hp).trans (if_neg (Bool.eq_false_iff.1 h))
  · exact (beginReset_gen hw g).trans (if_pos hg)
  · exact (beginReset_gen hw g).trans (if_neg hg)
  · refine resetComplete_waits (Bool.eq_false_iff.2 fun hb => ?_)
    obtain ⟨n, hn, hne⟩ := hd
    exact hne (drained_iff.1 hb n hn)

end Sys2Proof.Machine
end

section
/-! PROOFS. The course of a port and the steering of the Milestone (R25, R335, R341, R346, R347, R351, R352, R459, R510). -/
namespace Sys2Proof.Machine

section
variable {s : State} {q : PortId}

/-! ### The Milestone across a record and a jump -/

@[simp] theorem enqueue_ring (s : State) (r : EvRec) : (s.enqueue r).ring = s.ring := by
  unfold State.enqueue
  split <;> rfl

@[simp] theorem offer_ring (s : State) (r : EvRec) : (s.offer r).ring = s.ring := by
  unfold State.offer
  split
  · rfl
  · split
    · exact enqueue_ring s r
    · rfl

@[simp] theorem logEvent_ring (s : State) (e : Ev) : (s.logEvent e).ring = s.ring := offer_ring _ _

@[simp] theorem jumpBy_ms (s : State) (q n : Nat) : (s.jumpBy q n).ring.ms = s.ring.ms + n :=
  congrArg Ring.ms (logEvent_ring _ _)

/-! ### Cables -/

/-- A cable is read on a port that is DOWN, or held and not trained; the page select goes out to a paged memory (R351). -/
theorem cableRead_open {mem : CableMem} (ha : s.alive = true)
    (hp : (s.port q).st = .down ∨ ((s.port q).st = .held ∧ (s.port q).trained = false)) :
    exec (.cableRead q mem) s =
      let s1 := if mem.flat then s else s.emit (.pageSelect q)
      if cableOk mem then .next (s1.modPort q fun p => { p.readCable mem with st := .train, cause := 0 })
      else .next (s1.modPort q fun p => { p with st := .held, cause := 5, trained := false }) :=
  if_pos ⟨ha, hp⟩

theorem cableRead_dead {mem : CableMem} (ha : s.alive = false) : exec (.cableRead q mem) s = .next s :=
  if_neg fun h => Bool.false_ne_true (ha.symm.trans h.1)

/-! ### Training -/

/-- This end's good lanes after training, and those that both ends mark good (R335). -/
def State.goodHere (s : State) (q : PortId) (good : BitVec 34) : BitVec 34 := portLanes q (good &&& (s.port q).base)
def State.goodBoth (s : State) (q : PortId) (lanes good : BitVec 34) : BitVec 34 := portLanes q lanes &&& s.goodHere q good

/-- The state of a port that has enough lanes, before the two Milestones are compared: the lanes that training put out of use are marked, and
the port is in ALIGN (R335, R341). -/
def State.aligned (s : State) (q : PortId) (lanes good : BitVec 34) (peerMs : Nat) : State :=
  let new := s.trainMarks q ((s.port q).base &&& ~~~good)
  ({ s with keep := if new.isEmpty then s.keep else
    { s.keep with spseq := s.keep.spseq + 1, pendUnits := s.keep.pendUnits ++ new } } : State).modPort q fun p =>
      p.align q (s.goodBoth q lanes good) (s.goodHere q good) (65536 * ((s.ring.ms : Int) - (peerMs : Int)))

/-- How a port that has aligned meets the Milestone of its peer (R347). -/
def State.meetPeer (s : State) (q : PortId) (peerMs : Nat) : State :=
  if s.ring.ms + 1 < peerMs ∧ s.runBound = false then s.jumpBy q (peerMs - s.ring.ms)
  else if s.ring.ms + 1 < peerMs ∨ peerMs + 1 < s.ring.ms then s.modPort q fun p => { p with st := .skewed }
  else s

section
variable {lanes good : BitVec 34} {peerMs : Nat}

theorem portAlign_dead (ha : s.alive = false) : exec (.portAlign q lanes good peerMs) s = .next s := if_pos (.inl ha)

/-- A port that trains is judged by its lanes. -/
theorem portAlign_training (ha : s.alive = true) (ht : (s.port q).st = .train) :
    exec (.portAlign q lanes good peerMs) s =
      if laneCount (s.goodBoth q lanes good) < activeLanes q then
        .next (({ s with boot := { s.boot with dgPort := true } } : State).modPort q fun p =>
          { p with st := .held, cause := 6, trained := false, good := s.goodHere q good })
      else .next (((s.aligned q lanes good peerMs).meetPeer q peerMs).checkPort q).trainedPorts :=
  if_neg (by simp [ha, ht])

theorem portAlign_enough (ha : s.alive = true) (ht : (s.port q).st = .train)
    (hl : activeLanes q ≤ laneCount (s.goodBoth q lanes good)) :
    exec (.portAlign q lanes good peerMs) s = .next (((s.aligned q lanes good peerMs).meetPeer q peerMs).checkPort q).trainedPorts :=
  (portAlign_training ha ht).trans (if_neg (Nat.not_lt.2 hl))

theorem meetPeer_within (hlo : peerMs ≤ s.ring.ms + 1) (hhi : s.ring.ms ≤ peerMs + 1) : s.meetPeer q peerMs = s :=
  (if_neg (by omega)).trans (if_neg (by omega))

theorem meetPeer_ahead (h : s.ring.ms + 1 < peerMs) (hr : s.runBound = false) : s.meetPeer q peerMs = s.jumpBy q (peerMs - s.ring.ms) :=
  if_pos ⟨h, hr⟩

/-- A peer behind, or one ahead of a bound run, leaves the port SKEWED. -/
theorem meetPeer_skewed (h : peerMs + 1 < s.ring.ms ∨ (s.ring.ms + 1 < peerMs ∧ s.runBound = true)) :
    s.meetPeer q peerMs = s.modPort q fun p => { p with st := .skewed } := by
  have hj : ¬ (s.ring.ms + 1 < peerMs ∧ s.runBound = false) := by
    rintro ⟨ha, hr⟩
    rcases h with hb | ⟨-, hr'⟩
    · omega
    · exact Bool.false_ne_true (hr.symm.trans hr')
  exact (if_neg hj).trans (if_pos (h.symm.imp_left And.left))

/-- A jump for a peer ahead ends at that peer's Milestone. -/
theorem jumpBy_peer (h : s.ring.ms + 1 < peerMs) : (s.jumpBy q (peerMs - s.ring.ms)).ring.ms = peerMs := by
  rw [jumpBy_ms]
  omega

end

theorem trainTimeout_training (ht : (s.port q).st = .train) :
    exec (.trainTimeout q) s = .next (s.modPort q fun p => { p with st := .down }) :=
  congrArg _ (if_pos ht)

theorem trainRetry_dead (ha : s.alive = false) : exec (.trainRetry q) s = .next s :=
  congrArg _ (if_neg fun h => Bool.false_ne_true (ha.symm.trans h.1))

theorem trainRetry_down (ha : s.alive = true) (hd : (s.port q).st = .down) (hs : (s.port q).serial ≠ []) :
    exec (.trainRetry q) s = .next (s.modPort q fun p => { p with st := .train }) :=
  congrArg _ (if_pos ⟨ha, hd, by simpa using hs⟩)

/-! ### A lane lost, a neighbour missing -/

theorem linkLost_inService {lost : BitVec 34} (ht : (s.port q).trained = true) (hl : lost &&& (s.port q).insvc ≠ 0) :
    exec (.linkLost q lost) s = .next
      ((s.modPort q fun p => { p with st := .down, trained := false, cause := 0, samples := [], insvc := 0 }).logEvent
        { code := 0x0306, unit := portUnit q, a0 := BitVec.ofNat 32 (firstLane (lost &&& (s.port q).insvc))
          a1 := BitVec.ofNat 32 (laneCount (lost &&& (s.port q).insvc)) }) :=
  if_pos (by rw [ht, decide_eq_true hl]; rfl)

/-- What the entry of a missing neighbour names (R352). -/
def PlanPort.missing (x : PlanPort) : Found :=
  ⟨0x0303, BitVec.ofNat 16 x.peerPort.toNat, lo32 x.peerSer, hi32 x.peerSer, 0xFFFFFFFF, 0xFFFFFFFF, []⟩

theorem missingNeighbour_cabled {pl : CPlan} {x : PlanPort} (hpl : s.planFor q = some pl) (hx : pl.ports[q.val]? = some x)
    (hst : (s.port q).st = .down ∨ (s.port q).st = .train) (hu : x.use = true) (hc : pl.cmode = false) :
    exec (.missingNeighbour q) s = .next ((s.modPort q fun p => { p with cause := 1 }).noteFound q (some x.missing)) := by
  show execMissingNeighbour q s = _
  simp only [execMissingNeighbour, hpl, hx]
  exact if_pos ⟨hst, hu, hc⟩

/-- A finding is logged once per change (R352). -/
theorem noteFound_same {n : Option Found} (h : (s.port q).found = n) : s.noteFound q n = s := if_pos h.symm

theorem noteFound_new {n : Found} (h : (s.port q).found ≠ some n) :
    s.noteFound q (some n) = (s.modPort q fun p => { p with found := some n }).logEvent
      { code := n.code, unit := portUnit q, layer := n.layer, a0 := n.a0, a1 := n.a1, a2 := n.a2, a3 := n.a3 } :=
  if_neg (Ne.symm h)

/-! ### Steering -/

theorem milestoneSteer_early (h : s.ring.ms < s.links.steerAt + 1024) : exec .milestoneSteer s = .next s := if_pos h

/-- The steering by the mean offset of the ports in ALIGN and READY (R346). -/
theorem milestoneSteer_due (h : s.links.steerAt + 1024 ≤ s.ring.ms) :
    exec .milestoneSteer s = .next { s with links := { s.links with
      steer := max (-6400) (min 6400 (-(meanInt (s.steerPorts.map fun q => (s.port q).theta) * 64000000) / 268435456))
      steerAt := s.ring.ms } } :=
  if_neg (Nat.not_lt.2 h)

/-- A mean over the images of a list. -/
theorem meanInt_map {α : Type} (f : α → Int) (l : List α) :
    meanInt (l.map f) = if l.isEmpty then 0 else (l.map f).sum / (l.length : Int) := by
  simp [meanInt]

end

/-! ### The claim -/

/-- Settles O35: each command by the state it finds the port in, an alignment by its lanes and then by how far the peer's Milestone is, and the
steering by the steps that have passed. -/
theorem portStates : Obligations.PortStates := by
  intro s q mem lanes good lost peerMs pl x p mine both s1
  refine ⟨fun ha hp => ⟨fun hc => (cableRead_open ha hp).trans (if_pos hc),
      fun hc => (cableRead_open ha hp).trans (if_neg (Bool.eq_false_iff.1 hc))⟩,
    fun ha => ⟨cableRead_dead ha, portAlign_dead ha, trainRetry_dead ha⟩,
    fun ha ht hl => (portAlign_training ha ht).trans (if_pos hl), fun ha ht hl => ?_,
    trainTimeout_training, trainRetry_down, linkLost_inService, fun hpl hx hst hu hc => ?_, milestoneSteer_early, fun h => ?_⟩
  · intro new s2
    have hs : s2 = s.aligned q lanes good peerMs := rfl
    have hm : s2.ring = s.ring := rfl
    have hr : s2.runBound = s.runBound := rfl
    rw [portAlign_enough ha ht hl, ← hs, ← hm, ← hr]
    exact ⟨fun hlo hhi => by rw [meetPeer_within hlo hhi],
      fun h hb => ⟨by rw [meetPeer_ahead h hb], jumpBy_peer h⟩,
      fun h => by rw [meetPeer_skewed h]⟩
  · exact ⟨missingNeighbour_cabled hpl hx hst hu hc, noteFound_same, noteFound_new⟩
  · intro mean
    rw [milestoneSteer_due h, meanInt_map]

end Sys2Proof.Machine
end

section
/-! SUPPORT. Exact values as rationals, and the clamps and signs of integers (R48, R49, R107, R108, R115). -/
namespace Sys2Proof.Machine

theorem Num.exists_fin {x : Num} (h : x.isFin = true) : ∃ a m e, x = .fin a m e := by
  cases x with
  | nan | inf _ => cases h
  | fin a m e => exact ⟨a, m, e, rfl⟩

/-! ### Values over a common exponent -/

/-- The signed mantissa over a lower exponent is the value in units of that exponent. -/
theorem numAt_mul {b e : Int} (h : b ≤ e) (a : Bool) (m : Nat) : (numAt b a m e : ℚ) * 2 ^ b = (Num.fin a m e).val := by
  have hp : ((2 : ℚ) ^ (e - b).toNat) * 2 ^ b = 2 ^ e := by
    rw [← zpow_natCast, Int.toNat_of_nonneg (by omega), ← zpow_add₀ (by norm_num), sub_add_cancel]
  rw [Num.val, ← hp]
  cases a <;> simp [numAt] <;> ring

theorem numAt_lt_iff {b e f : Int} (he : b ≤ e) (hf : b ≤ f) (a c : Bool) (m n : Nat) :
    numAt b a m e < numAt b c n f ↔ (Num.fin a m e).val < (Num.fin c n f).val := by
  rw [← numAt_mul he, ← numAt_mul hf, mul_lt_mul_iff_left₀ (by positivity), Int.cast_lt]

/-- A mantissa with its sign apart. -/
theorem Num.val_natAbs (x c : Int) : (Num.fin (decide (x < 0)) x.natAbs c).val = x * 2 ^ c := by
  have h : ((if decide (x < 0) then -1 else 1 : ℚ)) * (x.natAbs : ℚ) = x := by
    rw [Nat.cast_natAbs, Int.cast_abs]
    by_cases hx : x < 0
    · simp [hx, abs_of_neg (show (x : ℚ) < 0 by exact_mod_cast hx)]
    · simp [hx, abs_of_nonneg (show (0 : ℚ) ≤ x by exact_mod_cast not_lt.1 hx)]
  rw [Num.val, h]

/-! ### Sums, products and scalings -/

@[simp] theorem Num.nan_add (y : Num) : Num.nan.add y = .nan := rfl

@[simp] theorem Num.add_nan (x : Num) : x.add .nan = .nan := by cases x <;> rfl

/-- A sum of finite values is finite and exact. -/
theorem Num.add_exact {x y : Num} (hx : x.isFin = true) (hy : y.isFin = true) : (x.add y).isFin = true ∧ (x.add y).val = x.val + y.val := by
  obtain ⟨a, m, e, rfl⟩ := Num.exists_fin hx
  obtain ⟨b, n, f, rfl⟩ := Num.exists_fin hy
  have hs : ((numAt (min e f) a m e + numAt (min e f) b n f : Int) : ℚ) * 2 ^ min e f = (Num.fin a m e).val + (Num.fin b n f).val := by
    rw [Int.cast_add, add_mul, numAt_mul (min_le_left e f), numAt_mul (min_le_right e f)]
  rw [← hs]
  simp only [Num.add]
  split
  · rename_i h0
    exact ⟨rfl, by simp [h0, Num.val]⟩
  · exact ⟨rfl, Num.val_natAbs _ _⟩

/-- A product of finite values is finite and exact. -/
theorem Num.mul_exact {x y : Num} (hx : x.isFin = true) (hy : y.isFin = true) : (x.mul y).isFin = true ∧ (x.mul y).val = x.val * y.val := by
  obtain ⟨a, m, e, rfl⟩ := Num.exists_fin hx
  obtain ⟨b, n, f, rfl⟩ := Num.exists_fin hy
  refine ⟨rfl, ?_⟩
  simp only [Num.mul, Num.val, Nat.cast_mul, zpow_add₀ (show (2 : ℚ) ≠ 0 by norm_num)]
  cases a <;> cases b <;> simp <;> ring

theorem Num.neg_val (x : Num) : x.neg.val = -x.val := by
  cases x with
  | nan | inf _ => simp [Num.neg, Num.val]
  | fin a m e => cases a <;> simp [Num.neg, Num.val]

theorem Num.scale_val (x : Num) (k : Int) : (x.scale k).val = x.val * (2 : ℚ) ^ k := by
  cases x with
  | nan | inf _ => simp [Num.scale, Num.val]
  | fin a m e => simp only [Num.scale, Num.val, zpow_add₀ (show (2 : ℚ) ≠ 0 by norm_num)]; ring

/-- A sum over a list of finite values is finite and exact. -/
theorem Num.foldl_add_exact {α : Type} (p : α → Num) (l : List α) : ∀ x : Num, x.isFin = true → (∀ e ∈ l, (p e).isFin = true) →
    (l.foldl (fun y e => y.add (p e)) x).isFin = true
      ∧ (l.foldl (fun y e => y.add (p e)) x).val = x.val + (l.map fun e => (p e).val).sum := by
  induction l with
  | nil => exact fun x hx _ => ⟨hx, by simp⟩
  | cons a l ih =>
    intro x hx hl
    obtain ⟨hf, hv⟩ := Num.add_exact hx (hl a (by simp))
    obtain ⟨hf', hv'⟩ := ih _ hf fun e he => hl e (by simp [he])
    exact ⟨hf', by rw [List.foldl_cons, hv', hv, List.map_cons, List.sum_cons, add_assoc]⟩

/-- A NaN among the terms makes the sum NaN (R48). -/
theorem Num.foldl_add_nan {α : Type} (p : α → Num) (l : List α) : ∀ x : Num, x = .nan ∨ (∃ e ∈ l, p e = .nan) →
    l.foldl (fun y e => y.add (p e)) x = .nan := by
  induction l with
  | nil =>
    rintro x (rfl | ⟨e, he, -⟩)
    · rfl
    · cases he
  | cons a l ih =>
    rintro x (rfl | ⟨e, he, hn⟩)
    · exact ih _ (.inl rfl)
    · rcases List.mem_cons.1 he with rfl | he
      · exact ih _ (.inl ((congrArg x.add hn).trans (Num.add_nan x)))
      · exact ih _ (.inr ⟨e, he, hn⟩)

/-! ### Order -/

theorem Num.lt_iff {x y : Num} (hx : x.isFin = true) (hy : y.isFin = true) : x.lt y = true ↔ x.val < y.val := by
  obtain ⟨a, m, e, rfl⟩ := Num.exists_fin hx
  obtain ⟨b, n, f, rfl⟩ := Num.exists_fin hy
  exact decide_eq_true_iff.trans (numAt_lt_iff (min_le_left e f) (min_le_right e f) a b m n)

theorem Num.eqv_iff {x y : Num} (hx : x.isFin = true) (hy : y.isFin = true) : x.eqv y = true ↔ x.val = y.val := by
  simp only [Num.eqv, Bool.and_eq_true, Bool.not_eq_true', ← Bool.not_eq_true, Num.lt_iff hx hy, Num.lt_iff hy hx, not_lt]
  exact ⟨fun ⟨h1, h2⟩ => le_antisymm h2 h1, fun h => ⟨h.ge, h.le⟩⟩

/-- The comparison of magnitudes that decides a saturation compares the values. -/
theorem magGt_iff (m n : Nat) (e f : Int) : magGt m e n f = true ↔ (Num.fin false n f).val < (Num.fin false m e).val := by
  rw [← numAt_lt_iff (min_le_right e f) (min_le_left e f)]
  simp only [magGt, numAt, decide_eq_true_iff, Bool.false_eq_true, if_false, Int.ofNat_lt]

/-! ### Integers -/

/-- The signed value of a word's number is the word's own. -/
theorem signed_toNat (a : Word32) : signed 32 a.toNat = a.toInt := by
  have := a.isLt
  rw [BitVec.toInt_eq_toNat_cond]
  simp only [signed, Nat.mod_eq_of_lt a.isLt]
  split <;> split <;> omega

theorem laneInt_int32 (a : Word32) : laneInt .int32 a = a.toInt := signed_toNat a

theorem clampI32_toInt (z : Int) : (clampI32 z).1.toInt = max (-2 ^ 31) (min z (2 ^ 31 - 1)) := by
  unfold clampI32
  split
  · rw [show ((0x7FFFFFFF : Word32)).toInt = 2 ^ 31 - 1 from rfl]; omega
  · split
    · rw [show ((0x80000000 : Word32)).toInt = -2 ^ 31 from rfl]; omega
    · rw [BitVec.toInt_ofInt, Int.bmod_eq_of_le (by omega) (by omega)]; omega

theorem clampI32_count (z : Int) : (clampI32 z).2 = if z < -2 ^ 31 ∨ 2 ^ 31 - 1 < z then 1 else 0 := by
  unfold clampI32
  split
  · rw [if_pos (.inr ‹_›)]
  · split
    · rw [if_pos (.inl ‹_›)]
    · rw [if_neg (by omega)]

theorem clampU8_value (z : Int) : (clampU8 z).1 = (max 0 (min z 255)).toNat := by
  unfold clampU8
  split
  · omega
  · split <;> omega

theorem clampU8_count (z : Int) : (clampU8 z).2 = if z < 0 ∨ 255 < z then 1 else 0 := by
  unfold clampU8
  split
  · rw [if_pos (.inr ‹_›)]
  · split
    · rw [if_pos (.inl ‹_›)]
    · rw [if_neg (by omega)]

end Sys2Proof.Machine
end

section
/-! SUPPORT. Rounding and the number formats (R29 to R32, R50 to R52, R54, R55). -/
namespace Sys2Proof.Machine

/-! ### Rounding to units of 2^q -/

section
variable {rnd : Rnd} {r24 m : Nat} {e q : Int}

/-- A multiple of the unit is not rounded. -/
theorem roundUnits_fine (h : q ≤ e) : roundUnits rnd r24 m e q = m * 2 ^ (e - q).toNat := if_pos h

theorem roundUnits_exact (h : e < q) (hm : m % 2 ^ (q - e).toNat = 0) : roundUnits rnd r24 m e q = m / 2 ^ (q - e).toNat :=
  (if_neg (by omega)).trans (if_pos hm)

theorem roundUnits_rtz (h : e < q) : roundUnits .rtz r24 m e q = m / 2 ^ (q - e).toNat :=
  (if_neg (by omega)).trans (ite_self _)

theorem roundUnits_rne (h : e < q) : roundUnits .rne r24 m e q = m / 2 ^ (q - e).toNat
    + if 2 ^ (q - e).toNat < 2 * (m % 2 ^ (q - e).toNat) ∨ 2 * (m % 2 ^ (q - e).toNat) = 2 ^ (q - e).toNat ∧ m / 2 ^ (q - e).toNat % 2 = 1
      then 1 else 0 := by
  have hd : 0 < 2 ^ (q - e).toNat := by positivity
  rw [roundUnits, if_neg (by omega)]
  dsimp only
  generalize 2 ^ (q - e).toNat = d at hd ⊢
  split_ifs <;> omega

theorem roundUnits_rna (h : e < q) : roundUnits .rna r24 m e q = m / 2 ^ (q - e).toNat
    + if 2 ^ (q - e).toNat ≤ 2 * (m % 2 ^ (q - e).toNat) then 1 else 0 := by
  have hd : 0 < 2 ^ (q - e).toNat := by positivity
  rw [roundUnits, if_neg (by omega)]
  dsimp only
  generalize 2 ^ (q - e).toNat = d at hd ⊢
  split_ifs <;> omega

theorem roundUnits_dsr (h : e < q) (hm : m % 2 ^ (q - e).toNat ≠ 0) : roundUnits .dsr r24 m e q = m / 2 ^ (q - e).toNat
    + if 2 ^ 24 ≤ m % 2 ^ (q - e).toNat * 2 ^ 24 / 2 ^ (q - e).toNat + r24 then 1 else 0 := by
  refine (if_neg (by omega)).trans ((if_neg hm).trans ?_)
  exact (apply_ite (m / 2 ^ (q - e).toNat + ·) _ 1 0).symm

end

/-- Toward zero the result is the multiple below (R55). -/
theorem floor_bounds (m d : Nat) (hd : 0 < d) : m / d * d ≤ m ∧ m < (m / d + 1) * d := by
  have hm := Nat.div_add_mod' m d
  have hr := Nat.mod_lt m hd
  rw [Nat.add_mul]
  omega

/-- To nearest even the error is half a unit at most, and a tie goes to the even multiple (R55). -/
theorem nearestEven_bounds (m d u : Nat) (hd : 0 < d)
    (hu : u = m / d + if d < 2 * (m % d) ∨ 2 * (m % d) = d ∧ m / d % 2 = 1 then 1 else 0) :
    2 * m ≤ 2 * (u * d) + d ∧ 2 * (u * d) ≤ 2 * m + d ∧ (2 * m = 2 * (u * d) + d ∨ 2 * (u * d) = 2 * m + d → u % 2 = 0) := by
  have hm := Nat.div_add_mod' m d
  have hr := Nat.mod_lt m hd
  rw [hu, Nat.add_mul]
  generalize m / d * d = p at hm ⊢
  split <;> omega

/-- To nearest away from zero a tie goes up (R55). -/
theorem nearestAway_bounds (m d u : Nat) (hd : 0 < d) (hu : u = m / d + if d ≤ 2 * (m % d) then 1 else 0) :
    2 * m < 2 * (u * d) + d ∧ 2 * (u * d) ≤ 2 * m + d := by
  have hm := Nat.div_add_mod' m d
  have hr := Nat.mod_lt m hd
  rw [hu, Nat.add_mul]
  generalize m / d * d = p at hm ⊢
  split <;> omega

/-! ### The fields of a code -/

/-- A code is its sign bit and its magnitude. -/
theorem sign_magnitude {w c : Nat} (h : c < 2 ^ (w + 1)) : b2n (bitOf c w) * 2 ^ w + c % 2 ^ w = c := by
  have hq : c / 2 ^ w < 2 := Nat.div_lt_of_lt_mul (by rw [← Nat.pow_succ]; exact h)
  have hb : b2n (bitOf c w) = c / 2 ^ w := by
    rw [bitOf, Nat.testBit_eq_decide_div_mod_eq, b2n]
    generalize c / 2 ^ w = t at hq ⊢
    split <;> rename_i ht <;> rw [decide_eq_true_iff] at ht <;> omega
  rw [hb, Nat.div_add_mod']

/-- A magnitude is its exponent field and its mantissa field. -/
theorem exponent_mantissa (c eb mb : Nat) : c / 2 ^ mb % 2 ^ eb * 2 ^ mb + c % 2 ^ mb = c % 2 ^ (eb + mb) := by
  rw [Nat.add_comm eb mb, Nat.pow_add, Nat.mod_mul, Nat.mul_comm, Nat.add_comm]

/-- A code whose value is finite is none of the special ones. -/
theorem ite_eq_fin {p : Prop} [Decidable p] {x y : Num} {s : Bool} {m : Nat} {e : Int} (hx : x ≠ .fin s m e)
    (h : (if p then x else y) = .fin s m e) : ¬ p ∧ y = .fin s m e := by
  split at h
  · exact absurd h hx
  · exact ⟨‹_›, h⟩

/-- A code whose value is an infinity has the fields of one. -/
theorem ite_eq_inf {p q : Prop} [Decidable p] [Decidable q] {y : Num} {s s' : Bool} (hy : y ≠ .inf s')
    (h : (if p then (if q then Num.inf s else .nan) else y) = .inf s') : p ∧ q ∧ s = s' := by
  split at h
  · split at h
    · cases h; exact ⟨‹_›, ‹_›, rfl⟩
    · cases h
  · exact absurd h hy

/-- A finite code is subnormal or normal, and its sign is its top bit (R29). -/
theorem dec_fin {f : Fmt} {c m : Nat} {s : Bool} {e : Int} (h : f.dec c = .fin s m e) :
    s = bitOf c (f.par.1 + f.par.2.1)
    ∧ (c / 2 ^ f.par.2.1 % 2 ^ f.par.1 = 0 ∧ m = c % 2 ^ f.par.2.1 ∧ e = 1 - (f.par.2.2 : Int) - f.par.2.1
      ∨ c / 2 ^ f.par.2.1 % 2 ^ f.par.1 ≠ 0 ∧ m = 2 ^ f.par.2.1 + c % 2 ^ f.par.2.1
        ∧ e = (c / 2 ^ f.par.2.1 % 2 ^ f.par.1 : Nat) - (f.par.2.2 : Int) - f.par.2.1) := by
  have hfin : (if c / 2 ^ f.par.2.1 % 2 ^ f.par.1 = 0 then
      Num.fin (bitOf c (f.par.1 + f.par.2.1)) (c % 2 ^ f.par.2.1) (1 - (f.par.2.2 : Int) - f.par.2.1)
      else Num.fin (bitOf c (f.par.1 + f.par.2.1)) (2 ^ f.par.2.1 + c % 2 ^ f.par.2.1)
        ((c / 2 ^ f.par.2.1 % 2 ^ f.par.1 : Nat) - (f.par.2.2 : Int) - f.par.2.1)) = .fin s m e := by
    cases f with
    | f32 | bf16 | e5m2 => exact (ite_eq_fin (by split <;> nofun) h).2
    | e4m3 => exact (ite_eq_fin (x := .nan) nofun h).2
    | e3m2 | e2m3 | e2m1 => exact h
  split at hfin
  · cases hfin; exact ⟨rfl, .inl ⟨‹_›, rfl, rfl⟩⟩
  · cases hfin; exact ⟨rfl, .inr ⟨‹_›, rfl, rfl⟩⟩

/-! ### A finite code is its own conversion -/

theorem bitLen_le {m n : Nat} (h : m < 2 ^ n) : bitLen m ≤ n := by
  unfold bitLen
  split
  · omega
  · exact (Nat.log2_lt ‹_›).2 h

theorem bitLen_eq {m n : Nat} (hl : 2 ^ n ≤ m) (hu : m < 2 ^ (n + 1)) : bitLen m = n + 1 := by
  have hm : m ≠ 0 := by have : 0 < 2 ^ n := by positivity
                        omega
  rw [bitLen, if_neg hm, (Nat.log2_eq_iff hm).2 ⟨hl, hu⟩]

/-- The magnitude code of a finite code's value is the code without its sign, whatever the rounding (R50, R55). -/
theorem magBits_dec {f : Fmt} {c m : Nat} {s : Bool} {e : Int} (rnd : Rnd) (r24 : Nat) (h : f.dec c = .fin s m e) :
    f.magBits rnd r24 m e = c % 2 ^ (f.par.1 + f.par.2.1) := by
  obtain ⟨-, hc⟩ := dec_fin h
  rw [← exponent_mantissa, Fmt.magBits]
  revert hc
  obtain ⟨eb, mb, bias⟩ := f.par
  dsimp only
  intro hc
  have hm : c % 2 ^ mb < 2 ^ mb := Nat.mod_lt _ (by positivity)
  generalize c % 2 ^ mb = t, c / 2 ^ mb % 2 ^ eb = x at hm hc ⊢
  rcases hc with ⟨rfl, rfl, rfl⟩ | ⟨hx, rfl, rfl⟩
  · have hb := bitLen_le hm
    rw [max_eq_left (by omega), roundUnits_fine le_rfl]
    split <;> simp [*]
  · have hb := bitLen_eq (show 2 ^ mb ≤ 2 ^ mb + t by omega) (by rw [Nat.pow_succ]; omega)
    rw [if_neg (by omega), hb, max_eq_right (by push_cast; omega), roundUnits_fine (by push_cast; omega)]
    have hq : ((x : Int) - bias - mb + ((mb + 1 : Nat) : Int) - 1 - mb - (1 - bias - mb)).toNat = x - 1 := by omega
    have hz : ((x : Int) - bias - mb - (x - bias - mb + ((mb + 1 : Nat) : Int) - 1 - mb)).toNat = 0 := by omega
    have hx1 : x * 2 ^ mb = (x - 1) * 2 ^ mb + 2 ^ mb := by
      conv_lhs => rw [show x = x - 1 + 1 by omega, Nat.add_mul, Nat.one_mul]
    rw [hq, hz, hx1]
    omega

/-- The exponent field of a finite code is not all ones, where the format has infinities. -/
theorem dec_fin_exponent {f : Fmt} (hf : f = .f32 ∨ f = .bf16 ∨ f = .e5m2) {c m : Nat} {s : Bool} {e : Int} (h : f.dec c = .fin s m e) :
    c / 2 ^ f.par.2.1 % 2 ^ f.par.1 + 1 ≠ 2 ^ f.par.1 := by
  rcases hf with rfl | rfl | rfl <;> exact (ite_eq_fin (by split <;> nofun) h).1

/-- An infinity has its sign, an exponent field of ones and a mantissa of zero (R29). -/
theorem dec_inf {f : Fmt} (hf : f = .f32 ∨ f = .bf16) {c : Nat} {s : Bool} (h : f.dec c = .inf s) :
    c / 2 ^ f.par.2.1 % 2 ^ f.par.1 + 1 = 2 ^ f.par.1 ∧ c % 2 ^ f.par.2.1 = 0 ∧ bitOf c (f.par.1 + f.par.2.1) = s := by
  rcases hf with rfl | rfl <;> exact ite_eq_inf (by split <;> nofun) h

theorem dec_fin_le_top {f : Fmt} (hf : f = .f32 ∨ f = .bf16) {c m : Nat} {s : Bool} {e : Int} (h : f.dec c = .fin s m e) :
    c % 2 ^ (f.par.1 + f.par.2.1) ≤ (2 ^ f.par.1 - 1) * 2 ^ f.par.2.1 := by
  have hx : c / 2 ^ f.par.2.1 % 2 ^ f.par.1 + 1 ≠ 2 ^ f.par.1 := dec_fin_exponent (by tauto) h
  have hx' : c / 2 ^ f.par.2.1 % 2 ^ f.par.1 < 2 ^ f.par.1 := Nat.mod_lt _ (by positivity)
  have hm : c % 2 ^ f.par.2.1 < 2 ^ f.par.2.1 := Nat.mod_lt _ (by positivity)
  rw [← exponent_mantissa]
  generalize c / 2 ^ f.par.2.1 % 2 ^ f.par.1 = x at hx hx' ⊢
  calc x * 2 ^ f.par.2.1 + c % 2 ^ f.par.2.1 ≤ (x + 1) * 2 ^ f.par.2.1 := by rw [Nat.add_mul]; omega
    _ ≤ (2 ^ f.par.1 - 1) * 2 ^ f.par.2.1 := Nat.mul_le_mul_right _ (by omega)

/-- A wide conversion gives a code that is no NaN back (R52). -/
theorem encWide_dec {f : Fmt} (hf : f = .f32 ∨ f = .bf16) (rnd : Rnd) (r24 : Nat) {c : Nat} (hc : c < 2 ^ f.width) (hn : f.dec c ≠ .nan) :
    f.encWide rnd r24 (f.dec c) = c := by
  refine Eq.trans ?_ (sign_magnitude hc)
  cases h : f.dec c with
  | nan => exact absurd h hn
  | inf s =>
    obtain ⟨hx, hm, rfl⟩ := dec_inf hf h
    rw [← exponent_mantissa, hm, Nat.eq_sub_of_add_eq hx]
    rfl
  | fin s m e =>
    obtain ⟨rfl, -⟩ := dec_fin h
    rw [Fmt.encWide]
    dsimp only
    rw [magBits_dec rnd r24 h]
    exact congrArg (_ + ·) (Nat.min_eq_left (dec_fin_le_top hf h))

/-! ### Narrow formats -/

/-- The largest code of a format has its top exponent and a mantissa with every bit that the format lets stand there (R29, R50). -/
theorem dec_maxCode (f : Fmt) : ∃ mm : Nat, ∃ me : Int, f.dec f.maxCode = .fin false mm me := by
  cases f <;> exact ⟨_, _, rfl⟩

theorem encNarrow_fin {f : Fmt} {mm : Nat} {me : Int} {b : Bool} (h : f.dec f.maxCode = .fin b mm me) (rnd : Rnd) (r24 : Nat) (n : Bool) (m : Nat)
    (e : Int) : f.encNarrow rnd r24 (.fin n m e) = if magGt m e mm me then (b2n n * 2 ^ (f.width - 1) + f.maxCode, 1, 0)
      else (b2n n * 2 ^ (f.width - 1) + f.magBits rnd r24 m e, 0, 0) := by
  rw [Fmt.encNarrow]
  dsimp only
  rw [h]
  rfl

/-- Against a format's maximum mm × 2^me, a finite code of a narrow format has no larger exponent, no larger mantissa at the same exponent, and
never more than twice the mantissa. -/
theorem dec_within_max {f : Fmt} (h1 : f ≠ .f32) (h2 : f ≠ .bf16) {c m mm : Nat} {s b : Bool} {e me : Int} (h : f.dec c = .fin s m e)
    (hm : f.dec f.maxCode = .fin b mm me) : e ≤ me ∧ (e = me → m ≤ mm) ∧ m ≤ 2 * mm := by
  obtain ⟨-, hc⟩ := dec_fin h
  obtain ⟨-, hx⟩ := dec_fin hm
  cases f with
  | f32 => exact absurd rfl h1
  | bf16 => exact absurd rfl h2
  | e4m3 =>
    have hs : ¬ (c / 2 ^ 3 % 2 ^ 4 = 15 ∧ c % 2 ^ 3 = 7) := (ite_eq_fin (x := .nan) nofun h).1
    dsimp only [Fmt.par, Fmt.maxCode] at hc hx
    omega
  | e5m2 =>
    have hs := dec_fin_exponent (by tauto) h
    dsimp only [Fmt.par, Fmt.maxCode] at hc hx hs
    omega
  | e3m2 | e2m3 | e2m1 =>
    dsimp only [Fmt.par, Fmt.maxCode] at hc hx
    omega

/-- No finite code of a narrow format is larger than the format's maximum. -/
theorem not_magGt_dec {f : Fmt} (h1 : f ≠ .f32) (h2 : f ≠ .bf16) {c m mm : Nat} {s b : Bool} {e me : Int} (h : f.dec c = .fin s m e)
    (hm : f.dec f.maxCode = .fin b mm me) : magGt m e mm me = false := by
  obtain ⟨he, hsame, htwice⟩ := dec_within_max h1 h2 h hm
  have hle : m ≤ mm * 2 ^ (me - e).toNat := by
    rcases he.eq_or_lt with heq | hlt
    · simpa [heq] using hsame heq
    · calc m ≤ mm * 2 ^ 1 := by omega
        _ ≤ mm * 2 ^ (me - e).toNat := Nat.mul_le_mul_left _ (Nat.pow_le_pow_right (by omega) (by omega))
  simpa [magGt, min_eq_left he] using hle

/-- A narrow conversion gives a finite code back, without a count (R50). -/
theorem encNarrow_dec {f : Fmt} (h1 : f ≠ .f32) (h2 : f ≠ .bf16) (rnd : Rnd) (r24 : Nat) {c m : Nat} {s : Bool} {e : Int}
    (hc : c < 2 ^ f.width) (h : f.dec c = .fin s m e) : f.encNarrow rnd r24 (.fin s m e) = (c, 0, 0) := by
  obtain ⟨mm, me, hm⟩ := dec_maxCode f
  rw [encNarrow_fin hm, not_magGt_dec h1 h2 h hm, if_neg Bool.false_ne_true, magBits_dec rnd r24 h, (dec_fin h).1]
  exact congrArg (·, 0, 0) (sign_magnitude hc)

end Sys2Proof.Machine
end

section
/-! SUPPORT. Clip counters, and what the write of a group of elements leaves in the tile registers (R59, R61, R100, R110, R192, R220). -/
namespace Sys2Proof.Machine

/-! ### Clip counters -/

theorem clipAdd_toNat (x : Word32) (sat inv : Nat) : (clipAdd x sat inv).toNat
    = b2n (bitOf x.toNat 31 || decide (2 ^ 24 ≤ x.toNat % 2 ^ 24 + sat)) * 2 ^ 31 + Nat.min (x.toNat / 2 ^ 24 % 128 + inv) 127 * 2 ^ 24
      + Nat.min (x.toNat % 2 ^ 24 + sat) (2 ^ 24 - 1) := by
  have hb : ∀ b : Bool, b2n b ≤ 1 := by decide
  have h1 := hb (bitOf x.toNat 31 || decide (2 ^ 24 ≤ x.toNat % 2 ^ 24 + sat))
  have h2 : Nat.min (x.toNat / 2 ^ 24 % 128 + inv) 127 ≤ 127 := Nat.min_le_right _ _
  have h3 : Nat.min (x.toNat % 2 ^ 24 + sat) (2 ^ 24 - 1) ≤ 2 ^ 24 - 1 := Nat.min_le_right _ _
  exact (BitVec.toNat_ofNat _ _).trans (Nat.mod_eq_of_lt (by omega))

/-- The clip counter takes the counts up to its limits, and notes what SAT cuts off (R59, R61). -/
theorem clipAdd_fields (x : Word32) (sat inv : Nat) :
    (clipAdd x sat inv).toNat % 2 ^ 24 = Nat.min (x.toNat % 2 ^ 24 + sat) (2 ^ 24 - 1)
    ∧ (clipAdd x sat inv).toNat / 2 ^ 24 % 128 = Nat.min (x.toNat / 2 ^ 24 % 128 + inv) 127
    ∧ (clipAdd x sat inv).getLsbD 31 = (x.getLsbD 31 || decide (2 ^ 24 ≤ x.toNat % 2 ^ 24 + sat)) := by
  have h2 : Nat.min (x.toNat / 2 ^ 24 % 128 + inv) 127 ≤ 127 := Nat.min_le_right _ _
  have h3 : Nat.min (x.toNat % 2 ^ 24 + sat) (2 ^ 24 - 1) ≤ 2 ^ 24 - 1 := Nat.min_le_right _ _
  have hb : ∀ o : Bool, b2n o = 0 ∧ o = false ∨ b2n o = 1 ∧ o = true := by decide
  rw [show (clipAdd x sat inv).getLsbD 31 = (clipAdd x sat inv).toNat.testBit 31 from rfl, Nat.testBit_eq_decide_div_mod_eq, clipAdd_toNat,
    show x.getLsbD 31 = bitOf x.toNat 31 from rfl]
  generalize (bitOf x.toNat 31 || decide (2 ^ 24 ≤ x.toNat % 2 ^ 24 + sat)) = o
  generalize Nat.min (x.toNat / 2 ^ 24 % 128 + inv) 127 = i at h2 ⊢
  generalize Nat.min (x.toNat % 2 ^ 24 + sat) (2 ^ 24 - 1) = t at h3 ⊢
  rcases hb o with ⟨ho, rfl⟩ | ⟨ho, rfl⟩ <;> rw [ho] <;> refine ⟨by omega, by omega, ?_⟩
  · exact decide_eq_false (by omega)
  · exact decide_eq_true (by omega)

/-- No counts leave a clip counter as it is. -/
theorem clipAdd_zero (x : Word32) : clipAdd x 0 0 = x := by
  apply BitVec.eq_of_toNat_eq
  have hm : x.toNat / 2 ^ 24 % 128 * 2 ^ 24 + x.toNat % 2 ^ 24 = x.toNat % 2 ^ 31 := by omega
  have h1 : Nat.min (x.toNat / 2 ^ 24 % 128) 127 = x.toNat / 2 ^ 24 % 128 := Nat.min_eq_left (by omega)
  have h2 : Nat.min (x.toNat % 2 ^ 24) (2 ^ 24 - 1) = x.toNat % 2 ^ 24 := Nat.min_eq_left (by omega)
  have h3 : ¬ 2 ^ 24 ≤ x.toNat % 2 ^ 24 := by omega
  have hx : b2n (bitOf x.toNat 31) * 2 ^ 31 + x.toNat % 2 ^ 31 = x.toNat := sign_magnitude x.isLt
  rw [clipAdd_toNat, Nat.add_zero, Nat.add_zero, h1, h2, decide_eq_false h3, Bool.or_false, Nat.add_assoc]
  rw [hm, hx]

theorem addClip_clip {k : Core} (h : Sparse.Wf 0 k.clips) (t u sat inv : Nat) :
    (k.addClip t sat inv).clip u = if u = t then clipAdd (k.clip t) sat inv else k.clip u := by
  unfold Core.addClip
  split
  · rename_i h0
    rw [h0.1, h0.2, clipAdd_zero]
    split
    · rw [‹u = t›]
    · rfl
  · split
    · subst ‹u = t›
      exact sget_sset_same _ _ _ h
    · exact sget_sset_ne _ _ _ _ h ‹_›

theorem addClip_frame (k : Core) (t sat inv : Nat) : { k.addClip t sat inv with clips := k.clips } = k := by
  unfold Core.addClip
  split <;> rfl

@[simp] theorem addClip_tiles (k : Core) (t sat inv : Nat) : (k.addClip t sat inv).tiles = k.tiles := by
  unfold Core.addClip
  split <;> rfl

@[simp] theorem addClip_chans (k : Core) (t sat inv : Nat) : (k.addClip t sat inv).chans = k.chans := by
  unfold Core.addClip
  split <;> rfl

/-! ### Reading a span -/

/-- A register that nothing guards is not veiled either (R220). -/
theorem engTile_of_guardTile {k : Core} {t : Nat} (h : k.guardTile t = none) : k.engTile t = k.tile t := by
  have hv : k.veilTile t = none :=
    List.find?_eq_none.2 fun n hn => List.find?_eq_none.1 h n (List.mem_range.2 (Nat.lt_trans (List.mem_range.1 hn) (by decide)))
  rw [Core.engTile, hv]
  rfl

theorem spanByte_unguarded {k : Core} (h : ∀ t, k.guardTile t = none) (t : Tile16) (i : Nat) :
    k.spanByte t i = rdByte (k.tile ((t.val + i / 4096) % 16)).bytes (i % 4096) := by
  rw [Core.spanByte, engTile_of_guardTile (h _)]

/-! ### Writes of tile registers -/

/-- The tile registers of a core in canonical form, each with its bytes. -/
def Core.TilesWf (k : Core) : Prop := Sparse.Wf {} k.tiles ∧ ∀ t, Memory.wf (k.tile t).bytes

section
variable {k : Core} {w : TileWr}

theorem applyTile_tile_same (h : Sparse.Wf {} k.tiles) : (k.applyTile w).tile w.t = { bytes := wrBytes (k.tile w.t).bytes w.off w.data } :=
  sget_sset_same _ _ _ h

theorem applyTile_tile_ne (h : Sparse.Wf {} k.tiles) {t : Nat} (ht : t ≠ w.t) : (k.applyTile w).tile t = k.tile t :=
  sget_sset_ne _ _ _ _ h ht

theorem applyTile_wf (h : k.TilesWf) : (k.applyTile w).TilesWf := by
  refine ⟨sset_wf _ _ _ h.1, fun t => ?_⟩
  by_cases ht : t = w.t
  · subst ht
    rw [applyTile_tile_same h.1]
    exact wrBytes_wf _ _ _ (h.2 _)
  · rw [applyTile_tile_ne h.1 ht]
    exact h.2 t

/-- A write changes a byte of its own register within its range alone. -/
theorem rdByte_applyTile (h : k.TilesWf) (t x : Nat) : rdByte ((k.applyTile w).tile t).bytes x
    = if t = w.t ∧ w.off ≤ x ∧ x < w.off + w.data.length then w.data.getD (x - w.off) 0 else rdByte (k.tile t).bytes x := by
  by_cases ht : t = w.t
  · subst ht
    rw [applyTile_tile_same h.1]
    dsimp only
    split
    · rename_i hx
      have := rdByte_wrBytes_inside w.data (k.tile w.t).bytes w.off (x - w.off) (h.2 _) (by omega)
      rwa [Nat.add_sub_cancel' hx.2.1] at this
    · exact rdByte_wrBytes_outside _ _ _ _ (h.2 _) (by omega)
  · rw [applyTile_tile_ne h.1 ht, if_neg (by tauto)]

/-- Writes from offset n upward leave the bytes below n alone. -/
theorem rdByte_foldl_applyTile {n : Nat} (ws : List TileWr) : ∀ {k : Core}, k.TilesWf → (∀ w ∈ ws, n ≤ w.off) → ∀ t x, x < n →
    rdByte ((ws.foldl Core.applyTile k).tile t).bytes x = rdByte (k.tile t).bytes x := by
  induction ws with
  | nil => exact fun _ _ _ _ _ => rfl
  | cons w ws ih =>
    intro k h hn t x hx
    have hw : n ≤ w.off := hn w (by simp)
    rw [List.foldl_cons, ih (applyTile_wf h) (fun w hw => hn w (by simp [hw])) t x hx, rdByte_applyTile h, if_neg (by omega)]

theorem foldl_applyTile_frame (ws : List TileWr) : ∀ k : Core, { ws.foldl Core.applyTile k with tiles := k.tiles } = k := by
  induction ws with
  | nil => exact fun _ => rfl
  | cons w ws ih => exact fun k => congrArg (fun x : Core => { x with tiles := k.tiles }) (ih (k.applyTile w))

/-- With no fill in the load list, no write is held (R94). -/
theorem putTile_plain (h : k.lws = []) : k.putTile (.plain w) = k.applyTile w := by
  simp [Core.putTile, Core.filling, h, Core.applyHeld]

theorem foldl_putTile (ws : List TileWr) : ∀ {k : Core}, k.lws = [] → ws.foldl (fun k y => k.putTile (.plain y)) k = ws.foldl Core.applyTile k := by
  induction ws with
  | nil => exact fun _ => rfl
  | cons w ws ih =>
    intro k h
    rw [List.foldl_cons, List.foldl_cons, putTile_plain h]
    exact ih h

end

/-! ### A group of elements -/

/-- On a core that guards no register and fills none, the due write of a group of elements is written, and its counts are charged (R109). -/
theorem applyOut_veElems {k : Core} (hg : ∀ t, k.guardTile t = none) (hl : k.lws = []) (n : Nat) (vd : Tile16) (ty : Ty) (g : Nat)
    (f : Nat → Nat × Nat) : k.applyOut (veElems n vd ty g f)
      = ((veElems n vd ty g f).wr.foldl Core.applyTile k).addClip (clipOf vd (64 * g * ty.bytes)) (((groupIdx n g).map f).map (·.2)).sum 0 := by
  rw [← foldl_putTile _ hl]
  simp only [Core.applyOut, veElems, groupWr, hg]

/-- The zeros written to the strips lie above the payload (R110). -/
theorem bfStrips_off (t : Tile16) (i len : Nat) : ∀ w ∈ bfStrips t i len, 4096 ≤ w.off := by
  intro w hw
  unfold bfStrips at hw
  dsimp only at hw
  split at hw
  · cases hw
  · simp only [List.mem_cons, List.not_mem_nil, or_false] at hw
    rcases hw with rfl | rfl <;> dsimp only <;> omega

/-- Bytes of the codes of a list, each B long, one after another. -/
theorem getD_flatMap_leBytes (B : Nat) {j : Nat} (hj : j < B) : ∀ (l : List Nat) (i : Nat), i < l.length →
    (l.flatMap fun c => leBytes B c).getD (i * B + j) 0 = (leBytes B (l.getD i 0)).getD j 0 := by
  intro l
  induction l with
  | nil => intro i hi; cases hi
  | cons c l ih =>
    intro i hi
    rw [List.flatMap_cons]
    cases i with
    | zero => rw [Nat.zero_mul, Nat.zero_add, List.getD_append _ _ _ _ (by rwa [leBytes_length])]; rfl
    | succ i =>
      rw [List.getD_append_right _ _ _ _ (by rw [leBytes_length, Nat.succ_mul]; omega), leBytes_length,
        show (i + 1) * B + j - B = i * B + j by rw [Nat.succ_mul]; omega, ih i (by simpa using hi)]
      rfl

theorem length_flatMap_leBytes (B : Nat) (l : List Nat) : (l.flatMap fun c => leBytes B c).length = l.length * B := by
  simp [List.length_flatMap, leBytes_length]

/-- A number's low bytes are the number modulo 256^B. -/
theorem leNat_leBytes_mod (B : Nat) : ∀ x, leNat (leBytes B x) = x % 256 ^ B := by
  induction B with
  | zero => intro x; simp [leBytes, leNat, Nat.mod_one]
  | succ B ih =>
    intro x
    rw [leBytes, leNat, ih, BitVec.toNat_ofNat]
    exact (Nat.pow_succ' ▸ Nat.mod_mul).symm

/-- The guards of a core are its channels'. -/
theorem guardTile_of_chans {k u : Core} (h : u.chans = k.chans) (t : Nat) : u.guardTile t = k.guardTile t := by
  simp only [Core.guardTile, Core.chan, h]

theorem foldl_applyTile_chans (ws : List TileWr) (k : Core) : (ws.foldl Core.applyTile k).chans = k.chans :=
  show ({ ws.foldl Core.applyTile k with tiles := k.tiles } : Core).chans = k.chans by rw [foldl_applyTile_frame]

theorem addClip_tile (k : Core) (t sat inv u : Nat) : (k.addClip t sat inv).tile u = k.tile u := by
  simp only [Core.tile, addClip_tiles]

/-- The bytes that a group of an element-wise instruction writes. -/
def groupBytes (n g : Nat) (ty : Ty) (f : Nat → Nat × Nat) : List Byte :=
  (((groupIdx n g).map f).map (·.1)).flatMap fun c => leBytes ty.bytes c

/-- What a group writes below the strips is its bytes at its place in the span (R100). -/
theorem rdByte_veElems {k : Core} (hw : k.TilesWf) (n g : Nat) (vd : Tile16) (ty : Ty) (f : Nat → Nat × Nat) (t : Nat) {x : Nat} (hx : x < 4096) :
    rdByte (((veElems n vd ty g f).wr.foldl Core.applyTile k).tile t).bytes x
      = rdByte ((k.applyTile (spanWr vd (64 * g * ty.bytes) (groupBytes n g ty f))).tile t).bytes x := by
  refine rdByte_foldl_applyTile _ (applyTile_wf hw) (fun w h => ?_) t x hx
  split at h
  · exact bfStrips_off _ _ _ w h
  · cases h

/-- Byte i of a span after a group's write: the group's bytes where they stand, else what was there. -/
theorem spanByte_applyOut {k : Core} (hw : k.TilesWf) (hg : ∀ t, k.guardTile t = none) (hl : k.lws = []) {n g : Nat} (vd : Tile16) {ty : Ty}
    (f : Nat → Nat × Nat) {a i : Nat} (ha : 64 * g * ty.bytes = a) (hi : i < 16384) (ha' : a < 16384)
    (hd : a % 4096 + (groupBytes n g ty f).length ≤ 4096) :
    (k.applyOut (veElems n vd ty g f)).spanByte vd i
      = if a ≤ i ∧ i < a + (groupBytes n g ty f).length then (groupBytes n g ty f).getD (i - a) 0 else k.spanByte vd i := by
  have hv := vd.isLt
  have hg' : ∀ t, (k.applyOut (veElems n vd ty g f)).guardTile t = none := by
    intro t
    rw [applyOut_veElems hg hl, guardTile_of_chans ((addClip_chans _ _ _ _).trans (foldl_applyTile_chans _ _)), hg]
  rw [spanByte_unguarded hg', applyOut_veElems hg hl, addClip_tile, rdByte_veElems hw _ _ _ _ _ _ (Nat.mod_lt _ (by decide)),
    rdByte_applyTile hw, spanByte_unguarded hg, ha]
  have hc : ((vd.val + i / 4096) % 16 = (vd.val + a / 4096) % 16 ∧ a % 4096 ≤ i % 4096 ∧ i % 4096 < a % 4096 + (groupBytes n g ty f).length)
      ↔ a ≤ i ∧ i < a + (groupBytes n g ty f).length := by omega
  by_cases h : a ≤ i ∧ i < a + (groupBytes n g ty f).length
  · have hx : i % 4096 - a % 4096 = i - a := by omega
    rw [if_pos h, ← hx]
    exact if_pos (hc.2 h)
  · rw [if_neg h]
    exact if_neg fun h' => h (hc.1 h')

/-! ### The place of a group's bytes -/

section
variable {k : Core} {n g e : Nat} {vd : Tile16} {ty : Ty} {f : Nat → Nat × Nat}

theorem groupBytes_length : (groupBytes n g ty f).length = Nat.min 64 (n - 64 * g) * ty.bytes := by
  rw [groupBytes, length_flatMap_leBytes]
  simp [groupIdx]

/-- Element e of a group stands in its bytes (R100). -/
theorem groupBytes_getD (he : e < n) (hg : e / 64 = g) {j : Nat} (hj : j < ty.bytes) :
    (groupBytes n g ty f).getD (e * ty.bytes + j - 64 * g * ty.bytes) 0 = (leBytes ty.bytes (f e).1).getD j 0 := by
  have hm : e - 64 * g < Nat.min 64 (n - 64 * g) := Nat.lt_min.2 (by omega)
  have hi : e * ty.bytes + j - 64 * g * ty.bytes = (e - 64 * g) * ty.bytes + j := by
    rw [Nat.sub_mul]
    have := Nat.mul_le_mul_right ty.bytes (show 64 * g ≤ e by omega)
    omega
  rw [hi, groupBytes, getD_flatMap_leBytes _ hj _ _ (by simpa [groupIdx] using hm)]
  simp [groupIdx, hm, show 64 * g + (e - 64 * g) = e by omega]

theorem ty_bytes_cases (ty : Ty) : ty.bytes = 1 ∨ ty.bytes = 2 ∨ ty.bytes = 4 := by cases ty <;> decide

/-- A group's bytes lie in one tile register. -/
theorem group_within (hn : n ≤ 4096) (hg : 64 * g < n) :
    64 * g * ty.bytes < 16384 ∧ 64 * g * ty.bytes % 4096 + (groupBytes n g ty f).length ≤ 4096 := by
  have hm : Nat.min 64 (n - 64 * g) ≤ 64 := Nat.min_le_left _ _
  rw [groupBytes_length]
  rcases ty_bytes_cases ty with h | h | h <;> rw [h] <;> omega

end

end Sys2Proof.Machine
end

section
/-! PROOFS. What the vector engine computes (R50 to R61, R98 to R124). -/
namespace Sys2Proof.Machine

/-! ### Single elements -/

/-- A NaN operand makes every comparison but NE false (R115). -/
theorem cmpElem_nan {a b : Word32} (h : f32 a = .nan ∨ f32 b = .nan) (c : Cond) : cmpElem c .fp32 a b = decide (c = .ne) := by
  unfold cmpElem
  rcases h with h | h
  · rw [h]; rfl
  · rw [h]; cases f32 a <;> rfl

/-- A NaN operand makes MIN and MAX NaN (R112). -/
theorem fminmax_nan {a b : Word32} (h : f32 a = .nan ∨ f32 b = .nan) (mx : Bool) : fminmax mx a b = nan32 := by
  unfold fminmax
  rcases h with h | h
  · rw [h]
  · rw [h]; cases f32 a <;> rfl

section
variable {a b : Word32} (hx : (f32 a).isFin = true) (hy : (f32 b).isFin = true)
include hx hy

/-- Finite operands compare by their values, so that the zeros are equal (R115). -/
theorem cmpElem_finite (c : Cond) : cmpElem c .fp32 a b = match c with
    | .eq => (f32 a).eqv (f32 b) | .ne => !((f32 a).eqv (f32 b)) | .lt => (f32 a).lt (f32 b) | .le => !((f32 b).lt (f32 a))
    | .gt => (f32 b).lt (f32 a) | .ge => !((f32 a).lt (f32 b)) := by
  obtain ⟨_, _, _, ha⟩ := Num.exists_fin hx
  obtain ⟨_, _, _, hb⟩ := Num.exists_fin hy
  rw [cmpElem, ha, hb]
  rfl

theorem fminmax_finite (mx : Bool) : fminmax mx a b
    = if ((f32 a).lt (f32 b) || ((f32 a).eqv (f32 b) && (f32 a).isNeg && !(f32 b).isNeg)) != mx then a else b := by
  obtain ⟨_, _, _, ha⟩ := Num.exists_fin hx
  obtain ⟨_, _, _, hb⟩ := Num.exists_fin hy
  rw [fminmax, ha, hb]

/-- The operand that MIN and MAX call the less is not the greater (R112). -/
theorem fminmax_less_le (h : ((f32 a).lt (f32 b) || ((f32 a).eqv (f32 b) && (f32 a).isNeg && !(f32 b).isNeg)) = true) :
    (f32 a).val ≤ (f32 b).val := by
  rw [Bool.or_eq_true, Bool.and_eq_true, Bool.and_eq_true, Num.lt_iff hx hy, Num.eqv_iff hx hy] at h
  rcases h with h | ⟨⟨h, -⟩, -⟩
  · exact h.le
  · exact h.le

theorem fminmax_not_less_le (h : ((f32 a).lt (f32 b) || ((f32 a).eqv (f32 b) && (f32 a).isNeg && !(f32 b).isNeg)) = false) :
    (f32 b).val ≤ (f32 a).val := by
  rw [Bool.or_eq_false_iff, ← Bool.not_eq_true, Num.lt_iff hx hy, not_lt] at h
  exact h.1

theorem fmin_val : (f32 (fminmax false a b)).val = min (f32 a).val (f32 b).val := by
  rw [fminmax_finite hx hy, Bool.bne_false]
  split
  · exact (min_eq_left (fminmax_less_le hx hy ‹_›)).symm
  · exact (min_eq_right (fminmax_not_less_le hx hy (Bool.eq_false_iff.2 ‹_›))).symm

theorem fmax_val : (f32 (fminmax true a b)).val = max (f32 a).val (f32 b).val := by
  rw [fminmax_finite hx hy, Bool.bne_true]
  split <;> rename_i h
  · exact (max_eq_left (fminmax_not_less_le hx hy (Bool.not_eq_eq_eq_not.1 h))).symm
  · rw [Bool.not_eq_true', Bool.not_eq_false] at h
    exact (max_eq_right (fminmax_less_le hx hy h)).symm

end

/-! ### A group of elements -/

section
variable {k : Core} {n g : Nat} {vd : Tile16} {ty : Ty} {f : Nat → Nat × Nat}

/-- The code of an element is that of its bytes. -/
theorem elem_eq {u : Core} {t : Tile16} {e : Nat} {d : List Byte} (hd : d.length = ty.bytes)
    (h : ∀ j < ty.bytes, u.spanByte t (e * ty.bytes + j) = d.getD j 0) : u.elem t ty e = leNat d := by
  rw [Core.elem]
  refine congrArg leNat (List.ext_getElem (by simp [hd]) fun j hj _ => ?_)
  have hj' : j < ty.bytes := by simpa using hj
  rw [List.getElem_map, List.getElem_range, h j hj', List.getD_eq_getElem?_getD, List.getElem?_eq_getElem (by omega)]
  rfl

section
variable (hw : k.TilesWf) (hg : ∀ t, k.guardTile t = none) (hl : k.lws = []) (hn : n ≤ 4096)
include hw hg hl hn

/-- An element that a group computes reads as its code modulo the width of its type. -/
theorem elem_applyOut_inside {e : Nat} (he : e < n) (hge : e / 64 = g) :
    (k.applyOut (veElems n vd ty g f)).elem vd ty e = (f e).1 % 256 ^ ty.bytes := by
  obtain ⟨ha, hd⟩ := group_within (f := f) (ty := ty) hn (show 64 * g < n by omega)
  rw [elem_eq (leBytes_length ty.bytes (f e).1), leNat_leBytes_mod]
  intro j hj
  have hm : e - 64 * g < Nat.min 64 (n - 64 * g) := Nat.lt_min.2 (by omega)
  have hlen := groupBytes_length (n := n) (g := g) (ty := ty) (f := f)
  have hlo : 64 * g * ty.bytes ≤ e * ty.bytes + j ∧ e * ty.bytes + j < 64 * g * ty.bytes + (groupBytes n g ty f).length := by
    rw [hlen]
    rcases ty_bytes_cases ty with h | h | h <;> rw [h] at hj ⊢ <;> omega
  rw [spanByte_applyOut hw hg hl vd f rfl (by omega) ha hd, if_pos hlo, groupBytes_getD he hge hj]

/-- An element of another group reads as before. -/
theorem elem_applyOut_outside (hgn : 64 * g < n) {e : Nat} (he : e < 4096) (hge : e / 64 ≠ g) :
    (k.applyOut (veElems n vd ty g f)).elem vd ty e = k.elem vd ty e := by
  obtain ⟨ha, hd⟩ := group_within (f := f) (ty := ty) hn hgn
  rw [Core.elem, Core.elem]
  refine congrArg leNat (List.map_congr_left fun j hj => ?_)
  have hj' := List.mem_range.1 hj
  have hm : Nat.min 64 (n - 64 * g) ≤ 64 := Nat.min_le_left _ _
  have hlen := groupBytes_length (n := n) (g := g) (ty := ty) (f := f)
  have hout : e * ty.bytes + j < 16384 ∧ ¬ (64 * g * ty.bytes ≤ e * ty.bytes + j
      ∧ e * ty.bytes + j < 64 * g * ty.bytes + (groupBytes n g ty f).length) := by
    rw [hlen]
    rcases ty_bytes_cases ty with h | h | h <;> rw [h] at hj' ⊢ <;> omega
  rw [spanByte_applyOut hw hg hl vd f rfl hout.1 ha hd, if_neg hout.2]

end

/-- A group changes tile registers and the clip counter alone. -/
theorem applyOut_frame (hg : ∀ t, k.guardTile t = none) (hl : k.lws = []) :
    { k.applyOut (veElems n vd ty g f) with tiles := k.tiles, clips := k.clips } = k := by
  rw [applyOut_veElems hg hl]
  have h := foldl_applyTile_frame (veElems n vd ty g f).wr k
  generalize (veElems n vd ty g f).wr.foldl Core.applyTile k = u at h ⊢
  exact (congrArg (fun x : Core => { x with tiles := k.tiles, clips := k.clips }) (addClip_frame u _ _ _)).trans
    (congrArg (fun x : Core => { x with clips := k.clips }) h)

end

/-! ### Compress and expand -/

/-- VE.CMPR writes as many elements as there are marks (R123). -/
theorem veFinish_cmpr (ty : Ty) (vd va vm : Tile16) (cnt : CountSrc) (n : Nat) : ∀ {a m : List Nat}, m.length ≤ a.length →
    (veFinish (.cmpr ty vd va vm cnt) n a m).2 = some (m.filter fun x => decide (x ≠ 0)).length := by
  intro a m h
  have hz : (a.zip m).map Prod.snd = m := List.map_snd_zip h
  have hl : (m.filter fun x => decide (x ≠ 0)) = ((a.zip m).filter fun x => decide (x.2 ≠ 0)).map Prod.snd := by
    conv_lhs => rw [← hz, List.filter_map]
    rfl
  rw [hl, List.length_map]
  simp [veFinish]

/-- VE.EXPD reads as many elements as there are marks (R124). -/
theorem veFinish_expd (ty : Ty) (vd va vm : Tile16) (cnt : CountSrc) (n : Nat) (a m : List Nat) :
    (veFinish (.expd ty vd va vm cnt) n a m).2 = some (m.filter fun x => decide (x ≠ 0)).length := by
  simp only [veFinish, List.filter_map, List.length_map]
  rfl

/-! ### The claim -/

/-- Settles O5: a rounding by the quotient and its remainder, a conversion by the fields of the code, a sum over a common exponent, and a group's
write byte by byte. -/
theorem vectorArithmetic : Obligations.VectorArithmetic := by
  refine ⟨?rounding, ?formats, ?exact, ?elements, clipAdd_fields, ?group, ?groups, ?marks⟩
  case rounding =>
    intro rnd r24 m e q u d
    have hd : 0 < d := Nat.two_pow_pos _
    refine ⟨roundUnits_fine, roundUnits_exact, fun h hr => ?_, fun h hr => ?_, fun h hr => ?_, fun h hr => ?_⟩ <;> subst hr
    · have hu : u = m / d := roundUnits_rtz h
      rw [hu]
      exact floor_bounds m d hd
    · exact nearestEven_bounds m d u hd (roundUnits_rne h)
    · exact nearestAway_bounds m d u hd (roundUnits_rna h)
    · exact roundUnits_dsr h
  case formats =>
    intro f rnd r24 c n m mm e me hc
    refine ⟨fun hf => encWide_dec hf rnd r24 hc, fun h1 h2 => ⟨encNarrow_dec h1 h2 rnd r24 hc, fun hm => ⟨fun h => ?_, fun h => ?_⟩, rfl, rfl⟩⟩
    · rw [encNarrow_fin hm, if_pos ((magGt_iff _ _ _ _).2 h)]
    · rw [encNarrow_fin hm, if_neg (fun h' => absurd ((magGt_iff _ _ _ _).1 h') (not_lt.2 h))]
  case exact =>
    intro x y k hx hy
    obtain ⟨haf, hav⟩ := Num.add_exact hx hy
    obtain ⟨hmf, hmv⟩ := Num.mul_exact hx hy
    exact ⟨haf, hav, hmf, hmv, Num.neg_val x, Num.scale_val x k, Num.nan_add y, Num.add_nan x, rfl⟩
  case elements =>
    intro a b d rnd ac bc c z
    refine ⟨⟨rfl, rfl, rfl, rfl, rfl⟩, ?_, fun h => ⟨cmpElem_nan h c, fminmax_nan h _, fminmax_nan h _⟩, fun hx hy => ?_⟩
    · rw [← laneInt_int32 a, ← laneInt_int32 b]
      exact ⟨rfl, rfl, rfl, clampI32_toInt z, clampU8_value z, clampI32_count z, clampU8_count z⟩
    · rw [cmpElem_finite hx hy, cmpElem_finite hx hy, cmpElem_finite hx hy]
      refine ⟨Num.lt_iff hx hy, Num.eqv_iff hx hy, ?_, fmin_val hx hy, fmax_val hx hy⟩
      rw [Bool.not_eq_true', ← Bool.not_eq_true, Num.lt_iff hx hy, not_lt]
  case group =>
    intro k n g e e' vd ty f hw hb hg hl hn he hge he' hge'
    exact ⟨elem_applyOut_inside ⟨hw, hb⟩ hg hl hn he hge, elem_applyOut_outside ⟨hw, hb⟩ hg hl hn (by omega) he' hge', applyOut_frame hg hl⟩
  case groups => exact fun _ _ _ _ _ _ _ _ _ _ _ _ _ _ _ _ _ => ⟨rfl, rfl, rfl, rfl, rfl, rfl⟩
  case marks => exact fun ty vd va vm cnt n a m h => ⟨veFinish_cmpr ty vd va vm cnt n h, veFinish_expd ty vd va vm cnt n a m⟩

end Sys2Proof.Machine
end

section
/-! PROOFS. What the lane row and the readout unit compute (R42 to R49, R69 to R74, R83 to R89). -/
namespace Sys2Proof.Machine

/-! ### Writes of bank elements -/

/-- A key after a fold of writes: what every write to it writes, else what was there. -/
theorem sget_foldl_sset_at {α ι : Type} [DecidableEq α] {d : α} {key : ι → Nat} {v : ι → α} {n : Nat} {x : α} (l : List ι) :
    ∀ {m : Sparse α}, Sparse.Wf d m → (∀ i ∈ l, key i = n → v i = x) →
      sget d (l.foldl (fun m i => sset d m (key i) (v i)) m) n = if ∃ i ∈ l, key i = n then x else sget d m n := by
  induction l with
  | nil => intro m _ _; simp
  | cons i l ih =>
    intro m hm hv
    rw [List.foldl_cons, ih (sset_wf m _ _ hm) fun j hj => hv j (by simp [hj])]
    by_cases hi : key i = n
    · have hx := hv i (by simp) hi
      subst hi
      simp [sget_sset_same m _ _ hm, hx]
    · simp [hi, sget_sset_ne m _ _ _ hm (Ne.symm hi)]

/-- Elements of one bank have one key only where lane and column agree. -/
theorem bankKey_inj {b i j c d : Nat} (hc : c < 64) (hd : d < 64) (h : bankKey b i c = bankKey b j d) : i = j ∧ c = d := by
  unfold bankKey at h
  omega

/-! ### The lanes of an operand beat -/

@[simp] theorem addClip_banks (k : Core) (t sat inv : Nat) : (k.addClip t sat inv).banks = k.banks := by
  unfold Core.addClip
  split <;> rfl

/-- One lane adds: its element is written, its counts are added. `f` is the sum of a lane over the banks as they stand. -/
def laneAdd (key : Nat → Nat) (f : Sparse Word32 → Nat → Word32 × Nat × Nat) (x : Sparse Word32 × Nat × Nat) (i : Nat) :
    Sparse Word32 × Nat × Nat :=
  (sset 0 x.1 (key i) (f x.1 i).1, x.2.1 + (f x.1 i).2.1, x.2.2 + (f x.1 i).2.2)

/-- Lanes that write elements of their own, each reading that element alone, add as though all read the banks of the beat's start. -/
theorem foldl_laneAdd {key : Nat → Nat} {f : Sparse Word32 → Nat → Word32 × Nat × Nat} {b : Sparse Word32}
    (hf : ∀ m i, sget 0 m (key i) = sget 0 b (key i) → f m i = f b i) (l : List Nat) : l.Pairwise (fun i j => key i ≠ key j) →
    ∀ m s n, Sparse.Wf 0 m → (∀ i ∈ l, sget 0 m (key i) = sget 0 b (key i)) →
      l.foldl (laneAdd key f) (m, s, n) = (l.foldl (fun m i => sset 0 m (key i) (f b i).1) m,
        s + (l.map fun i => (f b i).2.1).sum, n + (l.map fun i => (f b i).2.2).sum) := by
  induction l with
  | nil => exact fun _ _ _ _ _ _ => rfl
  | cons i l ih =>
    intro hp m s n hm hl
    obtain ⟨hi, hp⟩ := List.pairwise_cons.1 hp
    have hfi : f m i = f b i := hf m i (hl i (by simp))
    rw [List.foldl_cons, laneAdd, hfi, ih hp _ _ _ (sset_wf m _ _ hm)]
    · simp only [List.foldl_cons, List.map_cons, List.sum_cons, Nat.add_assoc]
    · exact fun j hj => (sget_sset_ne m _ _ _ hm (Ne.symm (hi j hj))).trans (hl j (by simp [hj]))

/-- The active lanes are those of the half that HALF and HSEL name (R85). -/
theorem lanes_eq (a : MmArgs) : a.lanes = (List.range 64).filter fun i =>
    decide (i < 64) && (decide (a.half = none) || decide (a.half = some (decide (32 ≤ i)))) := by
  unfold MmArgs.lanes
  cases a.half with
  | none => decide
  | some h => cases h <;> decide

/-- The bank element that lane i adds to in operand beat o (R69, R84). -/
def operandKey (a : MmArgs) (o i : Nat) : Nat := bankKey a.acc.val i ((a.col.val + o % Nat.max (a.nt.val + 1) 4) % 64)

/-- What lane i adds in operand beat o over the banks b (R69, R83 to R85). -/
def Core.laneSum (k : Core) (sh : MmShape) (a : MmArgs) (sa ss : Word64) (blk : List Byte) (o : Nat) (b : Sparse Word32) (i : Nat) :
    Word32 × Nat × Nat :=
  let q := o / Nat.max (a.nt.val + 1) 4
  let j := o % Nat.max (a.nt.val + 1) 4
  beatStep sh (if a.clr && decide (q = 0) then 0 else sget 0 b (operandKey a o i)) ((k.latch a.ls).word (64 * i) 64)
    ((k.latch a.ls).word (4352 + 16 * i) 16) ((k.latch a.ls).word (4096 + 4 * i) 4) (k.scaleRec ss j) q (k.quarterOps sh a sa blk q j)

section
variable (k : Core) (sh : MmShape) (a : MmArgs) (sa ss : Word64) (blk : List Byte) (o : Nat)

/-- An operand beat folds its lanes and charges their counts. -/
theorem operandBeat_fold : k.operandBeat sh a sa ss blk o
    = { k with banks := (a.lanes.foldl (laneAdd (operandKey a o) (k.laneSum sh a sa ss blk o)) (k.banks, 0, 0)).1 }.addClip (k.latch a.ls).src.val
      (a.lanes.foldl (laneAdd (operandKey a o) (k.laneSum sh a sa ss blk o)) (k.banks, 0, 0)).2.1
      (a.lanes.foldl (laneAdd (operandKey a o) (k.laneSum sh a sa ss blk o)) (k.banks, 0, 0)).2.2 := rfl

theorem operandKey_inj {i j : Nat} (h : operandKey a o i = operandKey a o j) : i = j :=
  (bankKey_inj (Nat.mod_lt _ (by decide)) (Nat.mod_lt _ (by decide)) h).1

section
variable (h : Sparse.Wf 0 k.banks)
include h

/-- An operand beat writes each active lane's sum over the banks of its start and charges the sums of the counts. -/
theorem operandBeat_eq : k.operandBeat sh a sa ss blk o
    = { k with banks := a.lanes.foldl (fun m i => sset 0 m (operandKey a o i) (k.laneSum sh a sa ss blk o k.banks i).1) k.banks }.addClip
      (k.latch a.ls).src.val (a.lanes.map fun i => (k.laneSum sh a sa ss blk o k.banks i).2.1).sum
      (a.lanes.map fun i => (k.laneSum sh a sa ss blk o k.banks i).2.2).sum := by
  have hf : ∀ m i, sget 0 m (operandKey a o i) = sget 0 k.banks (operandKey a o i) →
      k.laneSum sh a sa ss blk o m i = k.laneSum sh a sa ss blk o k.banks i := by
    intro m i hm
    rw [Core.laneSum, Core.laneSum, hm]
  have hp : a.lanes.Pairwise fun i j => operandKey a o i ≠ operandKey a o j := by
    rw [lanes_eq]
    exact (List.nodup_range.filter _).imp fun hne hk => hne (operandKey_inj a o hk)
  rw [operandBeat_fold, foldl_laneAdd hf _ hp _ _ _ h fun _ _ => rfl, Nat.zero_add, Nat.zero_add]

theorem operandBeat_banks {n : Nat} {x : Word32} (hx : ∀ i ∈ a.lanes, operandKey a o i = n → (k.laneSum sh a sa ss blk o k.banks i).1 = x) :
    sget 0 (k.operandBeat sh a sa ss blk o).banks n = if ∃ i ∈ a.lanes, operandKey a o i = n then x else sget 0 k.banks n := by
  rw [operandBeat_eq k sh a sa ss blk o h, addClip_banks]
  exact sget_foldl_sset_at a.lanes h hx

/-- The element of an active lane holds its sum (R69). -/
theorem operandBeat_lane {i : Nat} (hi : i ∈ a.lanes) :
    sget 0 (k.operandBeat sh a sa ss blk o).banks (operandKey a o i) = (k.laneSum sh a sa ss blk o k.banks i).1 := by
  rw [operandBeat_banks k sh a sa ss blk o h fun j _ hj => by rw [operandKey_inj a o hj]]
  exact if_pos ⟨i, hi, rfl⟩

/-- Every other element keeps its value. -/
theorem operandBeat_apart {n : Nat} (hn : ∀ i ∈ a.lanes, n ≠ operandKey a o i) :
    sget 0 (k.operandBeat sh a sa ss blk o).banks n = sget 0 k.banks n := by
  rw [operandBeat_banks k sh a sa ss blk o h (x := 0) fun i hi hk => absurd hk.symm (hn i hi)]
  exact if_neg fun ⟨i, hi, hk⟩ => hn i hi hk.symm

/-- The counts go to the clip counter of the set's SRC alone (R74). -/
theorem operandBeat_clip (hc : Sparse.Wf 0 k.clips) (u : Nat) : (k.operandBeat sh a sa ss blk o).clip u
    = if u = (k.latch a.ls).src.val then clipAdd (k.clip (k.latch a.ls).src)
        (a.lanes.map fun i => (k.laneSum sh a sa ss blk o k.banks i).2.1).sum (a.lanes.map fun i => (k.laneSum sh a sa ss blk o k.banks i).2.2).sum
      else k.clip u := by
  rw [operandBeat_eq k sh a sa ss blk o h, addClip_clip (by exact hc)]
  rfl

end

/-- An operand beat changes banks and clip counters alone. -/
theorem operandBeat_frame : { k.operandBeat sh a sa ss blk o with banks := k.banks, clips := k.clips } = k := by
  rw [operandBeat_fold]
  exact congrArg (fun x : Core => { x with banks := k.banks }) (addClip_frame _ _ _ _)

end

/-! ### Beat sums -/

/-- MM.N2 adds the integer products to the accumulator and clamps (R45, R46); a ternary code 0b10 counts and adds nothing (R35). -/
theorem beatStep_n2 (t : Bool) (acc : Word32) (row esc ws os q : Nat) (ops : List Nat) : beatStep (.n2 t) acc row esc ws os q ops
    = let z := acc.toInt + ((List.range 64).map fun e =>
        (if t && decide (elemAt row 2 (q * 64 + e) = 2) then 0 else n2Int (elemAt row 2 (q * 64 + e))) * n2Int (ops.getD e 0)).sum
      ((clampI32 z).1, (clampI32 z).2, if t then ((List.range 64).filter fun e => decide (elemAt row 2 (q * 64 + e) = 2)).length else 0) := by
  rw [List.sum_eq_foldl, ← signed_toNat]
  rfl

/-- The exact sum of a shape with scales, before its one rounding (R44). -/
def scaledSum (sh : MmShape) (row esc q : Nat) (ops : List Nat) : Num :=
  (List.range sh.k).foldl (fun y e => y.add ((weightNum sh row esc q e).mul (operandNum sh (ops.getD e 0)))) (Num.fin false 0 0)

section
variable {sh : MmShape} {acc : Word32} {row esc ws os q : Nat} {ops : List Nat}

/-- The shapes with an exact sum (R44): scaled and added to the accumulator with one rounding. -/
theorem beatStep_scaled (h1 : sh ≠ .b16) (h2 : ∀ t, sh ≠ .n2 t) {x : Int} (hs : scaleSum sh ws os q = some x) :
    (beatStep sh acc row esc ws os q ops).1 = to32 ((f32 acc).add ((scaledSum sh row esc q ops).scale x)) := by
  cases sh with
  | b16 => exact absurd rfl h1
  | n2 t => exact absurd rfl (h2 t)
  | f8 _ _ | f4 | f4e | n3 => simp only [beatStep, hs]; rfl

/-- A NaN scale makes the element NaN (R48). -/
theorem beatStep_nanScale (h1 : sh ≠ .b16) (h2 : ∀ t, sh ≠ .n2 t) (hs : scaleSum sh ws os q = none) :
    (beatStep sh acc row esc ws os q ops).1 = nan32 := by
  cases sh with
  | b16 => exact absurd rfl h1
  | n2 t => exact absurd rfl (h2 t)
  | f8 _ _ | f4 | f4e | n3 => simp only [beatStep, hs]

/-- Only escapes that clash are counted beside MM.N2 (R41). -/
theorem beatStep_counts (h1 : sh ≠ .b16) (h2 : ∀ t, sh ≠ .n2 t) :
    (beatStep sh acc row esc ws os q ops).2 = (0, if sh = .f4e then escClash esc q else 0) := by
  cases sh with
  | b16 => exact absurd rfl h1
  | n2 t => exact absurd rfl (h2 t)
  | f8 _ _ | f4 | f4e | n3 => rfl

end

/-! ### Readout and load -/

/-- Beat t of MM.RD writes the conversions of columns 2t and 2t + 1 of row i (R88). -/
theorem readoutBeat_row (k : Core) (acc col : Nat) (td : Tile16) (df : RdFmt) (rnd : Rnd) (st : Word64) (lstep t : Nat) {i : Nat} (hi : i < 64) :
    let x (e : Nat) : Nat × Nat :=
      rdElem df rnd (dsr24 lstep (st.truncate 32) (i * df.cols + e)) (sget 0 k.banks (bankKey acc i ((col + e) % 64)))
    (k.readoutBeat acc col td df rnd st lstep t).1[i]?
      = some ⟨td, 64 * i + 2 * t * df.bytes, leBytes df.bytes (x (2 * t)).1 ++ leBytes df.bytes (x (2 * t + 1)).1⟩ := by
  simp [Core.readoutBeat, hi]

/-- The elements that beat t of MM.LA loads, with their keys (R89). -/
def loadElems (k : Core) (acc col : Nat) (ts : Tile16) (t : Nat) : List (Nat × Word32) :=
  (List.range 64).flatMap fun i => [2 * t, 2 * t + 1].map fun e =>
    (bankKey acc i ((col + e) % 64), BitVec.ofNat 32 (leNat (rdBytes (k.engTile ts.val).bytes (64 * i + 4 * e) 4)))

theorem loadBeat_banks (k : Core) (acc col : Nat) (ts : Tile16) (t : Nat) :
    (k.loadBeat acc col ts t).banks = (loadElems k acc col ts t).foldl (fun m e => sset 0 m e.1 e.2) k.banks := by
  rw [Core.loadBeat, loadElems]

theorem loadBeat_frame (k : Core) (acc col : Nat) (ts : Tile16) (t : Nat) : { k.loadBeat acc col ts t with banks := k.banks } = k := by
  rw [Core.loadBeat]

theorem mem_loadElems {k : Core} {acc col : Nat} {ts : Tile16} {t : Nat} {x : Nat × Word32} : x ∈ loadElems k acc col ts t
    ↔ ∃ i < 64, ∃ e, (e = 2 * t ∨ e = 2 * t + 1)
      ∧ x = (bankKey acc i ((col + e) % 64), BitVec.ofNat 32 (leNat (rdBytes (k.engTile ts.val).bytes (64 * i + 4 * e) 4))) := by
  simp [loadElems]

/-- A column of the beat holds its word of the tile register after the load. -/
theorem loadBeat_column {k : Core} (h : Sparse.Wf 0 k.banks) (acc col : Nat) (ts : Tile16) {t i e : Nat} (hi : i < 64)
    (he : e = 2 * t ∨ e = 2 * t + 1) : sget 0 (k.loadBeat acc col ts t).banks (bankKey acc i ((col + e) % 64))
      = BitVec.ofNat 32 (leNat (rdBytes (k.engTile ts.val).bytes (64 * i + 4 * e) 4)) := by
  rw [loadBeat_banks, sget_foldl_sset_at (x := BitVec.ofNat 32 (leNat (rdBytes (k.engTile ts.val).bytes (64 * i + 4 * e) 4))) _ h]
  · exact if_pos ⟨_, mem_loadElems.2 ⟨i, hi, e, he, rfl⟩, rfl⟩
  · intro x hx hk
    obtain ⟨i', -, e', he', rfl⟩ := mem_loadElems.1 hx
    obtain ⟨rfl, hc⟩ := bankKey_inj (Nat.mod_lt _ (by decide)) (Nat.mod_lt _ (by decide)) hk
    obtain rfl : e' = e := by omega
    rfl

/-- Every other element keeps its value. -/
theorem loadBeat_apart {k : Core} (h : Sparse.Wf 0 k.banks) {acc col : Nat} (ts : Tile16) {t key : Nat}
    (hk : ∀ i < 64, key ≠ bankKey acc i ((col + 2 * t) % 64) ∧ key ≠ bankKey acc i ((col + (2 * t + 1)) % 64)) :
    sget 0 (k.loadBeat acc col ts t).banks key = sget 0 k.banks key := by
  have hne : ∀ x ∈ loadElems k acc col ts t, x.1 ≠ key := by
    intro x hx
    obtain ⟨i, hi, e, rfl | rfl, rfl⟩ := mem_loadElems.1 hx
    · exact (hk i hi).1.symm
    · exact (hk i hi).2.symm
  rw [loadBeat_banks, sget_foldl_sset_at (x := 0) _ h fun x hx hkey => absurd hkey (hne x hx)]
  exact if_neg fun ⟨x, hx, hkey⟩ => hne x hx hkey

/-! ### The claim -/

/-- Settles O10: the lanes of a beat write elements of their own, the sums are those of each shape, and readout and load take two columns. The
beat that charges the counts and the value that an addition reads are the model's readings (log entries 16 and 125). -/
theorem matrixArithmetic : Obligations.MatrixArithmetic := by
  refine ⟨?operand, ?integers, ?scaled, fun sh a e2 => ⟨by cases sh <;> rfl, by cases sh <;> rfl⟩, ?readout, ?load⟩
  case operand =>
    intro k sh a sa ss blk o i key t hb hc mx q j at_ l step active rows k1
    have hrow : ∀ i, active i = true ↔ i ∈ a.lanes := by
      intro i
      rw [lanes_eq]
      simp +contextual [active]
    refine ⟨fun ha => operandBeat_lane k sh a sa ss blk o hb ((hrow i).1 ha),
      fun hne => operandBeat_apart k sh a sa ss blk o hb fun i hi => hne i ((hrow i).2 hi), ?_,
      fun ht => (operandBeat_clip k sh a sa ss blk o hb hc t).trans (if_neg fun h => ht (Fin.ext h)), operandBeat_frame k sh a sa ss blk o⟩
    have hclip := (operandBeat_clip k sh a sa ss blk o hb hc l.src).trans (if_pos rfl)
    rw [lanes_eq] at hclip
    exact hclip
  case integers =>
    intro acc row esc ws os q ops tern p w s r
    have hr := beatStep_n2 tern acc row esc ws os q ops
    exact ⟨rfl, (congrArg (fun x => x.1.toInt) hr).trans (clampI32_toInt _), (congrArg (fun x => x.2.1) hr).trans (clampI32_count _),
      congrArg (fun x => x.2.2) hr⟩
  case scaled =>
    intro sh acc row esc ws os q ops x h1 h2 p s r
    refine ⟨beatStep_scaled h1 h2, beatStep_nanScale h1 h2, beatStep_counts h1 h2, fun hp => ?_, fun ⟨e, he, hn⟩ => ?_⟩
    · obtain ⟨hf, hv⟩ := Num.foldl_add_exact p (List.range sh.k) (Num.fin false 0 0) rfl fun e he => hp e (List.mem_range.1 he)
      exact ⟨hf, by simpa [Num.val] using hv⟩
    · exact Num.foldl_add_nan p _ _ (.inr ⟨e, List.mem_range.2 he, hn⟩)
  case readout => exact fun k acc col td df rnd st lstep t i hi => readoutBeat_row k acc col td df rnd st lstep t hi
  case load =>
    intro k acc col ts t i key hb k1 word
    exact ⟨fun hi => ⟨loadBeat_column hb acc col ts hi (.inl rfl), loadBeat_column hb acc col ts hi (.inr rfl)⟩, loadBeat_apart hb ts,
      loadBeat_frame k acc col ts t⟩

end Sys2Proof.Machine
end

section
/-! PROOFS. An instruction word read back (R76, R106, R138, R139, R143, R144): a word is its opcode, its header and 41 operand bits, and each form of
operands is a row of fields. -/
namespace Sys2Proof
open Sys2Proof.Machine

/-! ### The parts of a word -/

theorem b2n_le (b : Bool) : b2n b ≤ 1 := by cases b <;> decide

@[simp] theorem b2n_true : b2n true = 1 := rfl

@[simp] theorem b2n_false : b2n false = 0 := rfl

theorem bitOf_eq (w i : Nat) : bitOf w i = decide (w / 2 ^ i % 2 = 1) := Nat.testBit_eq_decide_div_mod_eq

/-- A bit that spells a flag reads as the flag. -/
theorem bitOf_of_b2n {w i : Nat} {b : Bool} (h : w / 2 ^ i % 2 = b2n b) : bitOf w i = b := by
  rw [bitOf_eq, h]
  cases b <;> rfl

/-- A field that spells a number below n reads as the number. -/
theorem ofNat_bitsOf {n w hi lo : Nat} [NeZero n] {x : Fin n} (h : w / 2 ^ lo % 2 ^ (hi + 1 - lo) = x.val) :
    Fin.ofNat n (bitsOf w hi lo) = x := by
  rw [bitsOf, h]
  exact Fin.ofNat_val_eq_self x

/-- The number w has opcode `opc` and operand bits `low`. -/
structure HasForm (w opc low : Nat) : Prop where
  opc_eq : w / 2 ^ 56 % 256 = opc
  low_eq : w % 2 ^ 41 = low

/-- The bits of a header's Waymark waited on, W and WW (R138). -/
def Hdr.waitBits (h : Hdr) : Nat :=
  match h.w with
  | some n => 2 ^ 52 + n.val * 2 ^ 47
  | none => 0

/-- The bits of a header's Waymark signalled, WS and SE (R138). -/
def Hdr.signalBits (h : Hdr) : Nat :=
  match h.s with
  | some n => n.val * 2 ^ 42 + 2 ^ 41
  | none => 0

/-- A Waymark field reads as the Waymark, where its flag tells whether there is one and its number is the Waymark's. -/
theorem waymarkField {w i hi lo : Nat} {x : Option (Fin 32)} (hf : w / 2 ^ i % 2 = b2n x.isSome) (hn : ∀ n ∈ x, bitsOf w hi lo = n.val) :
    (if bitOf w i then some (Fin.ofNat 32 (bitsOf w hi lo)) else none) = x := by
  rw [bitOf_of_b2n hf]
  cases x with
  | none => rfl
  | some n => exact congrArg some (ofNat_bitsOf (hn n rfl))

section
variable {opc low : Nat} (v : Bool) (h : Hdr) (ho : opc < 256) (hl : low < 2 ^ 41)
include ho hl

/-- No part of a word reaches into another. -/
theorem encHdr_toNat : (encHdr opc v h low).toNat
    = opc * 2 ^ 56 + opc / 64 * 2 ^ 54 + b2n v * 2 ^ 53 + h.waitBits + h.signalBits + low := by
  have hv := b2n_le v
  have hq : opc / 64 < 4 := by omega
  have hw : h.waitBits + 2 ^ 47 ≤ 2 ^ 53 := by unfold Hdr.waitBits; split <;> omega
  have hs : h.signalBits + 2 ^ 41 ≤ 2 ^ 47 := by unfold Hdr.signalBits; split <;> omega
  exact (BitVec.toNat_ofNat _ _).trans (Nat.mod_eq_of_lt (by
    change opc * 2 ^ 56 + opc / 64 * 2 ^ 54 + b2n v * 2 ^ 53 + h.waitBits + h.signalBits + low < 2 ^ 64
    omega))

theorem encHdr_hasForm : HasForm (encHdr opc v h low).toNat opc low := by
  have hv := b2n_le v
  have hq : opc / 64 < 4 := by omega
  rw [encHdr_toNat v h ho hl]
  generalize opc / 64 = q at hq
  unfold Hdr.waitBits Hdr.signalBits
  constructor <;> split <;> split <;> omega

theorem decHdr_encHdr : decHdr (encHdr opc v h low).toNat = h := by
  have hv := b2n_le v
  have hq : opc / 64 < 4 := by omega
  unfold decHdr
  rw [encHdr_toNat v h ho hl]
  generalize opc / 64 = q at hq
  obtain ⟨w, s⟩ := h
  congr 1
  · refine waymarkField ?_ fun n hn => ?_
    · cases w <;> cases s <;> simp only [Hdr.waitBits, Hdr.signalBits, Option.isSome, b2n_true, b2n_false] <;> omega
    · obtain rfl := hn
      cases s <;> simp only [Hdr.waitBits, Hdr.signalBits, bitsOf] <;> omega
  · refine waymarkField ?_ fun n hn => ?_
    · cases w <;> cases s <;> simp only [Hdr.waitBits, Hdr.signalBits, Option.isSome, b2n_true, b2n_false] <;> omega
    · obtain rfl := hn
      cases w <;> simp only [Hdr.waitBits, Hdr.signalBits, bitsOf] <;> omega

end

/-! ### Control-core instructions (R143, R144, R257) -/

theorem bitVec_ofNat_eq {n w : Nat} {x : BitVec n} (h : w % 2 ^ n = x.toNat) : BitVec.ofNat n w = x :=
  BitVec.eq_of_toNat_eq ((BitVec.toNat_ofNat _ _).trans h)

section
variable {w : Nat} {rd ra rb : Reg}

/-- The fields of form R. -/
theorem read_formR (f : Reg → Reg → Reg → CcOp) (hl : w % 2 ^ 41 = formR rd ra rb) :
    some (AnyOp.cc (f (Fin.ofNat 64 (bitsOf w 40 35)) (Fin.ofNat 64 (bitsOf w 34 29)) (Fin.ofNat 64 (bitsOf w 28 23))))
      = some (.cc (f rd ra rb)) := by
  unfold formR at hl
  rw [ofNat_bitsOf (x := rd) (by omega), ofNat_bitsOf (x := ra) (by omega), ofNat_bitsOf (x := rb) (by omega)]

/-- The fields of forms I and B. -/
theorem read_formI {imm : BitVec 29} (f : Reg → Reg → BitVec 29 → CcOp) (hl : w % 2 ^ 41 = formI rd ra imm) :
    some (AnyOp.cc (f (Fin.ofNat 64 (bitsOf w 40 35)) (Fin.ofNat 64 (bitsOf w 34 29)) (BitVec.ofNat 29 w))) = some (.cc (f rd ra imm)) := by
  unfold formI at hl
  rw [ofNat_bitsOf (x := rd) (by omega), ofNat_bitsOf (x := ra) (by omega), bitVec_ofNat_eq (x := imm) (by omega)]

/-- The fields of CC.LI and CC.LIH. -/
theorem read_li {imm : Word32} (f : Reg → Word32 → CcOp) (hl : w % 2 ^ 41 = rd.val * 2 ^ 35 + imm.toNat) :
    some (AnyOp.cc (f (Fin.ofNat 64 (bitsOf w 40 35)) (BitVec.ofNat 32 w))) = some (.cc (f rd imm)) := by
  rw [ofNat_bitsOf (x := rd) (by omega), bitVec_ofNat_eq (x := imm) (by omega)]

/-- The fields of CC.RDS and CC.RDSC. -/
theorem read_selector {sel : Byte} (f : Reg → Byte → CcOp) (hl : w % 2 ^ 41 = rd.val * 2 ^ 35 + sel.toNat * 2 ^ 27) :
    some (AnyOp.cc (f (Fin.ofNat 64 (bitsOf w 40 35)) (BitVec.ofNat 8 (bitsOf w 34 27)))) = some (.cc (f rd sel)) := by
  rw [ofNat_bitsOf (x := rd) (by omega), bitVec_ofNat_eq (x := sel) (by unfold bitsOf; omega)]

/-- The Pass that a PID names (R256). -/
theorem read_pass {p : PassId} (f : PassId → CcOp) (hl : w % 2 ^ 41 = p.code * 2 ^ 38) :
    some (AnyOp.cc (f (decPass (bitsOf w 40 38)))) = some (.cc (f p)) := by
  have hp : bitsOf w 40 38 = p.code := by
    cases p <;> simp only [PassId.code, bitsOf] at hl ⊢ <;> omega
  rw [hp]
  cases p with
  | part => rfl
  | mod m => fin_cases m <;> rfl

/-- The Pass of CC.PENTER with its L and RING (R257). -/
theorem read_penter {p : EnterArg} (hl : w % 2 ^ 41 = (encCc (.penter p)).2.2) :
    some (AnyOp.cc (.penter (if bitsOf w 40 38 < 4 then .part else .mod (Fin.ofNat 4 (bitsOf w 40 38)) (bitOf w 37) (bitOf w 36))))
      = some (.cc (.penter p)) := by
  cases p with
  | part =>
    simp only [encCc] at hl
    rw [if_pos (by unfold bitsOf; omega)]
  | mod m l r =>
    simp only [encCc] at hl
    have hl1 := b2n_le l
    have hr1 := b2n_le r
    have hp : bitsOf w 40 38 = 4 + m.val := by unfold bitsOf; omega
    rw [if_neg (by omega), bitOf_of_b2n (b := l) (by omega), bitOf_of_b2n (b := r) (by omega), hp]
    fin_cases m <;> rfl

/-- The fields of CC.PLEVEL (R257). -/
theorem read_plevel {wn : Fin 32} {d now : Bool} {level : BitVec 12} (hl : w % 2 ^ 41 = (encCc (.plevel wn d now level)).2.2) :
    some (AnyOp.cc (.plevel (Fin.ofNat 32 (bitsOf w 40 36)) (bitOf w 35) (bitOf w 34) (BitVec.ofNat 12 w)))
      = some (.cc (.plevel wn d now level)) := by
  simp only [encCc] at hl
  have hd := b2n_le d
  have hn := b2n_le now
  rw [ofNat_bitsOf (x := wn) (by omega), bitOf_of_b2n (b := d) (by omega), bitOf_of_b2n (b := now) (by omega),
    bitVec_ofNat_eq (x := level) (by omega)]

theorem PassId.code_lt (p : PassId) : p.code < 8 := by
  cases p <;> simp only [PassId.code] <;> omega

/-- Opcode and operand bits of a control-core instruction stay within their places. -/
theorem encCc_lt (o : CcOp) : (encCc o).1 < 256 ∧ (encCc o).2.2 < 2 ^ 41 := by
  cases o
  case parrive p | pwait p =>
    have hp := p.code_lt
    simp only [encCc]
    omega
  case penter p =>
    cases p with
    | part => simp [encCc]
    | mod m l r =>
      have hl := b2n_le l
      have hr := b2n_le r
      simp only [encCc]
      omega
  case plevel wn d now level =>
    have hd := b2n_le d
    have hn := b2n_le now
    simp only [encCc]
    omega
  all_goals
    simp only [encCc, formR, formI]
    omega

/-- Each opcode of the control core names its instruction, and the fields of its form are the operands. -/
theorem decRaw_cc (o : CcOp) (hw : HasForm w (encCc o).1 (encCc o).2.2) : decRaw w = some (.cc o) := by
  obtain ⟨ho, hl⟩ := hw
  unfold decRaw
  rw [ho]
  cases o
  case nop | halt => rfl
  case add | sub | mul | and | or | xor | shl | shr | sar | min | max | slt | sltu => exact read_formR _ hl
  case addi | andi | ori | xori | shli | shri | sari | beq | bne | blt | bge | bltu | bgeu | ld | st => exact read_formI _ hl
  case li | lih => exact read_li _ hl
  case rds | rdsc => exact read_selector _ hl
  case parrive | pwait => exact read_pass _ hl
  case jmp off =>
    simp only [encCc] at hl
    exact congrArg (fun i => some (AnyOp.cc (.jmp i))) (bitVec_ofNat_eq (by omega))
  case penter p => cases p <;> exact read_penter hl
  case plevel => exact read_plevel hl

end

/-! ### Matrix instructions (R75 to R89) -/

theorem F8Fmt.code_lt (x : F8Fmt) : x.code < 6 := by cases x <;> decide

theorem decF8_code (x : F8Fmt) : decF8 x.code = x := by cases x <;> rfl

theorem decRnd_code (x : Rnd) : decRnd x.code = x := by cases x <;> rfl

theorem Rnd.code_lt (x : Rnd) : x.code < 4 := by cases x <;> decide

theorem RdFmt.code_lt (x : RdFmt) : x.code < 4 := by cases x <;> decide

theorem MmShape.code_lt (sh : MmShape) : sh.code.1 < 256 ∧ sh.code.2.1 < 8 ∧ sh.code.2.2 < 8 := by
  cases sh with
  | f8 wf opf =>
    have hw := wf.code_lt
    have ho := opf.code_lt
    exact ⟨by simp [MmShape.code], by simp only [MmShape.code]; omega, by simp only [MmShape.code]; omega⟩
  | n2 t => cases t <;> decide
  | _ => decide

/-- HALF and HSEL (R85). -/
def halfCode : Option Bool → Nat
  | none => 0
  | some b => 2 + b2n b

theorem halfCode_lt (x : Option Bool) : halfCode x < 4 := by rcases x with _ | _ | _ <;> decide

theorem encMm_comp (sh : MmShape) (a : MmArgs) : encMm (.comp sh a) = (sh.code.1,
    a.sa.val * 2 ^ 35 + a.ss.val * 2 ^ 29 + a.acc.val * 2 ^ 26 + a.col.val * 2 ^ 20 + a.nt.val * 2 ^ 14 + b2n a.ls * 2 ^ 13 + b2n a.clr * 2 ^ 12
      + halfCode a.half * 2 ^ 10 + b2n a.tr * 2 ^ 9 + sh.code.2.1 * 2 ^ 6 + sh.code.2.2 * 2 ^ 3) := by
  obtain ⟨_, _, _, _, _, _, _, half, _⟩ := a
  rcases hc : sh.code with ⟨opc, wf, f⟩
  cases half <;> simp only [encMm, halfCode, hc, Prod.mk.injEq, true_and] <;> omega

/-- Opcode and operand bits of a matrix instruction stay within their places. -/
theorem encMm_lt (o : MmOp) : (encMm o).1 < 256 ∧ (encMm o).2 < 2 ^ 41 := by
  cases o with
  | lw ts ls =>
    have := b2n_le ls
    simp only [encMm]
    omega
  | comp sh a =>
    obtain ⟨ho, hw, hf⟩ := sh.code_lt
    have hls := b2n_le a.ls
    have hclr := b2n_le a.clr
    have htr := b2n_le a.tr
    have hh := halfCode_lt a.half
    rw [encMm_comp]
    exact ⟨ho, by dsimp only; omega⟩
  | rd acc col td df rnd st =>
    have := df.code_lt
    have := rnd.code_lt
    simp only [encMm]
    omega
  | la acc col ts =>
    simp only [encMm]
    omega

section
variable {w : Nat}

/-- The fields of a compute instruction (R80, R81). -/
theorem read_compute {sh : MmShape} {a : MmArgs} (hl : w % 2 ^ 41 = (encMm (.comp sh a)).2) :
    decArgs w = a ∧ bitsOf w 8 6 = sh.code.2.1 ∧ bitsOf w 5 3 = sh.code.2.2 := by
  obtain ⟨-, hw, hf⟩ := sh.code_lt
  rw [encMm_comp] at hl
  obtain ⟨sa, ss, acc, col, nt, ls, clr, half, tr⟩ := a
  have hls := b2n_le ls
  have hclr := b2n_le clr
  have htr := b2n_le tr
  simp only at hl
  have hh := halfCode_lt half
  refine ⟨?_, by unfold bitsOf; omega, by unfold bitsOf; omega⟩
  simp only [decArgs, MmArgs.mk.injEq]
  refine ⟨ofNat_bitsOf (by omega), ofNat_bitsOf (by omega), ofNat_bitsOf (by omega),
    ofNat_bitsOf (by omega), ofNat_bitsOf (by omega), bitOf_of_b2n (by omega), bitOf_of_b2n (by omega), ?_,
    bitOf_of_b2n (by omega)⟩
  cases half with
  | none =>
    simp only [halfCode] at hl
    rw [bitOf_of_b2n (b := false) (by rw [b2n_false]; omega)]
    rfl
  | some b =>
    have hb := b2n_le b
    simp only [halfCode] at hl
    rw [bitOf_of_b2n (b := true) (by rw [b2n_true]; omega), bitOf_of_b2n (b := b) (by omega)]
    rfl

/-- The accumulator, the column and the register of MM.LA. -/
theorem read_la {acc : Fin 8} {col : Fin 64} {ts : Tile16} (hl : w % 2 ^ 41 = (encMm (.la acc col ts)).2) :
    some (AnyOp.mm (.la (Fin.ofNat 8 (bitsOf w 40 38)) (Fin.ofNat 64 (bitsOf w 37 32)) (Fin.ofNat 16 (bitsOf w 31 28))))
      = some (.mm (.la acc col ts)) := by
  simp only [encMm] at hl
  rw [ofNat_bitsOf (x := acc) (by omega), ofNat_bitsOf (x := col) (by omega),
    ofNat_bitsOf (x := ts) (by omega)]

/-- The fields of MM.RD (R87). -/
theorem read_rd {acc : Fin 8} {col : Fin 64} {td : Tile16} {df : RdFmt} {rnd : Rnd} {st : Reg}
    (hl : w % 2 ^ 41 = (encMm (.rd acc col td df rnd st)).2) :
    some (AnyOp.mm (.rd (Fin.ofNat 8 (bitsOf w 40 38)) (Fin.ofNat 64 (bitsOf w 37 32)) (Fin.ofNat 16 (bitsOf w 31 28))
      ([RdFmt.copy32, .bf16, .e4m3, .e5m2].getD (bitsOf w 27 26) .copy32) (decRnd (bitsOf w 25 24)) (Fin.ofNat 64 (bitsOf w 23 18))))
      = some (.mm (.rd acc col td df rnd st)) := by
  simp only [encMm] at hl
  have hdf := df.code_lt
  have hrnd := rnd.code_lt
  have hd : bitsOf w 27 26 = df.code := by unfold bitsOf; omega
  have hr : bitsOf w 25 24 = rnd.code := by unfold bitsOf; omega
  rw [ofNat_bitsOf (x := acc) (by omega), ofNat_bitsOf (x := col) (by omega),
    ofNat_bitsOf (x := td) (by omega), ofNat_bitsOf (x := st) (by omega), hd, hr, decRnd_code]
  cases df <;> rfl

theorem decRaw_mm (o : MmOp) (hw : HasForm w (encMm o).1 (encMm o).2) : decRaw w = some (.mm o) := by
  obtain ⟨ho, hl⟩ := hw
  unfold decRaw
  rw [ho]
  cases o with
  | lw ts ls =>
    simp only [encMm] at hl
    have hls := b2n_le ls
    change some (AnyOp.mm (.lw (Fin.ofNat 16 (bitsOf w 40 37)) (bitOf w 36))) = _
    rw [ofNat_bitsOf (x := ts) (by omega), bitOf_of_b2n (b := ls) (by omega)]
  | comp sh a =>
    obtain ⟨ha, hwf, hof⟩ := read_compute hl
    cases sh with
    | f8 wf opf =>
      change some (AnyOp.mm (.comp (.f8 (decF8 (bitsOf w 8 6)) (decF8 (bitsOf w 5 3))) (decArgs w))) = _
      rw [hwf, hof, ha]
      simp only [MmShape.code, decF8_code]
    | n2 t =>
      change some (AnyOp.mm (.comp (.n2 (bitOf w 6)) (decArgs w))) = _
      have ht := b2n_le t
      simp only [bitsOf, MmShape.code] at hwf
      rw [bitOf_of_b2n (b := t) (by omega), ha]
    | _ => exact congrArg (fun a => some (AnyOp.mm (.comp _ a))) ha
  | rd => exact read_rd hl
  | la => exact read_la hl

end

/-! ### Stream instructions (R230) -/

theorem encSt_lt (o : StOp) : (encSt o).1 < 256 ∧ (encSt o).2 < 2 ^ 41 := by
  cases o with
  | arm ch sh sa =>
    have := b2n_le sh
    simp only [encSt]
    omega
  | _ =>
    simp only [encSt]
    omega

section
variable {w : Nat}

/-- A channel number in its field. -/
theorem read_channel {n : Nat} [NeZero n] {ch : Fin n} {o : Fin n → StOp} (hp : bitsOf w 40 38 = ch.val) :
    (if bitsOf w 40 38 < n then some (AnyOp.st (o (Fin.ofNat n (bitsOf w 40 38)))) else none) = some (.st (o ch)) := by
  rw [if_pos (by omega), ofNat_bitsOf hp]

theorem decRaw_st (o : StOp) (hw : HasForm w (encSt o).1 (encSt o).2) : decRaw w = some (.st o) := by
  obtain ⟨ho, hl⟩ := hw
  unfold decRaw
  rw [ho]
  cases o with
  | arm ch sh sa =>
    simp only [encSt] at hl
    have hsh := b2n_le sh
    rw [← ofNat_bitsOf (w := w) (hi := 36) (lo := 31) (x := sa) (by omega), ← bitOf_of_b2n (w := w) (i := 37) (b := sh) (by omega)]
    exact read_channel (o := fun x => .arm x _ _) (by unfold bitsOf; omega)
  | tail ch n =>
    simp only [encSt] at hl
    rw [← ofNat_bitsOf (w := w) (hi := 37) (lo := 34) (x := n) (by omega)]
    exact read_channel (o := fun x => .tail x _) (by unfold bitsOf; omega)
  | head ch n =>
    simp only [encSt] at hl
    rw [← ofNat_bitsOf (w := w) (hi := 37) (lo := 34) (x := n) (by omega)]
    exact read_channel (o := fun x => .head x _) (by unfold bitsOf; omega)
  | cancel ch =>
    simp only [encSt] at hl
    exact read_channel (o := .cancel) (by unfold bitsOf; omega)

end

/-! ### Vector instructions (R99 to R135) -/

theorem Ty.code_lt (x : Ty) : x.code < 4 := by cases x <;> decide

theorem AluFn.code_lt (x : AluFn) : x.code < 8 := by cases x <;> decide

theorem FmaFn.code_lt (x : FmaFn) : x.code < 8 := by cases x <;> decide

theorem UnFn.code_lt (x : UnFn) : x.code < 8 := by cases x <;> decide

theorem Cond.code_lt (x : Cond) : x.code < 8 := by cases x <;> decide

theorem RedFn.code_lt (x : RedFn) : x.code < 8 := by cases x <;> decide

theorem CvtDst.code_lt (x : CvtDst) : x.code < 16 := by cases x <;> decide

theorem tredFn_lt (col : Bool) (x : TredFn) : b2n col * 4 + x.code < 8 := by cases col <;> cases x <;> decide

/-- CS of a count (R101). -/
def CountSrc.cs : CountSrc → Nat
  | .imm _ => 0
  | .scalar _ => 1
  | .vc _ => 2

/-- CNT of a count. -/
def CountSrc.cnt : CountSrc → Nat
  | .imm n => n.val
  | .scalar r => r.val
  | .vc c => c.val

theorem CountSrc.code_eq (n : CountSrc) : n.code = n.cs * 2 ^ 19 + n.cnt * 2 ^ 7 := by
  cases n with
  | imm n =>
    simp only [CountSrc.code, CountSrc.cs, CountSrc.cnt]
    omega
  | _ => rfl

theorem CountSrc.fields_lt (n : CountSrc) : n.cs < 4 ∧ n.cnt < 4096 := by
  cases n <;> simp only [CountSrc.cs, CountSrc.cnt] <;> omega

/-- VB, BM and SB of operand B (R104). -/
def OpB.vbField : OpB → Tile16
  | .span vb | .seg vb _ => vb
  | .scalar _ => 0
def OpB.bmField : OpB → Fin 4
  | .span _ => 0
  | .scalar _ => 1
  | .seg _ _ => 2
def OpB.sbField : OpB → Reg
  | .span _ => 0
  | .scalar sb => sb
  | .seg _ g => g.castLE (by decide)

/-- The fields of a vector instruction (R103). -/
structure VeFields where
  vd : Tile16 := 0
  va : Tile16 := 0
  vb : Tile16 := 0
  bm : Fin 4 := 0
  sb : Reg := 0
  n : CountSrc := .imm 0
  ty : Ty
  rnd : Rnd := .rne
  fn : Fin 8 := 0

/-- The operand bits that the fields spell. -/
def VeFields.low (f : VeFields) : Nat :=
  veRegs f.vd.val f.va.val f.vb.val + f.bm.val * 2 ^ 27 + f.sb.val * 2 ^ 21 + f.n.code + f.ty.code * 2 ^ 5 + f.rnd.code * 2 ^ 3 + f.fn.val

/-- The fields of each vector instruction. -/
def VeOp.fields : VeOp → VeFields
  | .alu fn ty rnd vd va b n =>
    { vd := vd, va := va, vb := b.vbField, bm := b.bmField, sb := b.sbField, n := n, ty := ty, rnd := rnd, fn := ⟨fn.code, fn.code_lt⟩ }
  | .fma fn ty rnd vd va b n =>
    { vd := vd, va := va, vb := b.vbField, bm := b.bmField, sb := b.sbField, n := n, ty := ty, rnd := rnd, fn := ⟨fn.code, fn.code_lt⟩ }
  | .un fn ty rnd vd va n => { vd := vd, va := va, n := n, ty := ty, rnd := rnd, fn := ⟨fn.code, fn.code_lt⟩ }
  | .cmp c ty vd va b n =>
    { vd := vd, va := va, vb := b.vbField, bm := b.bmField, sb := b.sbField, n := n, ty := ty, fn := ⟨c.code, c.code_lt⟩ }
  | .sel ty vd va vb m n => { vd := vd, va := va, vb := vb, sb := m.castLE (by decide), n := n, ty := ty }
  | .cvt ty dst rnd vd va sr n => { vd := vd, va := va, vb := ⟨dst.code, dst.code_lt⟩, sb := sr, n := n, ty := ty, rnd := rnd }
  | .red fn ty vd va seg n =>
    { vd := vd, va := va, vb := (seg.map fun v => v.castLE (by decide)).getD 15, n := n, ty := ty, fn := ⟨fn.code, fn.code_lt⟩ }
  | .tred fn col src vd va =>
    { vd := vd, va := va, bm := if src = .scale then 1 else 0, ty := if src = .int32 then .int32 else .u8
      fn := ⟨b2n col * 4 + fn.code, tredFn_lt col fn⟩ }
  | .cmpr ty vd va vm n | .expd ty vd va vm n => { vd := vd, va := va, vb := vm, n := n, ty := ty }
  | .copy ty vd va n => { vd := vd, va := va, n := n, ty := ty }
  | .bcast ty rnd vd b n => { vd := vd, vb := b.vbField, bm := b.bmField, sb := b.sbField, n := n, ty := ty, rnd := rnd, fn := 1 }
  | .iota ty vd n => { vd := vd, n := n, ty := ty, fn := 2 }
  | .gets vd va esc => { vd := vd, va := va, bm := if esc then 2 else 1, ty := .u8, fn := 3 }
  | .puts vd va esc => { vd := vd, va := va, bm := if esc then 2 else 1, ty := .u8, fn := 4 }
  | .ld ty vd sb n => { vd := vd, sb := sb, n := n, ty := ty }
  | .st ty va sb n => { va := va, sb := sb, n := n, ty := ty }

theorem OpB.code_eq (b : OpB) : b.code = b.vbField.val * 2 ^ 29 + b.bmField.val * 2 ^ 27 + b.sbField.val * 2 ^ 21 := by
  cases b <;> simp only [OpB.code, OpB.vbField, OpB.bmField, OpB.sbField, Fin.val_castLE] <;> omega

/-- The operand bits of a vector instruction are its fields. -/
theorem encVe_low (o : VeOp) : (encVe o).2 = o.fields.low := by
  cases o
  case alu | fma | cmp | bcast =>
    simp only [encVe, VeOp.fields, VeFields.low, veRegs, OpB.code_eq, Rnd.code, Fin.isValue, Fin.coe_ofNat_eq_mod]
    omega
  case red fn ty vd va seg n => cases seg <;> simp [encVe, VeOp.fields, VeFields.low, veRegs, Rnd.code]
  case tred fn col src vd va =>
    cases src <;> simp [encVe, VeOp.fields, VeFields.low, veRegs, Rnd.code, Ty.code, CountSrc.code]
  case gets vd va esc | puts vd va esc => cases esc <;> simp [encVe, VeOp.fields, VeFields.low, veRegs, Rnd.code, Ty.code, CountSrc.code]
  all_goals simp [encVe, VeOp.fields, VeFields.low, veRegs, Rnd.code]

theorem VeFields.low_lt (f : VeFields) : f.low < 2 ^ 41 := by
  have ht := f.ty.code_lt
  have hr := f.rnd.code_lt
  have hn := f.n.fields_lt
  simp only [VeFields.low, veRegs, CountSrc.code_eq]
  omega

theorem encVe_lt (o : VeOp) : (encVe o).1 < 256 ∧ (encVe o).2 < 2 ^ 41 := by
  refine ⟨?_, encVe_low o ▸ o.fields.low_lt⟩
  cases o <;> simp [encVe]

/-- The fields f are those of the number w. -/
structure VeFields.StandIn (f : VeFields) (w : Nat) : Prop where
  vd : bitsOf w 40 37 = f.vd.val
  va : bitsOf w 36 33 = f.va.val
  vb : bitsOf w 32 29 = f.vb.val
  bm : bitsOf w 28 27 = f.bm.val
  sb : bitsOf w 26 21 = f.sb.val
  n : decCount w = f.n
  ty : decTy w = f.ty
  rnd : decRnd (bitsOf w 4 3) = f.rnd
  fn : bitsOf w 2 0 = f.fn.val

section
variable {w : Nat}

theorem decCount_eq {n : CountSrc} (h1 : bitsOf w 20 19 = n.cs) (h2 : bitsOf w 18 7 = n.cnt) : decCount w = n := by
  unfold decCount
  rw [h1, h2]
  cases n with
  | imm x => exact congrArg CountSrc.imm (Fin.ofNat_val_eq_self x)
  | scalar r => exact congrArg CountSrc.scalar (Fin.ofNat_val_eq_self r)
  | vc x => exact congrArg CountSrc.vc (Fin.ofNat_val_eq_self x)

theorem decTy_eq {ty : Ty} (h : bitsOf w 6 5 = ty.code) : decTy w = ty := by
  unfold decTy
  rw [h]
  cases ty <;> rfl

/-- Each field stands in its own bits. -/
theorem standIn_of_low {f : VeFields} (hl : w % 2 ^ 41 = f.low) : f.StandIn w := by
  have ht := f.ty.code_lt
  have hr := f.rnd.code_lt
  obtain ⟨hcs, hcnt⟩ := f.n.fields_lt
  simp only [VeFields.low, veRegs, CountSrc.code_eq] at hl
  constructor
  case n => exact decCount_eq (by unfold bitsOf; omega) (by unfold bitsOf; omega)
  case ty => exact decTy_eq (by unfold bitsOf; omega)
  case rnd =>
    have hrnd : bitsOf w 4 3 = f.rnd.code := by unfold bitsOf; omega
    rw [hrnd, decRnd_code]
  all_goals
    unfold bitsOf
    omega

/-- Operand B reads from its three fields. -/
theorem decB_eq {b : OpB} (h1 : bitsOf w 32 29 = b.vbField.val) (h2 : bitsOf w 28 27 = b.bmField.val) (h3 : bitsOf w 26 21 = b.sbField.val) :
    decB w = b := by
  unfold decB
  rw [h1, h2, h3]
  cases b with
  | span vb => exact congrArg OpB.span (Fin.ofNat_val_eq_self vb)
  | scalar sb => exact congrArg OpB.scalar (Fin.ofNat_val_eq_self sb)
  | seg vb g => exact congrArg₂ OpB.seg (Fin.ofNat_val_eq_self vb) (Fin.ofNat_val_eq_self g)

theorem decRaw_ve (o : VeOp) (hw : HasForm w (encVe o).1 (encVe o).2) : decRaw w = some (.ve o) := by
  obtain ⟨ho, hl⟩ := hw
  have hs := standIn_of_low (hl.trans (encVe_low o))
  unfold decRaw
  rw [ho, ofNat_bitsOf hs.vd, ofNat_bitsOf hs.va, ofNat_bitsOf hs.vb, ofNat_bitsOf hs.sb, hs.bm, hs.fn, hs.ty, hs.rnd, hs.n]
  cases o with
  | alu fn ty rnd vd va b n =>
    rw [decB_eq (b := b) hs.vb hs.bm hs.sb]
    cases fn <;> rfl
  | fma fn ty rnd vd va b n =>
    rw [decB_eq (b := b) hs.vb hs.bm hs.sb]
    cases fn <;> rfl
  | cmp fn ty vd va b n =>
    rw [decB_eq (b := b) hs.vb hs.bm hs.sb]
    cases fn <;> rfl
  | bcast ty rnd vd b n =>
    rw [decB_eq (b := b) hs.vb hs.bm hs.sb]
    rfl
  | un fn => cases fn <;> rfl
  | cvt ty dst => cases dst <;> rfl
  | sel ty vd va vb m n => exact congrArg (fun x => some (AnyOp.ve (.sel ty vd va vb x n))) (Fin.ofNat_val_eq_self m)
  | red fn ty vd va seg n =>
    cases seg with
    | none => cases fn <;> rfl
    | some v =>
      have hv : (if (v.castLE (by decide) : Tile16).val = 15 then none else some (Fin.ofNat 13 v.val)) = some v :=
        (if_neg (by rw [Fin.val_castLE]; omega)).trans (congrArg some (Fin.ofNat_val_eq_self v))
      cases fn <;> exact congrArg (fun x => some (AnyOp.ve (.red _ ty vd va x n))) hv
  | tred fn col src vd va =>
    have hc : bitOf w 2 = col := bitOf_of_b2n (by
      have hf : bitsOf w 2 0 = b2n col * 4 + fn.code := hs.fn
      have hb := tredFn_lt col fn
      have hk : fn.code < 4 := by cases fn <;> decide
      unfold bitsOf at hf
      omega)
    have hk : [TredFn.sum, .max, .min].getD ((b2n col * 4 + fn.code) % 4) .sum = fn := by cases col <;> cases fn <;> rfl
    rw [hc]
    cases src <;> exact congrArg (fun f => some (AnyOp.ve (.tred f col _ vd va))) hk
  | gets vd va esc | puts vd va esc => cases esc <;> rfl
  | _ => rfl

end

/-! ### The instruction of a word -/

/-- A word whose header and operands are read back is read as its instruction, where the fields are legal together. -/
theorem decOp_encOp {h : Hdr} {o : AnyOp} (hr : decRaw (encOp h o).toNat = some o) (hh : decHdr (encOp h o).toNat = h) (hl : o.legal = true) :
    decOp (encOp h o) = some (h, o) := by
  simp [decOp, hr, hh, hl]

/-- Settles O3: a word's parts keep to their places, and each engine's opcodes and fields are read back. -/
theorem wordReadsBack : Obligations.WordReadsBack := by
  intro h o hl
  cases o with
  | cc o =>
    obtain ⟨ho, hb⟩ := encCc_lt o
    exact decOp_encOp (decRaw_cc o (encHdr_hasForm _ h ho hb)) (decHdr_encHdr _ h ho hb) hl
  | mm o =>
    obtain ⟨ho, hb⟩ := encMm_lt o
    exact decOp_encOp (decRaw_mm o (encHdr_hasForm _ h ho hb)) (decHdr_encHdr _ h ho hb) hl
  | ve o =>
    obtain ⟨ho, hb⟩ := encVe_lt o
    exact decOp_encOp (decRaw_ve o (encHdr_hasForm _ h ho hb)) (decHdr_encHdr _ h ho hb) hl
  | st o =>
    obtain ⟨ho, hb⟩ := encSt_lt o
    exact decOp_encOp (decRaw_st o (encHdr_hasForm _ h ho hb)) (decHdr_encHdr _ h ho hb) hl

end Sys2Proof
end

section
/-! PROOFS. An engine instruction in its queue (R75, R80, R87, R101, R102, R105, R149, R230), and the instructions whose fields are reserved together
(R76, R106, R165). -/
namespace Sys2Proof.Machine

/-! ### The queues of the engines -/

section
variable {i : Instr} {c : CoreId} {h : Hdr}

/-- A matrix instruction is placed with the first two of the scalars that it names; one that it does not name reads zero. -/
theorem queuesMm_of_exec {op : MmOp} {regs : List Reg} (hi : ∀ s, exec i s = .next (s.issueMm c.val h op regs)) :
    QueuesMm i c op h regs (·.sc (regs.getD 0 0)) (·.sc (regs.getD 1 0)) := fun s _ _ hu =>
  (hi s).trans (congrArg _ (issueEng_at hu))

theorem queuesVe_of_exec {op : VeOp} (hi : ∀ s, exec i s = .next (s.issueVe c.val h op)) : QueuesVe i c op h := fun s _ _ hu =>
  (hi s).trans (congrArg _ (issueEng_at hu))

/-- A vector instruction whose fields must be legal together is placed where they are. -/
theorem queuesVe_of_legal {op : VeOp}
    (hi : ∀ s, exec i s = if op.legal then .next (s.issueVe c.val h op) else .refused .reservedEncoding) (hl : op.legal = true) :
    QueuesVe i c op h := queuesVe_of_exec fun s => (hi s).trans (if_pos hl)

/-- A stream instruction is placed with the scalar that it names, if it names one. -/
theorem queuesSt_of_exec {op : StOp} {regs : List Reg} (hi : ∀ s, exec i s = .next (s.issueEng c.val (.st op) h regs (·.sq.length) fun k b =>
      { k with sq := k.sq ++ [⟨k.seq, k.pc, h, op, k.sc (regs.getD 0 0), b⟩] })) :
    QueuesSt i c op h regs (·.sc (regs.getD 0 0)) := fun s _ _ hu =>
  (hi s).trans (congrArg _ (issueEng_at hu))

end

/-- Settles O19: each row issues into its engine's queue, and an issue that has a place is a placement there. -/
theorem enginesQueued : Obligations.EnginesQueued := by
  refine ⟨?matrix, ?vector, ?stream⟩
  case matrix =>
    intro c h a wf opf tern ls acc col t df rnd st
    refine ⟨queuesMm_of_exec fun _ => rfl, queuesMm_of_exec fun _ => rfl, queuesMm_of_exec fun _ => rfl, queuesMm_of_exec fun _ => rfl,
      queuesMm_of_exec fun _ => rfl, queuesMm_of_exec fun _ => rfl, queuesMm_of_exec fun _ => rfl, queuesMm_of_exec fun _ => rfl,
      fun hl => ⟨fun hr => queuesMm_of_exec fun s => ?_, fun hr => queuesMm_of_exec fun s => ?_⟩⟩
    · exact (if_pos hl).trans (by rw [if_pos hr])
    · exact (if_pos hl).trans (by rw [if_neg hr])
  case vector =>
    intro c h ty rnd vd va vb vm b n r esc alu fm un cond dst red seg tf src
    exact ⟨queuesVe_of_legal fun _ => rfl, queuesVe_of_legal fun _ => rfl, queuesVe_of_legal fun _ => rfl, queuesVe_of_exec fun _ => rfl,
      queuesVe_of_exec fun _ => rfl, queuesVe_of_exec fun _ => rfl, queuesVe_of_legal fun _ => rfl, queuesVe_of_legal fun _ => rfl,
      queuesVe_of_exec fun _ => rfl, queuesVe_of_exec fun _ => rfl, queuesVe_of_exec fun _ => rfl, queuesVe_of_exec fun _ => rfl,
      queuesVe_of_legal fun _ => rfl, queuesVe_of_legal fun _ => rfl, queuesVe_of_exec fun _ => rfl, queuesVe_of_exec fun _ => rfl,
      queuesVe_of_exec fun _ => rfl⟩
  case stream =>
    exact fun c h ch ch4 sh sa n => ⟨queuesSt_of_exec fun _ => rfl, queuesSt_of_exec fun _ => rfl, queuesSt_of_exec fun _ => rfl,
      queuesSt_of_exec fun _ => rfl⟩

/-! ### Fields reserved together -/

/-- A row that asks for legal fields refuses others. -/
theorem refused_of_illegal {i : Instr} {s : State} {o : Host.Outcome State Fault Refusal} (b : Bool)
    (hi : exec i s = if b then o else .refused .reservedEncoding) (hb : b = false) : exec i s = .refused .reservedEncoding :=
  hi.trans (if_neg (Bool.eq_false_iff.1 hb))

/-- Settles O4: the words by reading them, the refusals by the legal fields of each row; those of the vector engine are illegal whatever
the other fields hold. -/
theorem specWords : Obligations.SpecWords := by
  refine ⟨by decide, fun c h s => ⟨fun rd ra imm hi => ?shifts, fun rd sel => refused_of_illegal (CcOp.rds rd sel).legal rfl,
    fun rd sel => refused_of_illegal (CcOp.rdsc rd sel).legal rfl,
    fun acc col td rnd st hr => refused_of_illegal (MmOp.rd acc col td .copy32 rnd st).legal rfl (by simp [MmOp.legal, hr]),
    fun _ _ _ _ _ _ => rfl, fun _ _ => rfl, fun _ _ _ _ _ => rfl⟩⟩
  case shifts =>
    have hl : decide (imm.toNat < 64) = false := decide_eq_false (by omega)
    exact ⟨refused_of_illegal (CcOp.shli rd ra imm).legal rfl hl, refused_of_illegal (CcOp.shri rd ra imm).legal rfl hl,
      refused_of_illegal (CcOp.sari rd ra imm).legal rfl hl⟩

end Sys2Proof.Machine
end

section
/-! PROOFS. The fills of a core: their start, the release of held writes and their verdict (R78, R91, R94, R194 to R201). -/
namespace Sys2Proof.Machine

/-! ### The start of a fill and the release of held writes -/

section
variable {s : State} {c : CoreId}

/-- An item of the load list names the operands of its MM.LW. -/
theorem args_of_lw {x : LwItem} {ts : Tile16} {ls : Bool} (h : x.ent.op = .lw ts ls) : x.args = (ts, ls) := by
  simp [LwItem.args, h]

/-- The next fill starts on the core brought forward to its first beat. -/
theorem fillStart_next {s1 : State} {x : LwItem} (h1 : (s.pumpUntil c fun k => k.fillable.isSome) = s1)
    (hx : (s1.core c).fillable = some x) (hl : ((s1.sync c ((s1.core c).fillBeat x - 1)).core c).engLive = true) :
    exec (.fillStart c) s = .next ((s1.sync c ((s1.core c).fillBeat x - 1)).modCore c fun k =>
      (k.startFill x ((s1.core c).fillBeat x)).noteDone ((s1.core c).fillBeat x)) := by
  show execFillStart c s = _
  unfold execFillStart
  simp only [h1, hx]
  exact if_pos hl

theorem heldWritesRelease_next {ent : MmEnt} {disp : Nat} {f : FillRun}
    (hf : (s.core c).lws.find? LwItem.holding = some ⟨ent, disp, some f⟩) (hl : ((s.syncIn c (f.start + 32)).core c).engLive = true) :
    exec (.heldWritesRelease c) s = .next ((s.syncIn c (f.start + 32)).modCore c fun k => k.releaseFill.noteDone (f.start + 32)) := by
  show execHeldWritesRelease c s = _
  unfold execHeldWritesRelease
  rw [hf]
  exact if_pos hl

end

/-- Settles O20: the next fill is the first that no compute instruction holds back, and the oldest that holds writes releases them. -/
theorem fillsStart : Obligations.FillsStart := by
  constructor
  · intro s c x ts ls s1 f s2 hx hop hl
    rw [fillStart_next rfl hx hl]
    simp only [Core.startFill, args_of_lw hop]
    cases ls <;> rfl
  · exact fun s c ent disp f hf hl => heldWritesRelease_next hf hl

/-! ### The verdict -/

section
variable {s : State} {c : CoreId} {ent : MmEnt} {disp : Nat} {f g : FillRun} {r q : List LwItem} {ts : Tile16} {ls : Bool}

/-- A core in the verdict beat of the fill g at the front of its load list: its held writes are released. -/
def Core.atVerdict (k : Core) (g : FillRun) (b : Nat) : Core := (if g.released then k else k.releaseFill).noteDone b

/-- The verdict of the fill at the front of the load list, by the first check of R196 that fails. -/
theorem fillVerdict_next {s1 : State} (h1 : s.sync c (f.start + 34 - 1) = s1) (hf : (s.core c).lws = ⟨ent, disp, some f⟩ :: r)
    (hop : ent.op = .lw ts ls) (hl : (s1.core c).engLive = true) (hg : (s1.core c).lws = ⟨ent, disp, some g⟩ :: q) :
    let b := f.start + 34
    let cause := fillCause f.tile (s.core c).tables
    let s2 := s1.modCore c (·.atVerdict g b)
    exec (.fillVerdict c) s = .next (if cause = 0 then
        (s2.modCore c fun k => ({ (k.countWait ls f.start b) with lws := k.lws.drop 1 }).fillReady ts ls f.tile b).signalHdr c ent.h 1 ent.pc b
      else (s2.modCore c fun k => (k.countWait ls f.start (b + 1)).fillFailed ts ls f.tile cause b).coreFault
        c b (if cause ≤ 3 then 0x0101 else 0x0102) (BitVec.ofNat 16 ent.pc.toNat) (BitVec.ofNat 32 (hdrTile f.tile.hdr)) f.tile.texp
        (BitVec.ofNat 32 (ts.val + 16 * b2n ls + 256 * cause)) (BitVec.ofNat 32 b)) := by
  show execFillVerdict c s = _
  unfold execFillVerdict
  have ha : (LwItem.mk ent disp (some f)).args = (ts, ls) := args_of_lw hop
  simp only [hf, h1, hl, ha, State.modCore, hg]
  exact (apply_ite Host.Outcome.next _ _ _).symm

end

/-! ### What a verdict leaves -/

/-- The bytes of a latch set: the rows, the scale strip and the escape strip, one after another (R65). -/
def latchBytes (rows scale esc : List Byte) : Memory := wrBytes (wrBytes (wrBytes [] 0 rows) 4096 scale) 4352 esc

/-- A write of two strings of bytes is a write of the first and then, where it ends, of the second. -/
theorem wrBytes_append (l d : List Byte) : ∀ (m : Memory) (a : Nat), wrBytes m a (l ++ d) = wrBytes (wrBytes m a l) (a + l.length) d := by
  induction l with
  | nil => exact fun _ _ => rfl
  | cons b l ih =>
    intro m a
    simp only [List.cons_append, wrBytes, ih, List.length_cons]
    rw [Nat.add_right_comm, Nat.add_assoc a]

/-- A latch set reads as its three parts. -/
theorem rdByte_latchBytes {rows scale esc : List Byte} {i : Nat} (hr : rows.length = 4096) (hs : scale.length = 256) (he : esc.length = 1024)
    (hi : i < 5376) : rdByte (latchBytes rows scale esc) i = (rows ++ scale ++ esc).getD i 0 := by
  have hl : latchBytes rows scale esc = wrBytes [] 0 (rows ++ scale ++ esc) := by
    rw [wrBytes_append, wrBytes_append, List.length_append, hr, hs]
    rfl
  have hw := rdByte_wrBytes_inside (rows ++ scale ++ esc) [] 0 i (by decide) (by simp only [List.length_append]; omega)
  rwa [Nat.zero_add, ← hl] at hw

section
variable (k : Core) (ts : Tile16) (ls : Bool) (t : Tile)

/-- The set of a fill that passes: the expanded tile, and ready unless the next fill is filling it by now (R79). -/
theorem latch_fillReady_same (r : Nat) :
    let x := expand t (sget 0 k.tables (hdrTable t.hdr))
    (k.fillReady ts ls t r).latch ls = { k.latch ls with
      bytes := latchBytes x.1 x.2.1 x.2.2.1, src := ts, e2 := escTwo x.2.2.1, ready := !k.fillRuns ls, readyAt := r } := by
  cases ls <;> rfl

theorem latch_fillReady_other (r : Nat) : (k.fillReady ts ls t r).latch (!ls) = k.latch (!ls) := by cases ls <;> rfl

/-- A fill that fails leaves its set as it is but for the beat up to which a compute instruction waits. -/
theorem latch_fillFailed_same (cause r : Nat) :
    (k.fillFailed ts ls t cause r).latch ls = { k.latch ls with readyAt := r + 1 } := by cases ls <;> rfl

end

/-- Settles O21: the verdict by its cause, and the expanded tile by its three parts in the set. -/
theorem fillVerdicts : Obligations.FillVerdicts := by
  constructor
  · intro s c ent disp f g r q ts ls b s1 cause done hf hop hl hg
    have h := fillVerdict_next rfl hf hop hl hg
    exact ⟨fun hc => h.trans (congrArg _ (if_pos hc)), fun hc => h.trans (congrArg _ (if_neg hc))⟩
  · intro k ts ls t r cause i x l m
    have hl := latch_fillReady_same k ts ls t r
    have hm := latch_fillFailed_same k ts ls t cause r
    refine ⟨?_, fun hr hs he hi => ?_, latch_fillReady_other k ts ls t r, ?_⟩
    · rw [show l = _ from hl]
      exact ⟨rfl, rfl, rfl, fun hf => by simp [hf]⟩
    · rw [show l = _ from hl]
      exact rdByte_latchBytes hr hs he hi
    · rw [show m.latch ls = _ from hm]
      exact ⟨rfl, rfl, rfl, rfl, rfl, rfl, rfl⟩

end Sys2Proof.Machine
end

section
/-! PROOFS. The completions of the units of a core (R88, R89, R92, R95, R129, R130, R148, R231). -/
namespace Sys2Proof.Machine

section
variable {s s1 : State} {c : Nat}

theorem complLaneRow_at {x : CmpItem} {r : List CmpItem} {b : Nat} (h1 : (s.pumpUntil c fun k => k.cmps.any fun x => x.start.isSome) = s1)
    (hq : (s1.core c).cmps = x :: r) (hx : x.start = some b) (hl : ((s1.sync c (b + x.busy + 2)).core c).engLive = true) :
    s.complLaneRow c = ((s1.sync c (b + x.busy + 2)).modCore c fun k =>
      { k.noteDone (b + x.busy + 3) with cmps := k.cmps.drop 1 }).signalHdr c x.ent.h 1 x.ent.pc (b + x.busy + 3) := by
  unfold State.complLaneRow
  simp only [h1, hq, hx, Nat.add_succ_sub_one, hl]
  rfl

theorem complReadout_at {x : RdItem} {r : List RdItem} {b : Nat} (h1 : (s.pumpUntil c fun k => k.rds.any fun x => x.start.isSome) = s1)
    (hq : (s1.core c).rds = x :: r) (hx : x.start = some b) (hl : ((s1.sync c (b + x.len - 1)).core c).engLive = true) :
    s.complReadout c = ((s1.sync c (b + x.len - 1)).modCore c fun k => { k.noteDone (b + x.len) with
      rds := k.rds.drop 1, bankAt := sset 0 k.bankAt x.accIdx (b + x.len) }).signalHdr c x.ent.h 1 x.ent.pc (b + x.len) := by
  unfold State.complReadout
  simp only [h1, hq, hx, hl]
  rfl

theorem complVector_at {x : VeItem} (h1 : s.pumpUntil c Core.veSettled = s1) (hq : firstDone (s1.core c).ves = some x)
    (hl : ((s1.sync c (x.done - 1)).core c).engLive = true) :
    s.complVector c = ((s1.sync c (x.done - 1)).modCore c fun k => { k.noteDone x.done with
      ves := k.ves.filter fun y => decide (y.ent.seq ≠ x.ent.seq)
      vc := (x.vc.map (BitVec.ofNat 13)).getD k.vc
      veDone := x.regs.foldl (fun m r => sset 0 m r x.done) k.veDone }).signalHdr c x.ent.h 2 x.ent.pc x.done := by
  unfold State.complVector
  simp only [h1, hq, hl]
  cases x.vc <;> rfl

theorem complStream_at {x : StItem} {r : List StItem} {b : Nat}
    (h1 : (s.pumpUntil c fun k => k.sts.any fun x => x.start.isSome && x.todo.isEmpty) = s1) (hq : (s1.core c).sts = x :: r)
    (hx : x.start = some b) (ht : x.todo = []) (hr1 : (s1.core c).runs = true) (hr2 : ((s1.sync c (b + x.occ - 1)).core c).runs = true) :
    let s3 := ((s1.sync c (b + x.occ - 1)).modCore c fun k => { k.noteDone (b + x.occ) with sts := k.sts.drop 1 }).streamDone c x (b + x.occ)
    s.complStream c = if (s3.core c).runs then s3.signalHdr c x.ent.h 3 x.ent.pc (b + x.occ) else s3 := by
  unfold State.complStream
  simp only [h1, hq, hx, ht, hr1, hr2]
  rfl

end

/-- A row of a running core makes the completion of its unit. -/
theorem instructionCompletion_runs {s : State} {c : CoreId} (h : (s.core c).runs = true) :
    exec (.instructionCompletion c .laneRow) s = .next (s.complLaneRow c)
    ∧ exec (.instructionCompletion c .readout) s = .next (s.complReadout c)
    ∧ exec (.instructionCompletion c .vector) s = .next (s.complVector c)
    ∧ exec (.instructionCompletion c .stream) s = .next (s.complStream c) := by
  have hc (u : CompUnit) : exec (.instructionCompletion c u) s = _ := if_neg (by simp [h])
  exact ⟨hc .laneRow, hc .readout, hc .vector, hc .stream⟩

/-- The control core's next result or signal. -/
theorem instructionCompletion_control {s : State} {c : CoreId} (h : (s.core c).runs = true) {b : Nat} (hb : (s.core c).nextDue = some b) :
    exec (.instructionCompletion c .control) s = .next ((s.pump c (b - 1)).settle c b) := by
  show execInstructionCompletion c .control s = _
  simp [execInstructionCompletion, h, hb]

/-- Settles O22: each unit's row makes the completion that stands first in that unit. -/
theorem unitsComplete : Obligations.UnitsComplete := by
  intro s c hr
  obtain ⟨hlane, hread, hvec, hstr⟩ := instructionCompletion_runs hr
  refine ⟨fun b hb => instructionCompletion_control hr hb, ?lane, ?readout, ?vector, ?stream⟩
  case lane => exact fun x r b hq hx hl => hlane.trans (congrArg _ (complLaneRow_at rfl hq hx hl))
  case readout => exact fun x r b hq hx hl => hread.trans (congrArg _ (complReadout_at rfl hq hx hl))
  case vector => exact fun x hq hl => hvec.trans (congrArg _ (complVector_at rfl hq hl))
  case stream =>
    intro x r b s1 s2 s3 hq hx ht hr1 hr2 hr3
    exact hstr.trans (congrArg _ ((complStream_at rfl hq hx ht hr1 hr2).trans (if_pos hr3)))

end Sys2Proof.Machine
end

section
/-! PROOFS. A write of an engine to SRAM (R118, R146, R147, R220). -/
namespace Sys2Proof.Machine

/-! ### The dropped writes of channels -/

theorem dropWdr_chan {k : Core} (h : Sparse.Wf {} k.chans) (n m : Nat) : (k.dropWdr n).chan m
    = if m = n then { k.chan m with wdr := sat32 (k.chan m).wdr 1 } else k.chan m := by
  split
  · next hm =>
    subst hm
    exact sget_sset_same _ _ _ h
  · next hm => exact sget_sset_ne _ _ _ _ h hm

/-- Channels that each count a dropped write change nothing but channels. -/
theorem foldl_dropWdr_frame (l : List Nat) : ∀ k : Core, l.foldl Core.dropWdr k = { k with chans := (l.foldl Core.dropWdr k).chans } := by
  induction l with
  | nil => exact fun _ => rfl
  | cons n l ih => exact fun k => ih (k.dropWdr n)

/-- Each of the channels listed counts one dropped write, and no other does. -/
theorem foldl_dropWdr_chan (l : List Nat) : ∀ {k : Core}, l.Nodup → Sparse.Wf {} k.chans → ∀ m, (l.foldl Core.dropWdr k).chan m
    = if m ∈ l then { k.chan m with wdr := sat32 (k.chan m).wdr 1 } else k.chan m := by
  induction l with
  | nil => intro k _ _ m; simp
  | cons n l ih =>
    intro k hl hk m
    obtain ⟨hn, hl⟩ := List.nodup_cons.1 hl
    rw [List.foldl_cons, ih hl (sset_wf _ _ _ hk), dropWdr_chan hk]
    by_cases hm : m = n
    · simp [hm, hn]
    · simp [hm]

/-! ### One access under a guard -/

/-- Whether an access of n bytes from a meets a byte of SRAM of the given kind; addresses wrap at 4 MiB. -/
def accessMeets (a n : Nat) (p : Nat → Bool) : Bool := (List.range n).any fun i => p ((a + i) % sramSize)

/-- An access no longer than SRAM meets each byte once. -/
theorem sramAddr_inj {a i j n : Nat} (hn : n ≤ sramSize) (hi : i < n) (hj : j < n) (h : (a + i) % sramSize = (a + j) % sramSize) : i = j := by
  unfold sramSize at hn h
  omega

/-- Whether the code window or a guard drops what is written to an SRAM byte (R147, R220). -/
def Core.drops (k : Core) (guard : Nat → Option Nat) (x : Nat) : Bool := k.inCode x || (guard x).isSome

section
variable (k : Core) (guard : Nat → Option Nat) (a : Nat) (d : List Byte)

/-- SRAM after an access: every byte that nothing drops is written. -/
def Core.sramAfter : Memory :=
  (List.range d.length).foldl (fun m i =>
    if k.drops guard ((a + i) % sramSize) then m else wrByte m ((a + i) % sramSize) (d.getD i 0)) k.sram

/-- The channels that an access meets count one dropped write each, after the bytes and CWD are written. -/
theorem guardedWrite_eq : k.guardedWrite guard a d
    = ((List.range 6).filter fun n => accessMeets a d.length fun x => decide (guard x = some n)).foldl Core.dropWdr
      { k with sram := k.sramAfter guard a d, cwd := if accessMeets a d.length k.inCode then Nat.min (k.cwd + 1) 31 else k.cwd } := rfl

/-- A guarded write changes SRAM, CWD and the channels alone. -/
theorem guardedWrite_frame : { k.guardedWrite guard a d with sram := k.sram, cwd := k.cwd, chans := k.chans } = k := by
  rw [guardedWrite_eq, foldl_dropWdr_frame]

/-- A write that the code window drops adds one to CWD (R147). -/
theorem guardedWrite_cwd : (k.guardedWrite guard a d).cwd = if accessMeets a d.length k.inCode then Nat.min (k.cwd + 1) 31 else k.cwd := by
  rw [guardedWrite_eq, foldl_dropWdr_frame]

/-- A write that a guard drops adds one to STM_WDR of the guard's channel (R220). -/
theorem guardedWrite_chan (h : Sparse.Wf {} k.chans) (hg : ∀ x n, guard x = some n → n < 6) (n : Nat) :
    (k.guardedWrite guard a d).chan n = { k.chan n with
      wdr := if accessMeets a d.length fun x => decide (guard x = some n) then sat32 (k.chan n).wdr 1 else (k.chan n).wdr } := by
  have hn : n ∈ (List.range 6).filter (fun n => accessMeets a d.length fun x => decide (guard x = some n))
      ↔ accessMeets a d.length (fun x => decide (guard x = some n)) = true := by
    rw [List.mem_filter, List.mem_range, and_iff_right_iff_imp]
    intro hm
    obtain ⟨i, -, hi⟩ := List.any_eq_true.1 hm
    exact hg _ n (of_decide_eq_true hi)
  rw [guardedWrite_eq, foldl_dropWdr_chan _ (List.nodup_range.filter _) (by exact h)]
  simp only [hn]
  split <;> rfl

/-- The bytes written are those of the access that nothing drops. -/
theorem sramAfter_eq : k.sramAfter guard a d = ((List.range d.length).filter fun i => !k.drops guard ((a + i) % sramSize)).foldl
    (fun m i => wrByte m ((a + i) % sramSize) (d.getD i 0)) k.sram := by
  rw [List.foldl_filter, Core.sramAfter]
  simp only [Bool.not_eq_true', ← Bool.not_eq_true, ite_not]

theorem guardedWrite_sram : (k.guardedWrite guard a d).sram = k.sramAfter guard a d := by
  rw [guardedWrite_eq, foldl_dropWdr_frame]

/-- A byte of SRAM after a guarded write: the byte that the access brings to it, unless it drops that byte, else what was there. -/
theorem rdByte_guardedWrite (h : Memory.wf k.sram) {x : Nat} {b : Byte} (hb : ∀ i < d.length, (a + i) % sramSize = x → d.getD i 0 = b) :
    rdByte (k.guardedWrite guard a d).sram x
      = if ∃ i < d.length, (a + i) % sramSize = x ∧ k.drops guard x = false then b else rdByte k.sram x := by
  rw [guardedWrite_sram, sramAfter_eq]
  refine (sget_foldl_sset_at _ h fun i hi => hb i (List.mem_range.1 (List.mem_filter.1 hi).1)).trans (if_congr (exists_congr fun i => ?_) rfl rfl)
  rw [List.mem_filter, List.mem_range, Bool.not_eq_true', and_assoc]
  exact and_congr_right fun _ => ⟨fun ⟨hd, hx⟩ => ⟨hx, hx ▸ hd⟩, fun ⟨hx, hd⟩ => ⟨hx ▸ hd, hx⟩⟩

/-- A byte that the access brings is written, unless it is dropped (R118, R146). -/
theorem rdByte_guardedWrite_at (h : Memory.wf k.sram) (hd : d.length ≤ sramSize) {i : Nat} (hi : i < d.length) :
    rdByte (k.guardedWrite guard a d).sram ((a + i) % sramSize)
      = if k.drops guard ((a + i) % sramSize) then rdByte k.sram ((a + i) % sramSize) else d.getD i 0 := by
  rw [rdByte_guardedWrite k guard a d h fun j hj hx => by rw [sramAddr_inj hd hj hi hx]]
  cases hx : k.drops guard ((a + i) % sramSize) with
  | true => exact if_neg fun ⟨_, _, _, hf⟩ => Bool.noConfusion hf
  | false => exact if_pos ⟨i, hi, rfl, rfl⟩

/-- A byte that the access does not reach keeps its value. -/
theorem rdByte_guardedWrite_apart (h : Memory.wf k.sram) {x : Nat} (hx : ∀ i < d.length, x ≠ (a + i) % sramSize) :
    rdByte (k.guardedWrite guard a d).sram x = rdByte k.sram x := by
  rw [rdByte_guardedWrite k guard a d h (b := 0) fun i hi hi' => absurd hi'.symm (hx i hi)]
  exact if_neg fun ⟨i, hi, hi', _⟩ => hx i hi hi'.symm

end

/-- The guard of engines names one of the six channels. -/
theorem guardSram_lt {k : Core} {x n : Nat} (h : k.guardSram x = some n) : n < 6 := List.mem_range.1 (List.mem_of_find?_eq_some h)

/-- Settles O11: the bytes that the access brings where nothing drops them, the frame of a guarded write, and one count per access and channel. -/
theorem engineStores : Obligations.EngineStores := by
  intro k a d hs hc hd hit
  exact ⟨fun i hi => rdByte_guardedWrite_at k _ a d hs hd hi, fun x hx => rdByte_guardedWrite_apart k _ a d hs hx,
    guardedWrite_frame k _ a d, guardedWrite_cwd k _ a d, guardedWrite_chan k _ a d hc fun _ _ => guardSram_lt⟩

end Sys2Proof.Machine
end

section
/-! PROOFS. What every command but a module reset keeps: the queue, the canonical form of LPDDR, strict mode on a module that has started, and a
module halt. One lemma for each row that decides something, and `exec_keeps` over all of them (R159, R472). -/
namespace Sys2Proof.Machine

/-- Where a command leaves a next state, that state keeps what `Keeps` speaks of. -/
def NextKeeps (r : State) (o : Host.Outcome State Fault Refusal) : Prop := ∀ t, o = .next t → Keeps r t

section
variable {r a b : State} {x y : Host.Outcome State Fault Refusal} {p : Prop} [Decidable p]

theorem NextKeeps.next (h : Keeps r a) : NextKeeps r (.next a) := fun _ ht => Host.Outcome.next.inj ht ▸ h

theorem NextKeeps.refused (c : Refusal) : NextKeeps r (.refused c) := fun _ ht => nomatch ht

theorem NextKeeps.ite (hx : NextKeeps r x) (hy : NextKeeps r y) : NextKeeps r (if p then x else y) := by
  split
  · exact hx
  · exact hy

theorem Keeps.ite (ha : Keeps r a) (hb : Keeps r b) : Keeps r (if p then a else b) := by
  split
  · exact ha
  · exact hb

/-- A mailbox command keeps what its own effect keeps of the state with its entry taken. -/
theorem NextKeeps.command {m : MbxId} {d : Cmd} {mine : List Byte → Bool} {f : State → Job → State}
    (hf : ∀ t j, Keeps r t → Keeps r (f t j)) : NextKeeps r (.next (r.startCmd m d mine f)) := .next (.startCmd _ _ _ _ _ hf (.refl r))

theorem NextKeeps.openCommand {m : MbxId} {d : Cmd} {mine : List Byte → Bool} {f : State → Job → State → State}
    (hf : ∀ t j u, Keeps r u → Keeps r (f t j u)) : NextKeeps r (.next (r.startCmd m d mine fun t j => t.needOpen j (f t j))) :=
  .command fun t j h => .needOpen _ _ _ (hf t j) h

theorem NextKeeps.slotCommand {m : MbxId} {d : Cmd} {mine : List Byte → Bool} {f : State → Job → State → State}
    (hf : ∀ t j u, Keeps r u → Keeps r (f t j u)) : NextKeeps r (.next (r.startCmd m d mine fun t j => t.needSlot j (f t j))) :=
  .command fun t j h => .needSlot _ _ _ (hf t j) h

/-- Strict mode that is set stays set. -/
theorem Keeps.setStrict (h : Keeps r a) : Keeps r { a with boot := { a.boot with strict := true } } :=
  ⟨h.pending, h.lpddr, fun hr hs => ⟨(h.strict hr hs).1, rfl⟩, h.halt⟩

/-- A write that a context lets through keeps the canonical form of LPDDR. -/
theorem Keeps.putAllowed (k : Ctx) (o : Nat) (d : List Byte) (h : Keeps r a) : Keeps r { a with lpddr := Machine.putAllowed k a.lpddr o d } :=
  h.memF (putAllowed_wf _ _ _ _)

end

section
variable (s : State)

/-! ### Rows of a core -/

theorem slotFillStart_keeps (c : CoreId) (ch : Fin 4) : NextKeeps s (execSlotFillStart c ch s) := by
  unfold execSlotFillStart
  split
  · refine .ite (.next ?_) (.next (.refl s))
    refine .setFills _ _ _ _ (.startXfers _ _ _ _ (.setFills _ _ _ _ ?_))
    exact .eachFill _ (fun t f h => .runFill _ _ _ _ _ _ h) _ _ _ _ (.refl s)
  · exact .next (.refl s)

theorem slotFillComplete_keeps (c : CoreId) (ch : Fin 4) : NextKeeps s (execSlotFillComplete c ch s) := by
  unfold execSlotFillComplete
  dsimp only
  split
  · refine .ite (.next ?_) (.next (.refl s))
    refine .setFills _ _ _ _ (.eachFill _ (fun t f h => .startXfers _ _ _ _ h) _ _ _ _ ?_)
    exact .modCore _ _ _ (.runFill _ _ _ _ _ _ (.refl s))
  · exact .next (.refl s)

theorem outboundSlotSent_keeps (c : CoreId) (o : Fin 2) : NextKeeps s (execOutboundSlotSent c o s) := by
  unfold execOutboundSlotSent
  dsimp only
  split
  · split
    · exact .next (.modCore _ _ _ (.foldl (fun t g h => .writeGranule _ _ _ h) (.outTurns _ _ (.refl s))))
    · exact .ite (.next (.refl s)) (.next (.modCore _ _ _ (.foldl (fun t g h => .writeGranule _ _ _ h) (.outTurns _ _ (.refl s)))))
  · exact .next (.refl s)

theorem instructionCompletion_keeps (c : CoreId) (u : CompUnit) : NextKeeps s (execInstructionCompletion c u s) := by
  refine .ite (.next (.refl s)) ?_
  cases u with
  | control =>
    dsimp only
    split
    · exact .next (.settle _ _ _ (.pump _ _ _ (.refl s)))
    · exact .next (.refl s)
  | laneRow => exact .next (.complLaneRow _ _ (.refl s))
  | readout => exact .next (.complReadout _ _ (.refl s))
  | vector => exact .next (.complVector _ _ (.refl s))
  | stream => exact .next (.complStream _ _ (.refl s))

theorem ccPenter_keeps (c : CoreId) (h : Hdr) (p : EnterArg) : NextKeeps s (execCcPenter c h p s) := by
  refine .next (.issueCc _ _ _ _ _ _ (fun t b ht => ?_) (.refl s))
  cases p with
  | part => exact .passEnter _ _ _ _ _ _ _ _ ht
  | mod m l ring => exact .passEnter _ _ _ _ _ _ _ _ ht

theorem releaseNotice_keeps (c : CoreId) (p : PassId) : NextKeeps s (execReleaseNotice c p s) := by
  unfold execReleaseNotice
  split
  · exact .next (.refl s)
  · exact .ite (.next (.modCore _ _ _ (.refl s))) (.next (.refl s))

theorem fillStart_keeps (c : CoreId) : NextKeeps s (execFillStart c s) := by
  unfold execFillStart
  dsimp only
  have hp : Keeps s (s.pumpUntil c.val fun k => k.fillable.isSome) := .pumpUntil _ _ _ (.refl s)
  split
  · exact .next (.refl s)
  · exact .ite (.next (.modCore _ _ _ (.sync _ _ _ hp))) (.next (.sync _ _ _ hp))

theorem heldWritesRelease_keeps (c : CoreId) : NextKeeps s (execHeldWritesRelease c s) := by
  unfold execHeldWritesRelease
  split
  · exact .ite (.next (.modCore _ _ _ (.syncIn _ _ _ (.refl s)))) (.next (.syncIn _ _ _ (.refl s)))
  · exact .next (.refl s)

theorem fillVerdict_keeps (c : CoreId) : NextKeeps s (execFillVerdict c s) := by
  unfold execFillVerdict
  split
  next ent disp f l hl =>
    have hs : Keeps s (s.sync c.val (f.start + 34 - 1)) := .sync _ _ _ (.refl s)
    refine .ite (.next hs) (.ite (.next ?_) (.next ?_))
    · exact .signalHdr _ _ _ _ _ _ (.modCore _ _ _ (.modCore _ _ _ hs))
    · exact .coreFault _ _ _ _ _ _ _ _ _ (.modCore _ _ _ (.modCore _ _ _ hs))
  · exact .next (.refl s)

theorem coreResume_keeps (c : CoreId) (ns : Nat) : NextKeeps s (execCoreResume c ns s) := by
  have hr : Keeps s (s.modCore c.val fun k => k.resume ns) := .modCore _ _ _ (.refl s)
  unfold execCoreResume
  dsimp only
  split
  · exact .ite (.next (.afterArrive _ _ _ _ _ _ _ (.arrive _ _ _ _ _ _ hr))) (.next (.refl s))
  · exact .ite (.next (.endPass _ _ _ _ _ _ _ hr)) (.next (.refl s))
  · exact .ite (.next hr) (.next (.refl s))
  · exact .ite (.next hr) (.next (.refl s))
  · split
    · exact .next (.modCore _ _ _ (.refl s))
    · exact .next (.refl s)
  · exact .next (.refl s)

theorem programEnd_keeps (c : CoreId) : NextKeeps s (execProgramEnd c s) :=
  .ite (.ite (.next (.settle _ _ _ (.refl s))) (.next (.checkEnded _ _ (.modCore _ _ _ (.settle _ _ _ (.refl s)))))) (.next (.refl s))

/-! ### Rows of the ring and the ports -/

theorem scheduleOverrun_keeps : NextKeeps s (execScheduleOverrun s) := by
  refine .ite ?_ (.next (.refl s))
  split
  · exact .next (.raise _ _ (.refl s))
  · exact .next (.refl s)

theorem gateMiss_keeps (p : Fin 16) : NextKeeps s (execGateMiss p s) := by
  refine .ite ?_ (.next (.refl s))
  split
  · exact .next (.refl s)
  · exact .next (.raise _ _ (.modPart _ _ _ (.foldl (fun t x h => .modCore _ _ _ h) (.refl s))))

theorem inject_keeps (n : Nat) (ready : Bool) : NextKeeps s (execInject n ready s) := by
  unfold execInject
  split
  · exact .next (.refl s)
  · refine .ite (.next (.sendOverrun _ _ _ _ (.refl s))) (.ite (.next (.mismatch _ _ _ _ (.useTurns _ _ _ _ (.refl s)))) (.ite (.next
      (.useTurns _ _ _ _ (.refl s))) (.next ?_)))
    exact .land _ _ _ (.sendParcel _ _ _ (.noteSent _ _ (.useTurns _ _ _ _ (.refl s))))

theorem send_keeps (n : Nat) : NextKeeps s (execSend n s) := by
  unfold execSend
  split
  · exact .next (.refl s)
  · refine .ite (.ite (.next (.refl s)) (.next ?_)) (.next (.sendOverrun _ _ _ _ (.refl s)))
    exact .land _ _ _ (.sendParcel _ _ _ (.noteSent _ _ (.modSendSlot _ _ _ _ (.refl s))))

theorem parcelArrival_keeps (q : PortId) (d : List Byte) : NextKeeps s (execParcelArrival q d s) :=
  .ite (.next (.refl s)) (.ite (.next (.ite (.lateParcel _ _ _ (.refl s)) (.refl s)))
    (.next (.parcelIn _ _ _ _ (fun _ h => .ite (.matchParcel _ _ _ h) (.foreignParcel _ _ _ h)) (.refl s))))

theorem recvfForward_keeps (n : Nat) : NextKeeps s (execRecvfForward n s) := by
  unfold execRecvfForward
  split
  · exact .ite (.next (.sendParcel _ _ _ (.refl s))) (.next (.refl s))
  · exact .next (.refl s)

theorem forwardSlotLost_keeps (n : Nat) : NextKeeps s (execForwardSlotLost n s) := by
  unfold execForwardSlotLost
  split
  · exact .ite (.next (.stepTimeoutOf _ _ _ _ (.refl s))) (.next (.refl s))
  · exact .next (.refl s)

theorem stepTimeout_keeps (n : Nat) : NextKeeps s (execStepTimeout n s) := by
  unfold execStepTimeout
  split
  · exact .ite (.next (.stepTimeoutOf _ _ _ _ (.refl s))) (.next (.refl s))
  · exact .next (.refl s)

theorem detourSend_keeps (tag : BitVec 12) : NextKeeps s (execDetourSend tag s) := by
  unfold execDetourSend
  dsimp only
  split
  · exact .next (.refl s)
  · exact .ite (.next (.putParcel _ _ _ (.modDetour _ _ _ (.refl s)))) (.next (.refl s))

theorem timeWordReceived_keeps (q : PortId) (pos : Fin 22) (frac : BitVec 16) (w : List Byte) :
    NextKeeps s (execTimeWordReceived q pos frac w s) := by
  refine .next (.wordIn _ _ _ _ _ _ (fun t h => ?_) (.refl s))
  dsimp only
  split
  · exact h
  · exact .afterSample _ _ (.modPort _ _ _ h)

theorem cableRead_keeps (q : PortId) (mem : CableMem) : NextKeeps s (execCableRead q mem s) :=
  have hs : Keeps s (if mem.flat then s else s.emit (.pageSelect q)) := .ite (.refl s) (.emit _ _ (.refl s))
  .ite (.ite (.next (.modPort _ _ _ hs)) (.next (.modPort _ _ _ hs))) (.next (.refl s))

theorem portAlign_keeps (q : PortId) (lanes good : BitVec 34) (peerMs : Nat) : NextKeeps s (execPortAlign q lanes good peerMs s) := by
  refine .ite (.next (.refl s)) (.ite (.next (.modPort _ _ _ (.refl s))) (.next (.trainedPorts _ (.checkPort _ _ ?_))))
  exact .ite (.jumpBy _ _ _ (.modPort _ _ _ (.refl s))) (.ite (.modPort _ _ _ (.modPort _ _ _ (.refl s))) (.modPort _ _ _ (.refl s)))

theorem missingNeighbour_keeps (q : PortId) : NextKeeps s (execMissingNeighbour q s) := by
  unfold execMissingNeighbour
  dsimp only
  split
  · split
    · exact .ite (.next (.noteFound _ _ _ (.modPort _ _ _ (.refl s)))) (.next (.refl s))
    · exact .next (.refl s)
  · exact .next (.refl s)

theorem msgReceived_keeps (q : PortId) (w : List Byte) : NextKeeps s (execMsgReceived q w s) := by
  refine .next (.wordIn _ _ _ _ _ _ (fun t h => ?_) (.refl s))
  dsimp only
  split
  · exact h
  · refine .ite (.ite (.takeAck _ _ _ h) (.ite (.servePeer _ _ _ h) ?_)) (.routeMsg _ _ _ _ _ h)
    split
    · exact .takeFragment _ _ _ _ _ h
    · exact h

theorem transferStall_keeps : NextKeeps s (execTransferStall s) := by
  unfold execTransferStall
  dsimp only
  split
  · exact .next (.refl s)
  · split
    · exact .next (.complete _ _ _ _ _ (.modSlot _ _ _ _ (.refl s)))
    · exact .next (.refl s)

/-! ### Rows of batches and editions -/

theorem runStart_keeps : NextKeeps s (execRunStart s) := by
  refine .ite (.next (.refl s)) ?_
  split
  · split
    · exact .next (.ite (.startRun _ _ (.refl s)) (.refl s))
    · exact .next (.refl s)
  · exact .next (.stopAll _ _ _ _ _ (.refl s))
  · exact .next (.stopAll _ _ _ _ _ (.refl s))
  · exact .next (.refl s)

theorem editionSwitch_keeps (x : CtxId) : NextKeeps s (execEditionSwitch x s) := by
  unfold execEditionSwitch
  dsimp only
  split
  · exact .next (.refl s)
  · exact .ite (.next (.refl s)) (.ite (.next (.logEvent _ _ (.notify _ _ _ _ (.modSlot _ _ _ _ (.modCtx _ _ _ (.refl s)))))) (.next
      (.makeLive _ _ _ _ _ (.modCtx _ _ _ (.refl s)))))

theorem scrubDigestDone_keeps : NextKeeps s (execScrubDigestDone s) := by
  unfold execScrubDigestDone
  split
  next x e i ed l _ _ =>
    have hr : Keeps s (if s.scrubs (x, e, i, ed) then
        (({ s with scrub := { s.scrub with todo := l } } : State).readItem x e i) else { s with scrub := { s.scrub with todo := l } }) :=
      .ite (.readItem _ _ _ _ (.refl s)) (.refl s)
    exact .next (.scrubDue _ (.scrubNext _ (.ite (.damage _ _ _ _ hr) hr)))
  · exact .next (.refl s)

theorem redigestDone_keeps : NextKeeps s (execRedigestDone s) := by
  unfold execRedigestDone
  split
  · exact .next (.refl s)
  next d l _ =>
    refine .ite (.next (.refl s)) ?_
    dsimp only
    split
    next x e l' _ =>
      have hs : Keeps s (l'.foldl (fun t i => t.readShard x e i) { s with redigests := l }) := .foldl (fun t i h => .readShard _ _ _ _ h) (.refl s)
      exact .next (.ite (.dropToken _ hs) (.foldl (fun t i h => .damage _ _ _ _ h) hs))
    · exact .next (.refl s)

theorem loadDigestDone_keeps : NextKeeps s (execLoadDigestDone s) := by
  refine .ite (.next (.refl s)) ?_
  split
  · exact .next (.refl s)
  · split
    · exact .next (.imageDigest _ _ (.refl s))
    · exact .next (.planDigest _ _ (.refl s))
    · exact .next (.manifestDone _ _ (.refl s))
    · exact .next (.shardDone _ _ _ _ _ _ _ (.refl s))
    · exact .next (.refl s)

/-! ### Rows of the mailboxes -/

theorem mailboxEntryWrite_keeps (m : MbxId) (off : BitVec 16) (w : HostWrite) : NextKeeps s (execMailboxEntryWrite m off w s) := by
  refine .ite (.next (.refl s)) (.ite (.ite (.next (.foldl (fun t x h => .mailboxReg _ _ _ _ h) (.refl s))) (.next (.unsupported _ _ _
    (.refl s)))) ?_)
  refine .ite (.next (.refl s)) (.ite (.next (.misuse _ _ _ _ _ (.refl s))) (.ite (.next (.misuse _ _ _ _ _ (.refl s))) (.ite (.next
    (.misuse _ _ _ _ _ (.refl s))) ?_)))
  dsimp only
  split
  · exact .next (.misuse _ _ _ _ _ (.modMbox _ _ _ (.refl s)))
  · exact .next (.modMbox _ _ _ (.refl s))

theorem openContext_keeps (m : MbxId) : NextKeeps s (execOpenContext m s) := by
  refine .command fun t j h => .ite (.reply _ _ _ _ _ h) ?_
  split
  · exact .reply _ _ _ _ _ (.modCtx _ _ _ h)
  · exact .reply _ _ _ _ _ h

theorem bind_keeps (m : MbxId) : NextKeeps s (execBind m s) := by
  refine .openCommand fun t j u hu => ?_
  dsimp only
  split
  · exact .reply _ _ _ _ _ hu
  · exact .ite (.reply _ _ _ _ _ hu) (.ite (.reply _ _ _ _ _ hu) (.reply _ _ _ _ _ (.modCtx _ _ _ hu)))

theorem loadEdition_keeps (m : MbxId) : NextKeeps s (execLoadEdition m s) := by
  refine .slotCommand fun t j u hu => ?_
  have hs : Keeps s (if ((u.ctx j.ctx.toNat).slot j.slotArg).dmg then u else u.modSlot j.ctx.toNat j.slotArg fun k => { k with st := .loading }) :=
    .ite hu (.modSlot _ _ _ _ hu)
  refine .ite (.reply _ _ _ _ _ hu) (.ite (.ite ?_ (.beginLoad _ _ _ (.pushJob _ _ hs))) (.reply _ _ _ _ _ hu))
  split
  · exact .reply _ _ _ _ _ hu
  · exact .askPeer _ _ _ _ (.pushJob _ _ hs)

theorem dma_keeps (m : MbxId) : NextKeeps s (execDma m s) :=
  .openCommand fun _ _ _ hu => .ite (.pushJob _ _ hu) (.reply _ _ _ _ _ (.ite (.logDropped _ _ _ _ hu) hu))

theorem dmaTransferDone_keeps (x : DmaResult) : NextKeeps s (execDmaTransferDone x s) := by
  unfold execDmaTransferDone
  split
  · exact .next (.refl s)
  · exact .next (.nextDma _ (.complete _ _ _ _ _ (.ite (.emit _ _ (.useTurns _ _ _ _ (.refl s))) (.logDropped _ _ _ _ (.putAllowed _ _ _
      (.useTurns _ _ _ _ (.refl s)))))))

theorem rawDesc_keeps (m : MbxId) : NextKeeps s (execRawDesc m s) := by
  refine .command fun t j h => ?_
  split
  · exact .ite (.reply _ _ _ _ _ (.rawArm _ _ _ _ h)) (.reply _ _ _ _ _ h)
  · exact .reply _ _ _ _ _ h

theorem regenIdentity_keeps (m : MbxId) : NextKeeps s (execRegenIdentity m s) := by
  refine .command fun t j h => ?_
  split
  · exact .reply _ _ _ _ _ h
  · exact .waitPress _ _ h

/-! ### Resets below module level, presence, the identity -/

theorem resetComplete_keeps (u : RstUnit) : NextKeeps s (execResetComplete u s) := by
  refine .ite (.next (.startResets _ ?_)) (.next (.refl s))
  split
  · exact .complete _ _ _ _ _ (.refl s)
  · exact .refl s

theorem staleResponseAbsorbed_keeps (u : RstUnit) : NextKeeps s (execStaleResponseAbsorbed u s) := by
  unfold execStaleResponseAbsorbed
  dsimp only
  split
  · exact .next (.startResets _ (.modCore _ _ _ (.refl s)))
  · split
    · exact .next (.refl s)
    · exact .next (.refl s)

theorem presencePress_keeps : NextKeeps s (execPresencePress s) := by
  refine .ite ?_ (.next (.refl s))
  dsimp only
  split
  · exact .next (.servePress _ _ (.refl s))
  · exact .next (.refl s)

theorem presenceTimeout_keeps : NextKeeps s (execPresenceTimeout s) := by
  unfold execPresenceTimeout
  split
  · exact .next (.complete _ _ _ _ _ (.refl s))
  · exact .next (.refl s)

theorem attestationReport_keeps (smc : Bool) : NextKeeps s (execAttestationReport smc s) := by
  refine .ite ?_ ?_
  · split
    · exact .next (.smcAttest _ _ _ _ (.refl s))
    · exact .next (.refl s)
  · split
    · exact .next (.hostReport _ _ _ (.refl s))
    · exact .next (.refl s)

theorem treeBuildDone_keeps : NextKeeps s (execTreeBuildDone s) := by
  unfold execTreeBuildDone
  split
  · split
    · exact .next (.regenStep _ _ _ _ (.refl s))
    · exact .next (.refl s)
  · exact .ite (.next (.refl s)) (.ite (.next (.refl s)) (.next (.refl s)))

/-! ### Start-up

A start-up sets READY and the start-up value of strict mode on a module that is not READY. -/

theorem firmwareVerified_keeps (img : Option (List Byte)) : NextKeeps s (execFirmwareVerified img s) := by
  refine .ite (.next (.fwVerdict _ _ (.refl s))) (.ite (.next (.refl s)) (.ite (.next (.fwFailed _ _ (.refl s))) ?_))
  cases img with
  | none => exact .next (.fwFailed _ _ (.refl s))
  | some l => exact .next (.refl s)

theorem coldPath_keeps (t : TestResults) : NextKeeps s (execColdPath t s) := by
  refine .ite (.next (.ite (.refl s) (.goCold _ (.refl s)))) (.ite (.next (.holdTests _ _ (.refl s))) (.ite ?_ (.next (.refl s))))
  split
  · exact .next (.refl s)
  · exact .next (.raiseRows _ _ (.resolve _ _ _ _ (.refl s)))

/-- A start-up stands in a phase of a path only before READY. -/
theorem not_ready_of_onPath {s : State} {p : BitVec 2} {ph : BitVec 4} (h : s.onPath p ph = true) : s.boot.ready = false := by
  simp only [State.onPath, Bool.and_eq_true, Bool.not_eq_true'] at h
  exact h.1.1.2

theorem startupRetest_keeps (x : TestResults) : NextKeeps s (execStartupRetest x s) := by
  unfold execStartupRetest
  split
  next hp =>
    split
    · exact .next (.refl s)
    · exact .ite (.next (.raiseRows _ _ (.resolve _ _ _ _ (.refl s)))) (.next (.finishCold _ _ (not_ready_of_onPath hp) (.refl s)))
  · exact .next (.refl s)

theorem warmPath_keeps (l : List Nat) : NextKeeps s (execWarmPath l s) := by
  refine .ite (.next (.ite (.refl s) (.refl s))) (.ite (.next (.refl s)) ?_)
  split
  next hp =>
    split
    · exact .next (.finishStart _ _ _ _ (not_ready_of_onPath hp) (.raiseLost _ _ (.applyExcl _ _ _ _ (.refl s))))
    · exact .next (.refl s)
  · exact .next (.refl s)

/-! ### Physics, faults and the sideband -/

theorem wearSample_keeps (l : List (Nat × Nat)) : NextKeeps s (execWearSample l s) :=
  .ite (.next (.foldl (fun _ _ h => .ite (.wearOf _ _ _ h) h) (.refl s))) (.next (.refl s))

theorem recordHandling_keeps : NextKeeps s (execRecordHandling s) := by
  refine .ite ?_ (.next (.refl s))
  split
  · exact .next (.refl s)
  · exact .ite (.next (.beginHandling _ _ (.refl s))) (.ite (.next (.refl s)) (.next (.endHandling _ _ (.refl s))))

theorem persistentLogWrite_keeps : NextKeeps s (execPersistentLogWrite s) := by
  unfold execPersistentLogWrite
  split
  · exact .next (.refl s)
  · exact .next (Keeps.mk_iff.2 (Keeps.refl s).toF)

theorem junctionSample_keeps (x : Sensors) : NextKeeps s (execJunctionSample x s) := by
  refine .ite (.next (.foldl (fun _ _ h => .junctionTrip _ _ h) ?_)) (.next (.refl s))
  exact .ite (.everyMs _ _ _ (.readTref _ (.refl s))) (.readTref _ (.refl s))

theorem smcAttestationRequest_keeps (tag : Word32) (nonce : List Byte) (ctx : Byte) : NextKeeps s (execSmcAttestationRequest tag nonce ctx s) :=
  have ha : Keeps s (s.smcAck tag 0 0) := .smcAck _ _ _ _ (.refl s)
  .ite (.next (.refl s)) (.ite (.next (.smcAck _ _ _ _ (.refl s))) (.ite (.next ha) (.next (.smcReport _ _ _ _ ha))))

theorem smcMessageSent_keeps : NextKeeps s (execSmcMessageSent s) := by
  unfold execSmcMessageSent
  split
  · exact .next (.sendMctp _ _ (.refl s))
  · exact .next (.refl s)

/-! ### The host -/

theorem bar2Access_keeps (a : HostAcc) : NextKeeps s (execBar2Access a s) := by
  cases a with
  | read off n => exact .ite (.next (.emit _ _ (.refl s))) (.next (.ite (.bar2Read _ _ _ (.refl s)) (.refl s)))
  | write off d => exact .ite (.next (.refl s)) (.next (.ite (.bar2Write _ _ _ (.refl s)) (.refl s)))

theorem debugWindowAccess_keeps (a : HostAcc) (rid : BitVec 16) : NextKeeps s (execDebugWindowAccess a rid s) := by
  cases a with
  | read off n => exact .ite (.next (.refl s)) (.ite (.next (.unsupported _ _ _ (.refl s))) (.next (.windowRead _ _ _ _ (.refl s))))
  | write off d =>
    refine .ite (.next (.refl s)) (.ite (.next (.unsupported _ _ _ (.refl s))) (.next (.windowWrite _ _ _ _ (fun c t h => ?_) (.refl s))))
    exact .ite (.windowWords _ _ _ _ _ h) (.unlocked _ _ (fun u hu => .windowBytes _ _ _ _ hu) h)

theorem malformedTlp_keeps (k : BadTlp) (off : Word32) (rid : BitVec 16) : NextKeeps s (execMalformedTlp k off rid s) := by
  refine .ite (.next (.refl s)) ?_
  cases k with
  | malformed | poisoned => exact .next (.logViolation _ _ _ _ (.refl s))
  | ecrc => exact .next (.ite (.logViolation _ _ _ _ (.refl s)) (.refl s))
  | noBar | reservedBar0 | notWholeWord => exact .next (.unsupported _ _ _ (.refl s))

theorem registerWrite_keeps (off : Nat) (w : HostWrite) : NextKeeps s (execRegisterWrite off w s) :=
  .ite (.next (.refl s)) (.ite (.ite (.next (.foldl (fun _ _ h => .regWrite _ _ _ h) (.refl s))) (.next (.unsupported _ _ _ (.refl s))))
    (.ite (mailboxEntryWrite_keeps s _ _ w) (.ite (debugWindowAccess_keeps s _ _) (.next (.unsupported _ _ _ (.refl s))))))

end

/-! ### Every command -/

/-- Every command but those that begin or end a module reset keeps the queue, the canonical form of LPDDR, strict mode and a halt. -/
theorem exec_keeps (s : State) (i : Instr) (hi : resetsModule i = false) : NextKeeps s (exec i s) := by
  cases i with
  | ccNop | ccSt | ccHalt => exact .next (.ccPlain _ _ _ _ _ _ _ (.refl s))
  | ccAdd | ccSub | ccAnd | ccOr | ccXor | ccShl | ccShr | ccSar | ccMin | ccMax | ccSlt | ccSltu | ccAddi | ccAndi | ccOri | ccXori | ccLi | ccLih =>
    exact .next (.ccResult _ _ _ _ _ _ _ (.refl s))
  | ccShli | ccShri | ccSari => exact .ite (.next (.ccResult _ _ _ _ _ _ _ (.refl s))) (.refused _)
  | ccMul | ccLd => exact .next (.ccLate _ _ _ _ _ _ _ _ (.refl s))
  | ccBeq | ccBne | ccBlt | ccBge | ccBltu | ccBgeu | ccJmp => exact .next (.ccBranch _ _ _ _ _ _ _ (.refl s))
  | ccRds | ccRdsc => exact .ite (.next (.issueCc _ _ _ _ _ _ (fun _ _ h => .modCore _ _ _ h) (.refl s))) (.refused _)
  | ccParrive => exact .next (.issueCc _ _ _ _ _ _ (fun _ _ h => .passEnter _ _ _ _ _ _ _ _ h) (.refl s))
  | ccPenter c h p => exact ccPenter_keeps s c h p
  | ccPwait => exact .next (.issueCc _ _ _ _ _ _ (fun _ _ h => .passWait _ _ _ _ _ _ (.modCore _ _ _ h)) (.refl s))
  | ccPlevel => exact .next (.issueCc _ _ _ _ _ _ (fun _ _ h => .signalHdr _ _ _ _ _ _ (.modCore _ _ _ h)) (.refl s))
  | mmLw | mmLa => exact .next (.issueMm _ _ _ _ _ (.refl s))
  | mmB16 | mmF8 | mmF4 | mmF4e | mmN3 | mmN2 => exact .next (.issueComp _ _ _ _ _ (.refl s))
  | mmRd => exact .ite (.next (.issueMm _ _ _ _ _ (.refl s))) (.refused _)
  | veCmp | veSel | veCopy | veGets | vePuts | veLd | veSt | veTred | veCmpr | veExpd => exact .next (.issueVe _ _ _ _ (.refl s))
  | veAlu | veFma | veUn | veBcast | veIota | veCvt | veRed => exact .ite (.next (.issueVe _ _ _ _ (.refl s))) (.refused _)
  | stArm | stTail | stHead | stCancel => exact .next (.issueSt _ _ _ _ (.refl s))
  | releaseNotice c p => exact releaseNotice_keeps s c p
  | ringPassReport => exact .ite (.next (.completePass _ _ (.sendPass _ _ (.fullRing _ _ (.modPass _ _ _ (.refl s)))))) (.next (.refl s))
  | fillStart c => exact fillStart_keeps s c
  | heldWritesRelease c => exact heldWritesRelease_keeps s c
  | fillVerdict c => exact fillVerdict_keeps s c
  | slotFillStart c ch => exact slotFillStart_keeps s c ch
  | slotFillComplete c ch => exact slotFillComplete_keeps s c ch
  | staleFillAbsorbed => exact .next (.startResets _ (.modCore _ _ _ (.refl s)))
  | outboundSlotSent c o => exact outboundSlotSent_keeps s c o
  | coreResume c ns => exact coreResume_keeps s c ns
  | programEnd c => exact programEnd_keeps s c
  | waymarkDeadlock => exact .ite (.next (.coreFault _ _ _ _ _ _ _ _ _ (.refl s))) (.next (.refl s))
  | instructionCompletion c u => exact instructionCompletion_keeps s c u
  | wymSignal => exact .next (.windowWrite _ _ _ _ (fun _ _ h => .unlocked _ _ (fun _ h => .writeSignal _ _ _ h) h) (.refl s))
  | wymDbgfence => exact .next (.windowWrite _ _ _ _ (fun _ _ h => .modCore _ _ _ h) (.refl s))
  | debugFenceDone => exact .next (.foldl (fun _ _ h => .fenceOver _ _ h) (.refl s))
  | wymValWrite => exact .next (.windowWrite _ _ _ _ (fun _ _ h => .unlocked _ _ (fun _ h => .writeWm _ _ _ _ h) h) (.refl s))
  | scalarDebugWrite => exact .next (.windowWrite _ _ _ _ (fun _ _ h => .unlocked _ _ (fun _ h => .modCore _ _ _ h) h) (.refl s))
  | scheduleOverrun => exact scheduleOverrun_keeps s
  | gateMiss p => exact gateMiss_keeps s p
  | lndStepAdvance => exact .ite (.next (.modPart _ _ _ (.refl s))) (.next (.refl s))
  | milestoneAdvance => exact .ite (.next (.queueLost _ (.repeatWords _ (.nextStep _ (.refl s))))) (.next (.refl s))
  | inject n ready => exact inject_keeps s n ready
  | send n => exact send_keeps s n
  | parcelArrival q d => exact parcelArrival_keeps s q d
  | recvfForward n => exact recvfForward_keeps s n
  | forwardSlotLost n => exact forwardSlotLost_keeps s n
  | stepTimeout n => exact stepTimeout_keeps s n
  | detourArrival => exact .ite (.next (.refl s)) (.next (.parcelIn _ _ _ _ (fun _ h => .foreignParcel _ _ _ h) (.refl s)))
  | detourSend tag => exact detourSend_keeps s tag
  | timeWordReceived q pos frac w => exact timeWordReceived_keeps s q pos frac w
  | milestoneSteer => exact .ite (.next (.refl s)) (.next (.refl s))
  | identReceived => exact .next (.wordIn _ _ _ _ _ _ (fun _ h => .ite h (.checkPort _ _ (.modPort _ _ _ h))) (.refl s))
  | cableRead q mem => exact cableRead_keeps s q mem
  | portAlign q lanes good ms => exact portAlign_keeps s q lanes good ms
  | trainTimeout | trainRetry => exact .next (.ite (.modPort _ _ _ (.refl s)) (.refl s))
  | linkLost => exact .ite (.next (.logEvent _ _ (.modPort _ _ _ (.refl s)))) (.next (.refl s))
  | missingNeighbour q => exact missingNeighbour_keeps s q
  | passWordReceived => exact .next (.wordIn _ _ _ _ _ _ (fun _ h => .ite (.ite (.mergePass _ _ h) h) (.foreignWord _ _ _ h)) (.refl s))
  | stopReceived => exact .next (.wordIn _ _ _ _ _ _ (fun _ h => .ite (.remoteStop _ _ _ _ _ _ _ h) (.ite h (.foreignWord _ _ _ h))) (.refl s))
  | msgReceived q w => exact msgReceived_keeps s q w
  | transferStall => exact transferStall_keeps s
  | ready => exact .next (.runIn _ _ _ _ _ (fun _ _ h => .ite h (.readyCheck _ (.ite (.sendRun _ _ _ h) h))) (.refl s))
  | fix => exact .next (.runIn _ _ _ _ _ (fun _ _ h => .ite (.fixRun _ _ (.sendRun _ _ _ h)) h) (.refl s))
  | bindAt => exact .next (.ite (.bindRun _ (.refl s)) (.refl s))
  | bound => exact .next (.runIn _ _ _ _ _ (fun _ _ h => .ite h (.boundCheck _ (.sendRun _ _ _ h))) (.refl s))
  | go => exact .next (.runIn _ _ _ _ _ (fun _ _ h => .ite (.sendRun _ _ _ h) h) (.refl s))
  | decline =>
    exact .next (.runIn _ _ _ _ _ (fun _ _ h => .ite h (.ite (.endAgreement _ _ _ _ (.sendRun _ _ _ h)) (.endAgreement _ _ _ _
      (.sendRun _ _ _ h)))) (.refl s))
  | runTimeout => exact .next (.ite (.decline _ _ (.refl s)) (.refl s))
  | runStart => exact runStart_keeps s
  | runEnd => exact .ite (.next (.finishRun _ _ _ _ _ (.jobEnded _ (.unpinRun _ (.refl s))))) (.ite (.next (.completeStopped _ (.refl s))) (.next
    (.refl s)))
  | editionSwitch x => exact editionSwitch_keeps s x
  | scrubRotation => exact .ite (.next (.refl s)) (.ite (.next (.logEvent _ _ (.refl s))) (.next (.startRotation _ (.refl s))))
  | scrubDigestDone => exact scrubDigestDone_keeps s
  | redigestDone => exact redigestDone_keeps s
  | loadDigestDone => exact loadDigestDone_keeps s
  | doorbell => exact .next (.doorbell _ _ _ (.refl s))
  | mbxRheadWrite => exact .next (.writeRhead _ _ _ (.refl s))
  | mbxNheadWrite => exact .next (.writeNhead _ _ _ (.refl s))
  | mailboxEntryWrite m off w => exact mailboxEntryWrite_keeps s m off w
  | status | debugMap | debugUnmap => exact .command fun _ _ h => .reply _ _ _ _ _ h
  | openContext m => exact openContext_keeps s m
  | closeContext => exact .openCommand fun _ _ _ h => .ite (.reply _ _ _ _ _ h) (.reply _ _ _ _ _ (.closeCtx _ _ h))
  | loadImage =>
    exact .openCommand fun _ _ _ h => .ite (.reply _ _ _ _ _ h) (.ite (.reply _ _ _ _ _ h) (.pushJob _ _ h))
  | unloadImage =>
    exact .openCommand fun _ _ _ h => .ite (.reply _ _ _ _ _ h) (.ite (.reply _ _ _ _ _ h) (.reply _ _ _ _ _ (.modCtx _ _ _ h)))
  | bind m => exact bind_keeps s m
  | unbind => exact .openCommand fun _ _ _ h => .ite (.reply _ _ _ _ _ h) (.reply _ _ _ _ _ (.modCtx _ _ _ h))
  | loadEdition m => exact loadEdition_keeps s m
  | publish =>
    exact .slotCommand fun _ _ _ h => .ite (.reply _ _ _ _ _ h) (.ite (.reply _ _ _ _ _ h) (.ite (.ite (.reply _ _ _ _ _ h) (.reply _ _ _ _ _
      (.modCtx _ _ _ (.modSlot _ _ _ _ h)))) (.reply _ _ _ _ _ (.makeLive _ _ _ _ _ h))))
  | unpublish => exact .slotCommand fun _ _ _ h => .ite (.reply _ _ _ _ _ (.modCtx _ _ _ (.modSlot _ _ _ _ h))) (.reply _ _ _ _ _ h)
  | unloadEdition => exact .slotCommand fun _ _ _ h => .ite (.reply _ _ _ _ _ (.releaseSlot _ _ _ h)) (.reply _ _ _ _ _ h)
  | runBatch =>
    exact .openCommand fun _ _ _ h => .ite (.reply _ _ _ _ _ h) (.ite (.beginRun _ _ (.pushJob _ _ h)) (.pushJob _ _ h))
  | stopRun => exact .openCommand fun _ _ _ h => .ite (.reply _ _ _ _ _ (.stopAll _ _ _ _ _ h)) (.reply _ _ _ _ _ h)
  | dma m => exact dma_keeps s m
  | dmaTransferDone x => exact dmaTransferDone_keeps s x
  | setWindow => exact .openCommand fun _ _ _ h => .reply _ _ _ _ _ h
  | setStrict => exact .command fun _ _ h => .reply _ _ _ _ _ h.setStrict
  | armMailbox => exact .command fun _ _ h => .ite (.reply _ _ _ _ _ h) (.reply _ _ _ _ _ (.modMbox _ _ _ h))
  | disarmMailbox =>
    exact .command fun _ _ h => .ite (.reply _ _ _ _ _ h) (.disarmDone _ _ (.pushJob _ _ (.abortQueued _ _ _ (.modMbox _ _ _ h))))
  | setPolicy =>
    exact .command fun _ _ h => .ite (.reply _ _ _ _ _ h) (.reply _ _ _ _ _ (.ite h (.foldl (fun _ _ h => .modMbox _ _ _ h) h)))
  | coreHalt => exact .command fun _ _ h => .needPos _ _ _ (fun _ _ _ => .reply _ _ _ _ _ (.modCore _ _ _ h)) h
  | coreReset | clusterReset | partitionReset => exact .command fun _ _ h => .needPos _ _ _ (fun _ _ _ => .commandReset _ _ _ h) h
  | resetComplete u => exact resetComplete_keeps s u
  | staleResponseAbsorbed u => exact staleResponseAbsorbed_keeps s u
  | rawXfer => exact .command fun _ _ h => .ite (.reply _ _ _ _ _ (.rawTurns _ _ _ (.rawTurns _ _ _ (.rawWrite _ _ _ h)))) (.reply _ _ _ _ _ h)
  | rawDesc m => exact rawDesc_keeps s m
  | unlockDebug => exact .command fun _ _ h => .waitPress _ _ h
  | commitSpares => exact .command fun _ _ h => .ite (.reply _ _ _ _ _ h) (.waitPress _ _ h)
  | regenIdentity m => exact regenIdentity_keeps s m
  | presencePress => exact presencePress_keeps s
  | presenceTimeout => exact presenceTimeout_keeps s
  | presenceStuck => exact .ite (.next (.raise _ _ (.refl s))) (.next (.refl s))
  | presenceRelease => exact .next (.refl s)
  | sealOpen => exact .next (.ite (.openSeal _ (.refl s)) (.refl s))
  | bar2Access a => exact bar2Access_keeps s a
  | debugWindowAccess a rid => exact debugWindowAccess_keeps s a rid
  | malformedTlp k off rid => exact malformedTlp_keeps s k off rid
  | registerWrite off w => exact registerWrite_keeps s off w
  | errsumClear => exact .next (.errsumWrite _ _ (.refl s))
  | digScrubcfgWrite => exact .next (.scrubcfgWrite _ _ (.refl s))
  | glbPwrctlWrite => exact .next (.pwrctlWrite _ _ (.refl s))
  | attestationGo => exact .next (.attCtrl _ _ (.refl s))
  | attestationReport smc => exact attestationReport_keeps s smc
  | identityReserve => exact .ite (.next (.ite (.reserve _ (.refl s)) (.reserveFailed _ (.refl s)))) (.next (.refl s))
  | treeBuildDone => exact treeBuildDone_keeps s
  | fwLoadGo => exact .next (.fwCtrl _ _ (.refl s))
  | firmwareVerified img => exact firmwareVerified_keeps s img
  | coldPath t => exact coldPath_keeps s t
  | startupRetest t => exact startupRetest_keeps s t
  | warmPath l => exact warmPath_keeps s l
  | powerGood | powerGoodDrop | perstAssert | perstDeassert | functionLevelReset | hotReset | moduleReset | watchdog | smcReset => cases hi
  | junctionSample x => exact junctionSample_keeps s x
  | vcoreStep => exact .ite (.next (.firstRails _ (.refl s))) (.next (.refl s))
  | powerFloor | thermalFloor => exact .ite (.next (.raise _ _ (.refl s))) (.next (.refl s))
  | wearSample l => exact wearSample_keeps s l
  | lpddrLinkError => exact .ite (.next (.refl s)) (.ite (.next (.modLctl _ _ _ (.refl s))) (.next (.raise _ _ (.modLctl _ _ _ (.refl s)))))
  | eventRaise => exact .ite (.next (.raise _ _ (.ite (.modCore _ _ _ (.refl s)) (.refl s)))) (.next (.refl s))
  | recordHandling => exact recordHandling_keeps s
  | persistentLogWrite => exact persistentLogWrite_keeps s
  | smcHalt => exact .ite (.next (.refl s)) (.next (.smcAck _ _ _ _ (.ite (.refl s) (.raise _ _ (.refl s)))))
  | smcAttestationRequest tag nonce ctx => exact smcAttestationRequest_keeps s tag nonce ctx
  | cablingPlan =>
    exact .ite (.next (.refl s)) (.ite (.next (.smcAck _ _ _ _ (.refl s))) (.ite (.next (.smcAck _ _ _ _ (.refl s))) (.ite (.next
      (.smcAck _ _ _ _ (.refl s)))
      (.next (.smcAck _ _ _ _ (.takePlan _ _ (.refl s)))))))
  | coordinateMessage =>
    exact .ite (.next (.refl s)) (.ite (.next (.smcAck _ _ _ _ (.refl s))) (.ite (.next (.smcAck _ _ _ _ (.refl s))) (.next (.smcAck _ _ _ _
      (.takePlan _ _ (.refl s))))))
  | routingEntryWrite =>
    exact .ite (.next (.refl s)) (.ite (.next (.smcAck _ _ _ _ (.refl s))) (.ite (.next (.smcAck _ _ _ _ (.refl s))) (.next (.smcAck _ _ _ _
      (.writeRoute _ _ _ (.refl s))))))
  | telemetryRequest => exact .next (.ite (.sendMctp _ _ (.smcAck _ _ _ _ (.refl s))) (.refl s))
  | smcPowerLimit => exact .next (.ite (.smcAck _ _ _ _ (.refl s)) (.refl s))
  | setEndpointId => exact .ite (.next (.refl s)) (.ite (.next (.control _ _ _ _ (.refl s))) (.next (.control _ _ _ _ (.refl s))))
  | getEndpointId | getMessageTypeSupport => exact .next (.ite (.control _ _ _ _ (.refl s)) (.refl s))
  | getMctpVersionSupport | getVendorDefinedMessageSupport =>
    exact .ite (.next (.refl s)) (.ite (.next (.control _ _ _ _ (.refl s))) (.next (.control _ _ _ _ (.refl s))))
  | testAccessPortInstruction => exact .next (.emit _ _ (.refl s))
  | smcMessageSent => exact smcMessageSent_keeps s

/-- Settles O58: of what `Keeps` says of every command but the module resets, the part about strict mode. -/
theorem strictModeStays : Obligations.StrictModeStays := by
  intro s t i hs hi ht
  exact (exec_keeps s i hi t ht).strict hs.1 hs.2

end Sys2Proof.Machine
end

section
/-! PROOFS. The control core: issue on an idle core, the instructions that compute a scalar, branches, special registers and the scalar file (R140
to R150, R158, R169). -/
namespace Sys2Proof.Machine

/-! ### One core of the module -/

theorem core_setCore_same {s : State} (hw : Sparse.Wf {} s.cores) (c : Nat) (k : Core) : (s.setCore c k).core c = k := sget_sset_same _ _ _ hw

theorem core_setCore_ne {s : State} (hw : Sparse.Wf {} s.cores) {c d : Nat} (hd : d ≠ c) (k : Core) : (s.setCore c k).core d = s.core d :=
  sget_sset_ne _ _ _ _ hw hd

theorem core_modCore_same {s : State} (hw : Sparse.Wf {} s.cores) (c : Nat) (f : Core → Core) : (s.modCore c f).core c = f (s.core c) :=
  core_setCore_same hw c _

theorem setCore_core {s : State} (hw : Sparse.Wf {} s.cores) (c : Nat) : s.setCore c (s.core c) = s := by
  have h : sset {} s.cores c (s.core c) = s.cores := sset_same _ _ hw
  simp only [State.setCore, h]

/-- A change that leaves a core as it is leaves the module as it is. -/
theorem modCore_eq_self {s : State} (hw : Sparse.Wf {} s.cores) {c : Nat} {f : Core → Core} (hf : f (s.core c) = s.core c) : s.modCore c f = s := by
  rw [State.modCore, hf, setCore_core hw]

/-! ### Issue on an idle core (R148) -/

section
variable {s : State} {c : Nat}

theorem pumpTo_idle {k : Core} (h : k.engIdle = true) (t : Nat) : k.pumpTo t = k := if_pos h

theorem settleRes_none {k : Core} (h : k.pendRes = []) (b : Nat) : k.settleRes b = k := by
  simp [Core.settleRes, h]

theorem settleClips_none {k : Core} (h : k.pendClip = []) (b : Nat) : k.settleClips b = k := by
  simp [Core.settleClips, h]

theorem settleSigs_none (h : (s.core c).pendSig = []) (b : Nat) : s.settleSigs c b = s := by
  simp [State.settleSigs, h]

/-- A core that has nothing pending is not changed by being brought to a beat. -/
theorem settle_quiet (hw : Sparse.Wf {} s.cores) (hr : (s.core c).pendRes = []) (hs : (s.core c).pendSig = []) (hc : (s.core c).pendClip = [])
    (b : Nat) : s.settle c b = s := by
  have h : (s.modCore c fun k => (k.settleRes b).settleClips b) = s :=
    modCore_eq_self hw (by rw [settleRes_none hr, settleClips_none hc])
  rw [State.settle, h, settleSigs_none hs]

theorem sync_quiet (hw : Sparse.Wf {} s.cores) (hi : (s.core c).engIdle = true) (hr : (s.core c).pendRes = []) (hs : (s.core c).pendSig = [])
    (hc : (s.core c).pendClip = []) (b : Nat) : s.sync c b = s := by
  rw [State.sync, settle_quiet hw hr hs hc]
  exact modCore_eq_self hw (pumpTo_idle hi _)

/-- Scalars that are available by the core's beat do not delay the issue. -/
theorem issueBeat_available {k : Core} {regs : List Reg} (h : ∀ r ∈ regs, k.availAt r ≤ k.beat) : k.issueBeat regs = k.beat := by
  unfold Core.issueBeat
  induction regs with
  | nil => rfl
  | cons r l ih =>
    have hr : Nat.max k.beat (k.availAt r) = k.beat := Nat.max_eq_left (h r (by simp))
    rw [List.foldl_cons, hr]
    exact ih fun x hx => h x (by simp [hx])

theorem atInstr_engLive {k : Core} {op : AnyOp} {h : Hdr} (hk : k.atInstr op h = true) : k.engLive = true := by
  simp only [Core.atInstr, Bool.and_eq_true] at hk
  exact hk.1.1.1

/-- An instruction without a wait has its beat at once. -/
theorem toWait_free {h : Hdr} {b : Nat} (hw : h.w = none) (hs : s.sync c (b - 1) = s) (n : Nat) : s.toWait (n + 1) c h b = (s, some b) := by
  simp [State.toWait, hs, Core.waitFrom, hw]

end

/-- Settles O6: on a core with nothing to do and nothing pending, neither the beats before the issue nor the issue beat change the state. -/
theorem idleCoreIssues : Obligations.IdleCoreIssues := by
  intro s c op h regs hwf hat hidle hw hres hsig hclip havail
  have hsync : s.sync c.val ((s.core c.val).beat - 1) = s := sync_quiet hwf hidle hres hsig hclip _
  have hlive : (s.core c.val).engLive = true := atInstr_engLive hat
  have htake : (s.modCore c.val fun k => k.takeHdr h (s.core c.val).beat) = s := modCore_eq_self hwf (by simp [Core.takeHdr, hw])
  simp only [State.issueAt, hat, if_true, issueBeat_available havail, toWait_free hw hsync, settle_quiet hwf hres hsig hclip, hlive, Bool.and_self,
    htake]

/-! ### Results (R144, R148) -/

section
variable {i : Instr} {c : Nat} {op : CcOp} {h : Hdr} {rd : Reg} {srcs : List Reg} {v f : Core → Word64}

/-- An instruction that issues by `State.ccResult` computes the value that its meaning names, in whatever form. -/
theorem computes_of_exec (hi : ∀ s, exec i s = .next (s.ccResult c op h rd srcs f)) (hv : ∀ k, f k = v k) : Computes i c op h rd srcs v := by
  intro s u b hu
  rw [hi, State.ccResult, issueCc_at hu]
  simp only [State.modCore, withResult_eq, hv]

theorem late_eq (k : Core) (rd : Reg) (x : Word64) (h : Hdr) (b lat : Nat) :
    ({ k with pendRes := k.pendRes ++ [(b + lat, rd, x)], avail := sset 0 k.avail (if rd.val = 0 then noScalar else rd.val) (b + lat) }.past b
      1).sigAt h 0 k.pc (b + lat) = k.withLate rd x h b lat := by
  obtain ⟨w, x⟩ := h
  cases x <;> simp [Core.sigAt, Core.past, Core.withLate]

theorem computesLate_of_exec {lat : Nat} (hi : ∀ s, exec i s = .next (s.ccLate c op h rd srcs lat f)) (hv : ∀ k, f k = v k) :
    ComputesLate i c op h rd srcs lat v := by
  intro s u b hu
  rw [hi, State.ccLate, issueCc_at hu]
  simp only [State.modCore, late_eq, hv]

/-- A shift by a scalar takes its low six bits. -/
theorem shiftCount (x : Word64) : x.toNat % 64 = (x.truncate 6 : BitVec 6).toNat := by simp

theorem slt_eq (x y : Word64) : x.slt y = decide (x.toInt < y.toInt) := rfl

theorem ult_eq (x y : Word64) : x.ult y = decide (x.toNat < y.toNat) := rfl

/-- A comparison as 1 or 0. -/
theorem ofNat_b2n (p : Prop) [Decidable p] : BitVec.ofNat 64 (b2n (decide p)) = if p then 1 else 0 := by
  by_cases hp : p <;> simp [hp]

end

/-- Settles O7: every row issues by `State.ccResult`; the shifts, the signed minimum and the comparisons are written with other operators there. -/
theorem controlCoreArithmetic : Obligations.ControlCoreArithmetic := by
  refine ⟨fun c h rd ra rb => ?_, fun c h rd ra imm x => ?_⟩
  · refine ⟨?add, ?sub, ?and, ?or, ?xor, ?shl, ?shr, ?sar, ?min, ?max, ?slt, ?sltu⟩
    case add | sub | and | or | xor => exact computes_of_exec (fun _ => rfl) fun _ => rfl
    case shl | shr | sar => exact computes_of_exec (fun _ => rfl) fun k => by rw [shiftCount]
    case min | max => exact computes_of_exec (fun _ => rfl) fun k => by simp only [slt_eq, decide_eq_true_eq]
    case slt => exact computes_of_exec (fun _ => rfl) fun k => by rw [slt_eq, ofNat_b2n]
    case sltu => exact computes_of_exec (fun _ => rfl) fun k => by rw [ult_eq, ofNat_b2n]
  · refine ⟨?addi, ?andi, ?ori, ?xori, ?li, ?lih, fun himm => ?shifts⟩
    case addi | andi | ori | xori | li | lih => exact computes_of_exec (fun _ => rfl) fun _ => rfl
    case shifts =>
      have hl : decide (imm.toNat < 64) = true := decide_eq_true himm
      exact ⟨computes_of_exec (fun _ => if_pos hl) fun _ => rfl, computes_of_exec (fun _ => if_pos hl) fun _ => rfl,
        computes_of_exec (fun _ => if_pos hl) fun _ => rfl⟩

/-- The address of CC.LD and CC.ST: within 4 MiB, its low three bits zero (R146). -/
theorem ccAddr_eq (x : Word64) (imm : BitVec 29) : ccAddr x imm = (x + imm.signExtend 64).toNat % 2 ^ 22 / 8 * 8 := by
  unfold ccAddr sx bitsOf
  omega

/-- Settles O8: both issue by `State.ccLate`. -/
theorem multiplyAndLoad : Obligations.MultiplyAndLoad := fun _ _ _ _ _ _ =>
  ⟨computesLate_of_exec (fun _ => rfl) fun _ => BitVec.eq_of_toNat_eq (by simp), computesLate_of_exec (fun _ => rfl) fun _ => by rw [ccAddr_eq]⟩

/-! ### Branches (R144, R145) -/

theorem branches_of_exec {i : Instr} {c : Nat} {op : CcOp} {h : Hdr} {srcs : List Reg} {off : BitVec 29} {cond : Core → Bool} {p : Core → Prop}
    (hi : ∀ s, exec i s = .next (s.ccBranch c op h srcs off cond)) (hp : ∀ k, cond k = true ↔ p k) : Branches i c op h srcs off p := by
  intro s u b hu
  rw [hi, State.ccBranch, issueCc_at hu]
  refine ⟨fun h => ?_, fun h => ?_⟩
  · simp only [State.modCore, (hp _).2 h, if_true, branchPc]
  · have hn : cond (u.core c) = false := Bool.eq_false_iff.2 fun hc => h ((hp _).1 hc)
    simp only [State.modCore, hn, Bool.false_eq_true, if_false, Core.past]

/-- Settles O9: a branch issues by `State.ccBranch`, the other rows by `State.ccPlain`. -/
theorem branching : Obligations.Branching := by
  refine ⟨fun c h ra rb off => ⟨?beq, ?bne, ?blt, ?bge, ?bltu, ?bgeu, ?jmp⟩,
    fun c h rd ra imm s u b => ⟨fun hu => ?nop, fun hu => ?halt, fun hu => ?st⟩⟩
  case beq | bne => exact branches_of_exec (fun _ => rfl) fun _ => decide_eq_true_iff
  case blt => exact branches_of_exec (fun _ => rfl) fun _ => by rw [slt_eq, decide_eq_true_eq]
  case bge => exact branches_of_exec (fun _ => rfl) fun _ => by simp [slt_eq]
  case bltu => exact branches_of_exec (fun _ => rfl) fun _ => by rw [ult_eq, decide_eq_true_eq]
  case bgeu => exact branches_of_exec (fun _ => rfl) fun _ => by simp [ult_eq]
  case jmp => exact branches_of_exec (fun _ => rfl) fun _ => by simp
  case nop => exact congrArg Host.Outcome.next (issueCc_at hu)
  case halt => exact congrArg Host.Outcome.next (issueCc_at hu)
  case st =>
    simp only [← ccAddr_eq]
    exact congrArg Host.Outcome.next (issueCc_at hu)

/-! ### Special registers (R141, R142, R158, R169) -/

theorem ccRds_at {c : CoreId} {h : Hdr} {rd : Reg} {sel : Byte} {s u : State} {b : Nat} (hl : selLegal sel.toNat = true)
    (hu : s.issueAt c (.rds rd sel) h [rd] = some (u, b)) :
    exec (.ccRds c h rd sel) s = .next (({ u with free := u.free + 1 }).modCore c fun k =>
      { k.withResult rd (u.special c sel.toNat b) h b with vseen := k.vseen || decide (0x20 ≤ sel.toNat) }) := by
  refine (if_pos hl).trans (congrArg Host.Outcome.next ((issueCc_at hu).trans ?_))
  simp only [State.modCore, ← withResult_eq]
  obtain ⟨w, x⟩ := h
  cases x <;> by_cases hr : rd.val = 0 <;> simp [hr, Core.setSc, Core.past, Core.sigAt]

theorem ccRdsc_at {c : CoreId} {h : Hdr} {rd : Reg} {sel : Byte} {s u : State} {b : Nat} (hl : selClears sel.toNat = true)
    (hu : s.issueAt c (.rdsc rd sel) h [rd] = some (u, b)) :
    exec (.ccRdsc c h rd sel) s
      = .next (u.modCore c fun k => (k.clearSpecial sel.toNat b).withResult rd (u.special c sel.toNat b) h b) := by
  refine (if_pos hl).trans (congrArg Host.Outcome.next ((issueCc_at hu).trans ?_))
  have hpc (k : Core) : (k.clearSpecial sel.toNat b).pc = k.pc := by
    unfold Core.clearSpecial
    split_ifs <;> rfl
  simp only [State.modCore, ← withResult_eq, hpc]

/-- The registers that CC.RDSC clears: the three beat counters and the clip counters. -/
theorem selClears_iff {n : Nat} : selClears n = true ↔ n = 6 ∨ n = 7 ∨ n = 8 ∨ (16 ≤ n ∧ n ≤ 31) := by
  simp only [selClears, Bool.or_eq_true, Bool.and_eq_true, decide_eq_true_eq]
  omega

theorem clip_set {k : Core} (h : Sparse.Wf 0 k.clips) (n m : Nat) :
    ({ k with clips := sset 0 k.clips n 0 } : Core).clip m = if m = n then 0 else k.clip m := by
  by_cases hm : m = n
  · subst hm
    rw [if_pos rfl]
    exact sget_sset_same _ _ _ h
  · rw [if_neg hm]
    exact sget_sset_ne _ _ _ _ h hm

theorem clearSpecial_clip (k : Core) {sel : Nat} (h : 16 ≤ sel) (b : Nat) :
    k.clearSpecial sel b = { k with clips := sset 0 k.clips (sel - 0x10) 0 } := by
  unfold Core.clearSpecial
  rw [if_neg (by omega), if_neg (by omega), if_neg (by omega)]

section
variable {s : State} {c : CoreId} {b sel x : Nat}

/-- The special registers 0x10 to 0x1F are the clip counters. -/
theorem special_clip (h : 16 ≤ x ∧ x ≤ 31) : s.special c x b = ((s.core c).clip (x - 0x10)).zeroExtend 64 := by
  unfold State.special
  rw [if_neg (by omega), if_neg (by omega), if_neg (by omega), if_neg (by omega), if_neg (by omega), if_neg (by omega), if_neg (by omega),
    if_neg (by omega), if_neg (by omega), if_pos h]

/-- A counter whose later beats have been taken off reads zero. -/
theorem special_cleared (hw : Sparse.Wf {} s.cores) (hk : Sparse.Wf 0 (s.core c).clips) (hs : selClears sel = true) :
    (s.modCore c fun k => k.clearSpecial sel b).special c sel b = 0 := by
  have hc := core_modCore_same hw c fun k => k.clearSpecial sel b
  rcases selClears_iff.1 hs with rfl | rfl | rfl | h
  · have h0 : ((s.core c).clearSpecial 6 b).mmbusy - BitVec.ofNat 32 (((s.core c).clearSpecial 6 b).mmRest b) = 0 := BitVec.sub_self _
    exact (congrArg (fun k : Core => (k.mmbusy - BitVec.ofNat 32 (k.mmRest b)).zeroExtend 64) hc).trans (by rw [h0]; rfl)
  · have h0 : ((s.core c).clearSpecial 7 b).mmwait + BitVec.ofNat 32 (((s.core c).clearSpecial 7 b).mmWaiting b) = 0 := BitVec.sub_add_cancel _ _
    exact (congrArg (fun k : Core => (k.mmwait + BitVec.ofNat 32 (k.mmWaiting b)).zeroExtend 64) hc).trans (by rw [h0]; rfl)
  · have h0 : ((s.core c).clearSpecial 8 b).vebusy - BitVec.ofNat 32 (((s.core c).clearSpecial 8 b).veRest b) = 0 := BitVec.sub_self _
    exact (congrArg (fun k : Core => (k.vebusy - BitVec.ofNat 32 (k.veRest b)).zeroExtend 64) hc).trans (by rw [h0]; rfl)
  · rw [special_clip h, hc, clearSpecial_clip _ h.1, clip_set hk, if_pos rfl]
    rfl

/-- Clearing one special register leaves every other as it was. -/
theorem special_kept (hw : Sparse.Wf {} s.cores) (hk : Sparse.Wf 0 (s.core c).clips) (hs : selClears sel = true) (hx : x ≠ sel) :
    (s.modCore c fun k => k.clearSpecial sel b).special c x b = s.special c x b := by
  have hc := core_modCore_same hw c fun k => k.clearSpecial sel b
  rcases selClears_iff.1 hs with rfl | rfl | rfl | h
  · simp only [State.special, hc, hx, if_false]
    rfl
  · simp only [State.special, hc, hx, if_false]
    rfl
  · simp only [State.special, hc, hx, if_false]
    rfl
  · rw [clearSpecial_clip _ h.1] at hc
    by_cases hr : 16 ≤ x ∧ x ≤ 31
    · rw [special_clip hr, special_clip hr, hc, clip_set hk, if_neg (by omega)]
    · simp only [State.special, hc, hr, if_false]
      rfl

end

/-- Settles O12: the two rows issue and write RD; a clearing sets one register, whose counters of later beats cancel what a read takes off. -/
theorem specialRegisters : Obligations.SpecialRegisters := by
  refine ⟨fun c h rd sel s u b => ⟨ccRds_at, ccRdsc_at⟩, fun s c b sel x hw hk hs => ⟨special_cleared hw hk hs, special_kept hw hk hs⟩,
    fun s c b t => ⟨rfl, rfl, rfl, rfl, rfl, rfl, ?_, rfl, rfl⟩⟩
  rw [special_clip (by omega), Nat.add_sub_cancel_left]

/-! ### The scalar file (R140) and the cores at program start (R151) -/

theorem sc_setSc_same {k : Core} (hw : Sparse.Wf 0 k.scal) {n : Reg} (hn : n ≠ 0) (v : Word64) : (k.setSc n v).sc n = v := by
  have h : n.val ≠ 0 := fun h => hn (Fin.ext h)
  simpa [Core.sc, Core.setSc, h] using sget_sset_same k.scal n.val v hw

theorem sc_setSc_ne {k : Core} (hw : Sparse.Wf 0 k.scal) {n m : Reg} (hm : m ≠ n) (v : Word64) : (k.setSc n v).sc m = k.sc m := by
  unfold Core.sc Core.setSc
  by_cases hn : n.val = 0
  · simp [hn]
  · simp only [hn, if_false, sget_sset_ne k.scal n.val m.val v hw fun h => hm (Fin.ext h)]

theorem setSc_frame (k : Core) (n : Reg) (v : Word64) : { k.setSc n v with scal := k.scal } = k := by
  unfold Core.setSc
  split <;> rfl

theorem setSc_wf {k : Core} (hw : Sparse.Wf 0 k.scal) (n : Reg) (v : Word64) : Sparse.Wf 0 (k.setSc n v).scal := by
  unfold Core.setSc
  split
  · exact hw
  · exact sset_wf _ _ _ hw

/-- The copy of a core's program takes turns of LPDDR alone. -/
@[simp] theorem programTurns_cores (s : State) (im : Loaded) (c : Nat) : (s.programTurns im c).cores = s.cores :=
  foldl_proj State.cores (fun _ _ => by rfl) _ _

@[simp] theorem programTurns_lpddr (s : State) (im : Loaded) (c : Nat) : (s.programTurns im c).lpddr = s.lpddr :=
  foldl_proj State.lpddr (fun _ _ => by rfl) _ _

/-- The module with every core at its program's start. -/
def State.coresStarted (s : State) (im : Loaded) : State :=
  s.coreList.foldl (fun t c => (t.setCore c (s.startCore im c)).programTurns im c) s

theorem startRun_cores (s : State) (im : Loaded) : (s.startRun im).cores = (s.coresStarted im).cores :=
  foldl_proj State.cores (fun _ _ => by rfl) _ _

theorem coresStarted_cores (s : State) (im : Loaded) :
    (s.coresStarted im).cores = s.coreList.foldl (fun m c => sset {} m c (s.startCore im c)) s.cores :=
  (List.foldl_hom State.cores fun _ c => (programTurns_cores (State.setCore _ c _) im c).symm).symm

/-- Every enabled core starts with its program and all else cleared. -/
theorem startRun_core {s : State} (hw : Sparse.Wf {} s.cores) (im : Loaded) {c : Nat} (hc : c < s.boot.cores) :
    (s.startRun im).core c = s.startCore im c := by
  rw [State.core, startRun_cores, coresStarted_cores, sget_foldl_sset _ c _ hw]
  exact if_pos (List.mem_range.2 hc)

/-- Settles O13: reads after writes of a sparse map, with s0 apart, and the cleared scalars of a core that starts. -/
theorem scalarFile : Obligations.ScalarFile :=
  ⟨fun k n m v hw => ⟨rfl, rfl, fun hn => sc_setSc_same hw hn v, fun hm => sc_setSc_ne hw hm v, setSc_wf hw n v, setSc_frame k n v⟩,
    fun s im c n hw hc => by
      rw [startRun_core hw im hc]
      exact ite_self 0⟩

end Sys2Proof.Machine
end

section
/-! PROOFS. A core that is parked goes on, ends its program, or deadlocks (R150 to R154, R251). -/
namespace Sys2Proof.Machine

/-! ### What CORE_RESUME does for each kind of park -/

theorem execCoreResume_stream {s : State} {c : CoreId} {ns : Nat} (h : (s.core c).status = .parked .tail ∨ (s.core c).status = .parked .head) :
    execCoreResume c ns s = if (s.core c).streamReady then .next (s.modCore c fun k => k.resume ns) else .next s := by
  rcases h with h | h <;> simp only [execCoreResume, h]

theorem execCoreResume_pass {s : State} {c : CoreId} {ns i : Nat} {h : Hdr} {pc : BitVec 15} (hk : (s.core c).status = .parked (.pass i h pc)) :
    execCoreResume c ns s = if ((s.core c).pview i).o = 0
      then .next ((s.modCore c fun k => k.resume ns).endPass c i h pc (s.core c).beat (decide (((s.core c).pview i).unc ≠ 0)))
      else .next s := by
  simp only [execCoreResume, hk]

theorem execCoreResume_arrive {s : State} {c : CoreId} {ns i : Nat} {l r e : Bool} {h : Hdr} {pc : BitVec 15}
    (hk : (s.core c).status = .parked (.arrive i l r e h pc)) :
    execCoreResume c ns s = if (s.core c).mayArrive
      then .next (((s.modCore c fun k => k.resume ns).arrive c i l r pc).afterArrive c i e h pc (s.core c).beat)
      else .next s := by
  simp only [execCoreResume, hk]

theorem execCoreResume_cancel_ready {s : State} {c : CoreId} {ns ch : Nat} (hk : (s.core c).status = .parked .cancel)
    (hc : (s.core c).cancelReady = some ch) :
    execCoreResume c ns s = .next (s.modCore c fun k => (k.resume ns).lateCancel ch) := by
  simp only [execCoreResume, hk, hc]

theorem execCoreResume_cancel_waits {s : State} {c : CoreId} {ns : Nat} (hk : (s.core c).status = .parked .cancel)
    (hc : (s.core c).cancelReady = none) : execCoreResume c ns s = .next s := by
  simp only [execCoreResume, hk, hc]

/-- Settles O26, one kind of park after the other. -/
theorem parkedCoreResumes : Obligations.ParkedCoreResumes := by
  intro s c ns i l r e h pc ch k s1
  refine ⟨fun hk hr => ?_, fun hk hr => ?_, fun hk ho => ?_, fun hk ho => ?_, fun hk ha => ?_, fun hk hc => ?_, fun hk hc => ?_⟩
  · exact (execCoreResume_stream hk).trans (if_pos hr)
  · exact (execCoreResume_stream hk).trans (if_neg (by simp [k, hr]))
  · exact (execCoreResume_pass hk).trans (if_pos ho)
  · exact (execCoreResume_pass hk).trans (if_neg ho)
  · exact (execCoreResume_arrive hk).trans (if_pos ha)
  · exact execCoreResume_cancel_ready hk hc
  · exact execCoreResume_cancel_waits hk hc

/-! ### PROGRAM_END and a deadlock of Waymarks -/

/-- The end of a program leaves it the beat after its last one as its beat count, and the core without a program. -/
theorem endProgram_ended (k : Core) : k.endProgram.beats = some (k.endBeat + 1) ∧ k.endProgram.status = .none := ⟨rfl, rfl⟩

/-- Settles O27. -/
theorem programEnds : Obligations.ProgramEnds := by
  refine ⟨fun s c => ⟨fun hd hr => ?_, fun hd => ?_, endProgram_ended _⟩, fun s c hk => ⟨fun ht => ?_, fun ht => ?_⟩⟩
  · show execProgramEnd c s = _
    refine (if_pos hd).trans (if_neg ?_)
    have hr : ((s.settle c (s.core c).endBeat).core c).runs = true := hr
    simp [hr]
  · exact if_neg (by simp [hd])
  · show execWaymarkDeadlock c s = _
    refine if_pos ?_
    simp [hk, ht]
  · refine if_neg ?_
    simp [ht]

end Sys2Proof.Machine
end

section
/-! PROOFS. The step advances: LND_STEP, the Milestone, DEADLINEs and gates (R167, R168, R235 to R237, R276). -/
namespace Sys2Proof.Machine

/-- A fold of changes none of which changes the state leaves it. -/
theorem foldl_eq_self {α β : Type} {f : α → β → α} {a : α} {l : List β} (h : ∀ x ∈ l, f a x = a) : l.foldl f a = a := by
  induction l with
  | nil => rfl
  | cons x l ih =>
    rw [List.foldl_cons, h x (by simp)]
    exact ih fun y hy => h y (by simp [hy])

/-! ### The end of a step in which nothing is sent -/

/-- No port is trained or READY: a step's end puts nothing on the links. -/
def State.PortsQuiet (s : State) : Prop := ∀ q < 4, (s.port q).trained = false ∧ (s.port q).st ≠ .ready

theorem countFec_quiet {s : State} (h : s.PortsQuiet) : s.countFec = s :=
  foldl_eq_self fun q hq => if_neg (by simp [(h q (List.mem_range.mp hq)).1])

theorem feedPort_not_ready {s : State} {q : Nat} (h : (s.port q).st ≠ .ready) : s.feedPort q = s := by
  unfold State.feedPort
  cases s.links.plan with
  | none => rfl
  | some pl => exact if_neg h

theorem portFrame_untrained {s : State} {q : Nat} (h : (s.port q).trained = false) (ms : Nat) : s.portFrame ms q = s :=
  if_neg (by simp [h])

theorem portFrames_quiet {s : State} (h : s.PortsQuiet) (ms : Nat) : s.portFrames ms = s := by
  refine foldl_eq_self fun q hq => ?_
  obtain ⟨ht, hr⟩ := h q (List.mem_range.mp hq)
  rw [feedPort_not_ready hr, portFrame_untrained ht, ite_self]

theorem nextStep_quiet {s : State} (h : s.PortsQuiet) : s.nextStep = { s with ring := { s.ring with ms := s.ring.ms + 1 } } := by
  rw [State.nextStep, countFec_quiet h, portFrames_quiet h]

theorem repeatWords_none {s : State} (hs : s.run.stopLeft = 0) (hd : s.run.declLeft = 0) (hw : s.run.words = []) (hr : s.runHolds = false) :
    s.repeatWords = s := by
  simp [State.repeatWords, hs, hd, hw, hr]

theorem queueLost_none {s : State} (h : s.err.lostOwed = false) : s.queueLost = s := if_neg (by simp [h])

/-! ### Lateness is not told of a layer with a step timeout -/

theorem lateCore_not_timedOut {s : State} {c n : Nat} (h : s.lateCore = some (c, n)) : s.layerTimedOut n = false := by
  unfold State.lateCore at h
  cases hi : s.runImage with
  | none => simp [hi] at h
  | some im =>
    obtain ⟨d, -, hd⟩ := List.exists_of_findSome?_eq_some (hi ▸ h)
    simp only [Option.map_eq_some_iff, Option.filter_eq_some_iff, Prod.mk.injEq] at hd
    obtain ⟨m, ⟨-, hm⟩, -, rfl⟩ := hd
    simpa using hm

theorem lateCores_not_timedOut {s : State} {p c n : Nat} {pc : BitVec 15} (h : (c, n, pc) ∈ s.lateCores p) :
    s.layerTimedOut (s.core c).layer = false := by
  obtain ⟨i, -, hi⟩ := List.mem_filterMap.mp h
  dsimp only at hi
  split at hi
  · cases hi
  · next hl =>
    obtain ⟨x, -, hx⟩ := Option.map_eq_some_iff.mp hi
    obtain ⟨rfl, rfl⟩ := Prod.mk.inj hx
    simp only [Bool.or_eq_true, not_or, Bool.not_eq_true] at hl
    exact hl.2

theorem scheduleOverrun_late {s : State} {c n : Nat} (hr : s.runInStep = true) (h : s.lateCore = some (c, n)) :
    execScheduleOverrun s = .next (s.raise
      { code := 0x0201, unit := s.coreUnit c, ctx := BitVec.ofNat 8 s.run.ctx.val, layer := BitVec.ofNat 16 n, a1 := 0 }) := by
  simp only [execScheduleOverrun, hr, h, if_true]

theorem scheduleOverrun_none {s : State} (h : s.lateCore = none) : execScheduleOverrun s = .next s := by
  simp only [execScheduleOverrun, h, ite_self]

theorem gateMiss_none {s : State} {p : Fin 16} (h : s.lateCores p = []) : execGateMiss p s = .next s := by
  simp only [execGateMiss, h, ite_self]

theorem gateMiss_late {s : State} {p : Fin 16} {c n : Nat} {pc : BitVec 15} {r : List (Nat × Nat × BitVec 15)} (hr : s.runInStep = true)
    (h : s.lateCores p = (c, n, pc) :: r) :
    execGateMiss p s = .next (((((c, n, pc) :: r).foldl (fun s x => s.modCore x.1 fun k => k.noteStream x.2.1 0xD x.2.2) s).modPart p fun x =>
        { x with ovr := sat32 x.ovr 1, missed := ((c, n, pc) :: r).map (·.1) ++ x.missed }).raise
      { code := 0x0201, unit := BitVec.ofNat 32 (0x20000000 + physPart s.boot.enabled p), ctx := BitVec.ofNat 8 s.run.ctx.val
        layer := BitVec.ofNat 16 (s.core c).layer, a1 := 1 }) := by
  simp only [execGateMiss, hr, h, if_true]

/-- The condition of LND_STEP_ADVANCE as the four conditions that it joins. -/
theorem lndStepAdvance_eq (s : State) (p : Fin 16) : execLndStepAdvance p s =
    if s.runHolds = true ∧ p.val < s.nparts ∧ (s.part p).step + 1 ≤ s.schedStep ∧ s.landingMissing p ((s.part p).step + 1) = false
    then .next (s.modPart p fun x => { x with step := (s.part p).step + 1 }) else .next s := by
  simp only [execLndStepAdvance, Bool.and_eq_true, decide_eq_true_eq, Bool.not_eq_true', and_assoc]

/-- Settles O29. -/
theorem stepsAdvance : Obligations.StepsAdvance := by
  refine ⟨fun s p => ⟨fun hr hp hv hm => ?advance, fun h => ?stay, fun ha => ⟨if_pos ha, rfl⟩, fun ha => if_neg (by simp [ha]),
    fun ha hs hd hw hr hl hq => ?quiet⟩,
    fun s p c n ch pc r hr => ⟨fun h => ?_, fun h => scheduleOverrun_none h, fun h => ?_, fun h => gateMiss_none h⟩⟩
  case advance => exact (lndStepAdvance_eq s p).trans (if_pos ⟨hr, hp, hv, hm⟩)
  case stay => exact (lndStepAdvance_eq s p).trans (if_neg h)
  case quiet =>
    refine (if_pos ha).trans (congrArg _ ?_)
    have hrun : s.nextStep.run = s.run := by rw [nextStep_quiet hq]
    have herr : s.nextStep.err = s.err := by rw [nextStep_quiet hq]
    have hw : s.nextStep.repeatWords = s.nextStep :=
      repeatWords_none (by rwa [hrun]) (by rwa [hrun]) (by rwa [hrun]) (by rwa [State.runHolds, hrun])
    rw [hw, queueLost_none (by rwa [herr])]
    exact nextStep_quiet hq
  · exact ⟨lateCore_not_timedOut h, scheduleOverrun_late hr h⟩
  · exact ⟨lateCores_not_timedOut (h ▸ List.mem_cons_self), gateMiss_late hr h⟩

end Sys2Proof.Machine
end

section
/-! PROOFS. The start of a run at Milestone B, and its end (R151, R365, R366, R391, R424, R456). -/
namespace Sys2Proof.Machine

/-! ### RUN_START by the phase of the agreement -/

section
variable {s : State}

theorem runStart_go {im : Loaded} (hb : s.run.b ≤ s.ring.ms) (hp : s.run.phase = .go) (hi : s.runImage = some im) :
    execRunStart s = .next (if s.creditsBack then s.startRun im else s) := by
  simp only [execRunStart, if_neg (Nat.not_lt.mpr hb), hp, hi]

theorem runStart_no_go (hb : s.run.b ≤ s.ring.ms) (hp : s.run.phase = .fixed ∨ s.run.phase = .bound) :
    execRunStart s = .next (s.stopAll 0 s.myPos s.myIdx 0) := by
  rcases hp with hp | hp <;> simp only [execRunStart, if_neg (Nat.not_lt.mpr hb), hp]

/-- The credits of the module are back when no channel of an enabled core awaits a fill or keeps a slot of an earlier program (R456). -/
theorem creditsBack_iff : s.creditsBack = true ↔
    ∀ c ∈ s.coreList, ∀ n < 6, ((s.core c).chan n).fills = [] ∧ ∀ w ∈ ((s.core c).chan n).outs, w.old = none := by
  simp only [State.creditsBack, List.all_eq_true, List.mem_range, Bool.and_eq_true, List.isEmpty_iff, Option.isNone_iff_eq_none]

/-! ### What a start leaves beside the cores -/

theorem coresStarted_lpddr (im : Loaded) : (s.coresStarted im).lpddr = s.lpddr :=
  foldl_proj State.lpddr (fun _ _ => by rw [programTurns_lpddr]; rfl) _ _

theorem startRun_lpddr (im : Loaded) : (s.startRun im).lpddr = s.lpddr :=
  (foldl_proj State.lpddr (fun _ _ => by rfl) _ _).trans (coresStarted_lpddr im)

theorem startRun_passes (im : Loaded) : (s.startRun im).passes = [] := foldl_proj State.passes (fun _ _ => by rfl) _ _

theorem startRun_run (im : Loaded) : (s.startRun im).run = { (s.coresStarted im).run with phase := .running, words := [], started := true } :=
  foldl_proj State.run (fun _ _ => by rfl) _ _

theorem startRun_lpd_run (im : Loaded) : (s.startRun im).lpd.run = true := foldl_proj (fun s => s.lpd.run) (fun _ _ => by rfl) _ _

theorem startRun_matched (im : Loaded) : (s.startRun im).ring.matched = [] := foldl_proj (fun s => s.ring.matched) (fun _ _ => by rfl) _ _

theorem startRun_timedOut (im : Loaded) : (s.startRun im).ring.timedOut = [] := foldl_proj (fun s => s.ring.timedOut) (fun _ _ => by rfl) _ _

/-- A core without data blocks copies its code blob alone. -/
theorem programTurns_code {im : Loaded} {c n d off len : Nat} (hm : im.map.getD c (0, 0, 0) = (n, d, 0))
    (hc : im.codes.getD n (0, 0) = (off, len)) : s.programTurns im c = s.useTurns .remote (im.at_ + off) (8 * len) := by
  simp only [State.programTurns, hm, hc]
  rfl

/-! ### RUN_END -/

theorem runEnd_ended (hr : s.runHolds = true) (he : ∀ c ∈ s.coreList, (s.core c).ended = true) :
    execRunEnd s = .next ((s.unpinRun.jobEnded).finishRun 0 0 0 s.maxBeats) :=
  if_pos (by simpa [hr] using he)

theorem runEnd_stopped (hr : s.runHolds = false) (hs : s.run.stopped = true) (hl : s.run.stopLeft = 0) (hn : s.stopRecorded = false) :
    execRunEnd s = .next s.completeStopped :=
  (if_neg (by simp [hr])).trans (if_pos (by simp [hs, hl, hn]))

theorem runEnd_goes_on (he : ∃ c ∈ s.coreList, (s.core c).ended = false) (hs : s.run.stopped = false) : execRunEnd s = .next s :=
  (if_neg (by simpa using fun _ => he)).trans (if_neg (by simp [hs]))

end

/-- Settles O37. -/
theorem runStartsAndEnds : Obligations.RunStartsAndEnds := by
  intro s im
  refine ⟨fun hb hp hi => ⟨fun hc => ?_, fun hc => ?_⟩, runStart_no_go, fun hb => if_pos hb, fun hw c hc => ?_,
    ⟨startRun_passes im, ?_, ?_, startRun_matched im, startRun_timedOut im, startRun_lpd_run im, startRun_lpddr im⟩,
    fun c n d off len => programTurns_code, creditsBack_iff, runEnd_ended, fun hr hs hl hn => ?_,
    fun _ he hs => ?_⟩
  · exact (runStart_go hb hp hi).trans (congrArg _ (if_pos hc))
  · exact (runStart_go hb hp hi).trans (congrArg _ (if_neg (by simp [hc])))
  · simp only [startRun_core hw im hc, State.startCore, and_self]
  · rw [startRun_run]
  · rw [startRun_run]
  · exact runEnd_stopped hr hs hl hn
  · exact runEnd_goes_on he hs

end Sys2Proof.Machine
end

section
/-! PROOFS. The commands of an image and of a binding (R165, R284, R364, R422), and the commands of mailbox 0 (R159, R160, R425). -/
namespace Sys2Proof.Machine

section
variable {s : State} {m : MbxId} {j : Job}

/-! ### An image and its binding -/

/-- A command of an open context acts on the module that has taken its entry. -/
theorem openCmd_starts {opc : Nat} {named : List (Nat × Nat)} {ok : List Byte → Bool} {f : Job → State → State}
    (h : s.startsOpen m opc named j) (hk : knownOpc opc = true) (ha : ok j.args = true) :
    s.startCmd m ⟨opc, .context, named, ok⟩ anyArgs (fun s j => s.needOpen j (f j)) = f j (s.takeEntry m) :=
  (startCmd_starts (d := ⟨opc, .context, named, ok⟩) h.1 hk rfl ha).trans (needOpen_open h.2)

theorem loadImage_starts (h : s.startsOpen m 0x0010 [(0, 32)] j) :
    let t := s.takeEntry m
    let a := j.imageArgs
    let sz := (s.ctx j.ctx.toNat).imgsize
    let r := imageCheck1 (s.imageBytes j) (s.jobImage j) a.2.1
    exec (.loadImage m) s = .next (if sz < a.1 + a.2.1 ∨ sz < a.2.2.1 + a.2.2.2 then t.putCompletion j 3 0x40 []
      else if r ≠ 0 then t.putCompletion j 1 r [] else t.pushJob { j with phase := .imgDigest }) :=
  congrArg _ (openCmd_starts (ok := noArgs) h (by decide) rfl)

theorem unloadImage_starts (h : s.startsOpen m 0x0011 [] j) :
    let t := s.takeEntry m
    let x := j.ctx.toNat
    exec (.unloadImage m) s = .next (if s.batchOf x then t.putCompletion j 7 0x45 []
      else if (s.ctx x).loaded.isNone then t.putCompletion j 7 0x49 []
      else (t.modCtx x fun k => { k with loaded := none, next := none }).putCompletion j 0 0 []) :=
  congrArg _ (openCmd_starts (ok := noArgs) h (by decide) rfl)

/-- BIND of a loaded image: a running batch, and then what the binding asks for, refuse it. -/
theorem bind_starts {im : Loaded} (h : s.startsOpen m 0x0012 [(0, 2)] j) (hl : (s.ctx j.ctx.toNat).loaded = some im) :
    let t := s.takeEntry m
    let x := j.ctx.toNat
    exec (.bind m) s = .next (if s.batchOf x then t.putCompletion j 7 0x45 []
      else if s.bindCheck im (leAt j.args 0 2) ≠ 0 then t.putCompletion j 1 (s.bindCheck im (leAt j.args 0 2)) []
      else (t.modCtx x fun k => { k with tag := some (BitVec.ofNat 12 (leAt j.args 0 2)) }).putCompletion j 0 0 []) := by
  refine congrArg _ ((openCmd_starts (ok := noArgs) h (by decide) rfl).trans ?_)
  simp only [takeEntry_ctx, hl]
  rfl

theorem unbind_starts (h : s.startsOpen m 0x0013 [] j) :
    let t := s.takeEntry m
    let x := j.ctx.toNat
    exec (.unbind m) s = .next (if s.batchOf x then t.putCompletion j 7 0x45 []
      else (t.modCtx x fun k => { k with tag := none }).putCompletion j 0 0 []) :=
  congrArg _ (openCmd_starts (ok := noArgs) h (by decide) rfl)

end

/-- Settles O41. -/
theorem imageCommands : Obligations.ImageCommands := by
  intro s m j im t x a
  have in_range (h1 : a.1 + a.2.1 ≤ (s.ctx x).imgsize) (h2 : a.2.2.1 + a.2.2.2 ≤ (s.ctx x).imgsize) :
      ¬ ((s.ctx x).imgsize < a.1 + a.2.1 ∨ (s.ctx x).imgsize < a.2.2.1 + a.2.2.2) := by omega
  refine ⟨fun h hi hp => ⟨fun hr => ?_, fun r hr hn => ?_⟩, fun h hi => ?_, fun h hb hl => ?_, fun h hl hb hc => ?_, fun h hb => ?_,
    fun h hb => ?_⟩
  · refine (loadImage_starts h).trans (congrArg _ ?_)
    rw [if_neg (in_range hi hp), if_neg (not_not.mpr hr)]
    rfl
  · subst hr
    refine (loadImage_starts h).trans (congrArg _ ?_)
    rw [if_neg (in_range hi hp), if_pos hn]
  · refine (loadImage_starts h).trans (congrArg _ ?_)
    exact if_pos (Or.inl hi)
  · refine (unloadImage_starts h).trans (congrArg _ ?_)
    rw [if_neg (by simp [x, hb]), if_neg (by simp [x, hl])]
  · refine (bind_starts h hl).trans (congrArg _ ?_)
    rw [if_neg (by simp [x, hb]), if_neg (not_not.mpr hc)]
  · refine (unbind_starts h).trans (congrArg _ ?_)
    exact if_neg (by simp [x, hb])
  · refine (unbind_starts h).trans (congrArg _ ?_)
    exact if_pos hb

/-! ### The commands of mailbox 0 -/

section
variable {s : State} {m : MbxId} {j : Job}

theorem setStrict_starts (h : s.starts m 0x0050 .admin [] j) :
    exec (.setStrict m) s = .next (State.putCompletion { s.takeEntry m with boot := { s.boot with strict := true } } j 0 0 []) :=
  congrArg _ (startCmd_starts (d := ⟨0x0050, .admin, [], noArgs⟩) h (by decide) rfl rfl)

theorem armMailbox_starts (h : s.starts m 0x0060 .admin [(0, 2), (8, 8)] j) (h1 : 1 ≤ leAt j.args 0 1) (h15 : leAt j.args 0 1 ≤ 15)
    (he : leAt j.args 1 1 ≤ 1) :
    let t := s.takeEntry m
    let n := leAt j.args 0 1
    exec (.armMailbox m) s = .next (if (t.mbox n).armed ∨ t.inprog n ≠ 0 then t.putCompletion j 7 0x41 []
      else (t.modMbox n fun _ => { armed := true, expert := bitOf (leAt j.args 1 1) 0 && s.host.expert
                                   mask := BitVec.ofNat 64 (leAt j.args 8 8) }).putCompletion j 0 0 []) :=
  congrArg _ (startCmd_starts (d := ⟨0x0060, .admin, [(0, 2), (8, 8)], fun a => decide (1 ≤ leAt a 0 1) && decide (leAt a 0 1 ≤ 15)
    && decide (leAt a 1 1 ≤ 1)⟩) h (by decide) rfl (by simp [h1, h15, he]))

theorem ofNat16_val {n : Nat} (h : n ≤ 15) : (Fin.ofNat 16 n).val = n := Nat.mod_eq_of_lt (by omega)

theorem disarmMailbox_starts (h : s.starts m 0x0061 .admin [(0, 1)] j) (h1 : 1 ≤ leAt j.args 0 1) (h15 : leAt j.args 0 1 ≤ 15) :
    let t := s.takeEntry m
    let n := leAt j.args 0 1
    let d : MbxId := Fin.ofNat 16 n
    exec (.disarmMailbox m) s = .next (if (t.mbox n).armed = false then t.putCompletion j 7 0x41 []
      else ((State.abortQueued 256 d (t.modMbox n fun x => { x with armed := false })).pushJob
        { j with phase := .disarming d }).disarmDone d) := by
  refine congrArg _ ((startCmd_starts (d := ⟨0x0061, .admin, [(0, 1)], fun a => decide (1 ≤ leAt a 0 1) && decide (leAt a 0 1 ≤ 15)⟩) h
    (by decide) rfl (by simp [h1, h15])).trans ?_)
  simp only [ofNat16_val h15, Bool.not_eq_true']
  rfl

theorem setPolicy_starts (h : s.starts m 0x0062 .admin [(0, 1)] j) (hn : leAt j.args 0 1 < 4) :
    let t := s.takeEntry m
    let e := bitOf (leAt j.args 0 1) 0
    let u : State := { t with host := { t.host with expert := e, lock := bitOf (leAt j.args 0 1) 1 } }
    exec (.setPolicy m) s = .next (if s.host.lock then t.putCompletion j 7 0x47 []
      else (if e then u else (List.range 16).foldl (fun s m => s.modMbox m fun x => { x with expert := false }) u).putCompletion j 0 0 []) :=
  congrArg _ (startCmd_starts (d := ⟨0x0062, .admin, [(0, 1)], fun a => decide (leAt a 0 1 < 4)⟩) h (by decide) rfl (by simp [hn]))

end

/-- Withdrawing the grant of the expert level from some mailboxes, one after the other. -/
def State.withdrawExpert (s : State) (l : List Nat) : State := l.foldl (fun s m => s.modMbox m fun x => { x with expert := false }) s

theorem withdrawExpert_host (s : State) (l : List Nat) : (s.withdrawExpert l).host = s.host :=
  foldl_proj State.host (fun _ _ => by rfl) l s

theorem mboxFix_expert (m : Nat) (x : Mbx) : (mboxFix m x).expert = x.expert := by
  unfold mboxFix
  split <;> rfl

/-- A change of one mailbox, as its grant of the expert level sees it. -/
theorem modMbox_expert {s : State} (hs : Sparse.Wf {} s.mbx) (k n : Nat) (f : Mbx → Mbx) :
    ((s.modMbox k f).mbox n).expert = if n = k then (f (s.mbox k)).expert else (s.mbox n).expert := by
  split
  · next h =>
    subst h
    rw [State.mbox, State.modMbox_mbx, sget_sset_same _ _ _ hs, mboxFix_expert, mboxFix_expert]
  · next h => rw [State.mbox, State.modMbox_mbx, sget_sset_ne _ _ _ _ hs h, State.mbox]

/-- A mailbox without the grant stays so; one of those named loses it. -/
theorem withdrawExpert_mbox (l : List Nat) : ∀ {s : State}, Sparse.Wf {} s.mbx → ∀ n, (n ∈ l ∨ (s.mbox n).expert = false) →
    ((s.withdrawExpert l).mbox n).expert = false := by
  induction l with
  | nil => exact fun _ n hn => hn.resolve_left List.not_mem_nil
  | cons k l ih =>
    intro s hs n hn
    refine ih (s := s.modMbox k fun x => { x with expert := false }) (sset_wf _ _ _ hs) n ?_
    rw [modMbox_expert hs]
    by_cases hk : n = k
    · simp [hk]
    · simpa [hk] using hn

/-- Settles O44. -/
theorem adminCommands : Obligations.AdminCommands := by
  intro s m j t n
  refine ⟨setStrict_starts, fun h h1 h15 he ha hi => ?_, fun h h1 h15 ha => ?_, fun h hn hl hb => ?_,
    fun h hn hl hb => ⟨?_, fun i => ⟨?_, fun hw => ?_⟩⟩, fun h h1 h15 he hx => ?_, fun h h1 h15 ha => ?_, fun h hn hl => ?_⟩
  · refine (armMailbox_starts h h1 h15 he).trans (congrArg _ (if_neg ?_))
    simp [t, n, ha, hi]
  · refine (disarmMailbox_starts h h1 h15).trans (congrArg _ (if_neg ?_))
    simp [t, n, ha]
  · refine (setPolicy_starts h hn).trans (congrArg _ ?_)
    simp only [n] at hb
    simp [t, n, hl, hb]
  · refine (setPolicy_starts h hn).trans (congrArg _ ?_)
    simp only [n] at hb
    simp [t, n, hl, hb]
  · refine Bool.and_eq_false_iff.mpr (Or.inl ?_)
    exact congrArg (·.expert) (withdrawExpert_host _ _)
  · refine withdrawExpert_mbox _ (sset_wf _ _ _ hw) _ (Or.inl ?_)
    exact List.mem_range.mpr i.isLt
  · exact (armMailbox_starts h h1 h15 he).trans (congrArg _ (if_pos hx))
  · exact (disarmMailbox_starts h h1 h15).trans (congrArg _ (if_pos ha))
  · exact (setPolicy_starts h hn).trans (congrArg _ (if_pos hl))

end Sys2Proof.Machine
end

section
/-! PROOFS. The slots that a core hands over (R197, R224, R229, R283, R369, R385, R456), the events of an edition (R198, R310, R314, R325 to R330,
R368, R451, R468, R490, R496), and the state after reset (R192, R246, R283, R306, R391, R409, R425, R454). -/
namespace Sys2Proof.Machine

/-! ### A granule's way into a send slot or LPDDR -/

section
variable {y : SendSlot} {ms off : Nat} {d : List Byte}

/-- With nothing held, no write of an earlier step is still to take effect. -/
theorem SendSlot.settle_of_late_nil (h : y.late = []) : y.settle ms = y := by
  cases y
  subst h
  rfl

theorem SendSlot.sent_valid_of_late_nil (h : y.late = []) : y.sent.valid = 0 := by
  simp only [SendSlot.sent, h, List.foldl_nil]

theorem SendSlot.put_valid (y : SendSlot) (off : Nat) (d : List Byte) :
    (y.put off d).valid.getLsbD (off / 64) = decide (off / 64 < 4096) := by
  simp only [SendSlot.put, BitVec.getLsbD_or, BitVec.getLsbD_ofNat, Nat.testBit_two_pow_self, Bool.and_true]
  by_cases h : off / 64 < 4096
  · simp [h]
  · simp [h, BitVec.getLsbD_of_ge _ _ (Nat.le_of_not_lt h)]

theorem SendSlot.take_of_late_nil (h : y.late = []) (hold : Bool) :
    y.take ms hold off d = if hold then { y with late := [(ms, off, d)] } else y.put off d := by
  simp only [SendSlot.take, SendSlot.settle_of_late_nil h, h, List.nil_append]

end

/-- Confined granules change LPDDR nowhere. -/
theorem noteConf_lpddr (s : State) (l : List Nat) : (s.noteConf l).lpddr = s.lpddr := by
  unfold State.noteConf
  split <;> rfl

section
variable {s : State} {p : Nat} {d : List Byte}

theorem writeGranule_lpddr (hp : p / 2 ^ 44 = 2) :
    s.writeGranule p d = if inRanges s.writeRanges (p % 2 ^ 44) 64 then { s with lpddr := wrBytes s.lpddr (p % 2 ^ 44) d }
      else s.noteConf [p % 2 ^ 44] := if_pos hp

theorem writeGranule_send (hp : p / 2 ^ 44 ≠ 2) :
    s.writeGranule p d = s.modSendSlot (sendPlace p).1 (sendPlace p).2.1 fun y =>
      y.take s.ring.ms (s.sendDue (sendPlace p).1 (sendPlace p).2.1) (sendPlace p).2.2 d := if_neg hp

end

/-! ### OUTBOUND_SLOT_SENT -/

section
variable {s : State} {c : CoreId} {o : Fin 2} {w : OutSlot} {r : List OutSlot}

/-- A slot of a core that was not reset since: it stays where it is on a halt or after a stop, and else goes out. -/
theorem outboundSlotSent_current (ho : ((s.core c).chan (4 + o.val)).outs = w :: r) (hw : w.old = none) :
    let k := s.core c
    let x := k.chan (4 + o.val)
    exec (.outboundSlotSent c o) s = if k.status = .halted ∨ s.runHolds = false then .next s else .next
      ((w.grains.foldl (fun s g => s.writeGranule g.1 (k.slotBytes (4 + o.val) x.geo (x.ringSlot w.n) g.2 64)) (s.outTurns w)).modCore c fun k =>
        k.modChan (4 + o.val) fun x => { x with outs := r, f := x.f + 1 }) := by
  show execOutboundSlotSent c o s = _
  simp only [execOutboundSlotSent, ho, hw]

/-- A slot that its core's reset has left behind: what it held then goes out, and no pointer moves. -/
theorem outboundSlotSent_old {g : BitVec 4} {data : List (List Byte)} (ho : ((s.core c).chan (4 + o.val)).outs = w :: r)
    (hw : w.old = some (g, data)) :
    exec (.outboundSlotSent c o) s = .next
      (((w.grains.zip data).foldl (fun s e => s.writeGranule e.1.1 e.2) (s.outTurns w)).modCore c fun k =>
        k.modChan (4 + o.val) fun x => { x with outs := r }) := by
  show execOutboundSlotSent c o s = _
  simp only [execOutboundSlotSent, ho, hw]

end

/-- Settles O25: a slot by whether its core was reset since, a granule by its region and the ranges, and a send slot by whether its send is to come. -/
theorem outboundSlots : Obligations.OutboundSlots := by
  intro s c o w r p d g data k x grains s0
  refine ⟨fun ho hw hk hr => ?_, fun ho hw hh => ?_, outboundSlotSent_old, fun hp hi => ?_, fun hp hi => ?_, writeGranule_send,
    fun y ms off hy => ⟨?_, ?_, ?_, SendSlot.sent_valid_of_late_nil hy⟩⟩
  · exact (outboundSlotSent_current ho hw).trans (if_neg (by simp [hk, hr]))
  · exact (outboundSlotSent_current ho hw).trans (if_pos hh)
  · exact (writeGranule_lpddr hp).trans (if_pos hi)
  · rw [writeGranule_lpddr hp, if_neg (Bool.eq_false_iff.1 hi), noteConf_lpddr]
  · rw [SendSlot.take_of_late_nil hy]
    exact SendSlot.put_valid y off d
  · rw [SendSlot.take_of_late_nil hy]
    rfl
  · rw [SendSlot.take_of_late_nil hy]
    rfl

/-! ### A pending edition -/

section
variable {s : State} {x : CtxId} {e : Nat}

theorem editionSwitch_early (hp : (s.ctx x).slotIn .pending = some e) (ht : s.ring.ms < (s.ctx x).at_) :
    exec (.editionSwitch x) s = .next s := by
  show execEditionSwitch x s = _
  simp only [execEditionSwitch, hp]
  exact if_pos ht

/-- The slot's moment has come: a damaged slot goes back to VERIFIED, any other becomes LIVE. -/
theorem editionSwitch_due (hp : (s.ctx x).slotIn .pending = some e) (ht : (s.ctx x).at_ ≤ s.ring.ms) :
    let k := s.ctx x
    let s1 := s.modCtx x fun k => { k with at_ := 0, atKeep := false }
    exec (.editionSwitch x) s = if (k.slot e).dmg then .next
      (((s1.modSlot x e fun y => { y with st := .verified }).notify 0x0004 (some x.val)
        ([BitVec.ofNat 8 e, 0, 0, 0] ++ leBytes 4 (k.slot e).edition.toNat)).logEvent
          { code := 0x0503, ctx := BitVec.ofNat 8 x.val, a0 := BitVec.ofNat 32 e, a1 := (k.slot e).edition })
    else .next (s1.makeLive x e k.atKeep true) := by
  show execEditionSwitch x s = _
  simp only [execEditionSwitch, hp]
  exact if_neg (Nat.not_lt.2 ht)

end

/-! ### The scrubber -/

/-- PERIOD has passed: a rotation that is still in progress is late, else the next one starts. -/
theorem scrubRotation_serving {s : State} (hr : s.boot.ready = true) (hh : s.boot.halt = false) :
    exec .scrubRotation s = if s.scrub.run then .next (({ s with scrub := { s.scrub with late := true, due := true } }).logEvent
      { code := 0x0502, a0 := BitVec.ofNat 32 (s.scrub.ctx + 256 * s.scrub.slot) }) else .next s.startRotation :=
  if_neg (by simp [hr, hh])

theorem lanesFree_iff {s : State} : s.jobs.any Job.takesLanes = false ↔ ∀ i ∈ s.jobs, i.takesLanes = false := by
  simp [List.any_eq_false]

/-- The digest of an item that the rotation still scrubs. -/
theorem scrubDigestDone_item {s : State} {it : Nat × Nat × Nat × Word32} {l : List (Nat × Nat × Nat × Word32)} (hr : s.scrub.run = true)
    (ht : s.scrub.todo = it :: l) (hs : s.scrubs it = true) (hl : s.jobs.any Job.takesLanes = false) :
    let t := State.readItem { s with scrub := { s.scrub with todo := l } } it.1 it.2.1 it.2.2.1
    exec .scrubDigestDone s = .next (State.scrubDue (State.scrubNext (if s.digestHolds it.1 it.2.1 it.2.2.1 then t
      else ({ t with scrub := { t.scrub with err := sat32 t.scrub.err 1 } }).damage it.1 it.2.1 it.2.2.1))) := by
  show execScrubDigestDone s = _
  have hg : (s.scrub.run && !s.jobs.any Job.takesLanes) = true := by rw [hr, hl]; rfl
  rw [execScrubDigestDone, hg, ht]
  simp only [hs, if_true, Bool.true_and]
  cases s.digestHolds it.1 it.2.1 it.2.2.1 <;> rfl

/-- No digest of the scrubber, of a re-digest or of a load ends while REGEN_IDENTITY has the lanes (R490). -/
theorem digests_wait {s : State} (h : s.jobs.any Job.takesLanes = true) :
    exec .scrubDigestDone s = .next s ∧ exec .redigestDone s = .next s ∧ exec .loadDigestDone s = .next s := by
  refine ⟨?_, ?_, if_pos (by simp [State.lanesBusy, h])⟩
  · show execScrubDigestDone s = _
    simp only [execScrubDigestDone, h, Bool.not_true, Bool.and_false]
  · show execRedigestDone s = _
    unfold execRedigestDone
    split
    · rfl
    · exact if_pos h

/-! ### What is left of a rotation when a slot is released -/

section
variable {s : State}

/-- The scrubber turns to an item of its rotation, past those that it no longer scrubs. -/
theorem scrubNext_todo_sub : s.scrubNext.scrub.todo ⊆ s.scrub.todo := by
  unfold State.scrubNext
  split
  next x e i ed l h => exact h ▸ (List.dropWhile_sublist _).subset
  · exact List.nil_subset _

theorem scrubNext_due : s.scrubNext.scrub.due = s.scrub.due := by
  unfold State.scrubNext
  split <;> rfl

theorem scrubNext_ends (h : s.scrub.todo = []) :
    s.scrubNext = { s with scrub := { s.scrub with todo := [], run := false, cnt := s.scrub.cnt + 1 } } := by
  simp only [State.scrubNext, h, List.dropWhile_nil]

/-- No rotation follows at once when none has become due. -/
theorem scrubDue_of_not_due (h : s.scrub.due = false) : s.scrubDue = s := if_neg (by simp [h])

/-- The rotation without the items of one slot. -/
def State.scrubWithout (s : State) (x e : Nat) : State :=
  { s with scrub := { s.scrub with todo := s.scrub.todo.filter fun it => decide (it.1 ≠ x) || decide (it.2.1 ≠ e) } }

theorem scrubDrop_of_not_due (x e : Nat) (h : s.scrub.due = false) :
    s.scrubDrop x e = if s.scrub.run then (s.scrubWithout x e).scrubNext else s.scrubWithout x e := by
  have hd : (s.scrubWithout x e).scrubNext.scrub.due = false := scrubNext_due.trans h
  exact congrArg (fun t => if s.scrub.run then t else s.scrubWithout x e) (scrubDue_of_not_due hd)

theorem mem_scrubWithout {x e : Nat} {i : Nat × Nat × Nat × Word32} :
    i ∈ (s.scrubWithout x e).scrub.todo ↔ i ∈ s.scrub.todo ∧ ¬ (i.1 = x ∧ i.2.1 = e) := by
  simp only [State.scrubWithout, List.mem_filter, Bool.or_eq_true, decide_eq_true_iff, ne_eq, Decidable.not_and_iff_or_not]

theorem scrubDrop_todo {x e : Nat} {i : Nat × Nat × Nat × Word32} (h : s.scrub.due = false) (hi : i ∈ (s.scrubDrop x e).scrub.todo) :
    i ∈ s.scrub.todo ∧ ¬ (i.1 = x ∧ i.2.1 = e) := by
  rw [scrubDrop_of_not_due x e h] at hi
  refine mem_scrubWithout.1 ?_
  split at hi
  · exact scrubNext_todo_sub hi
  · exact hi

/-- The release of the slot that holds every item left ends the rotation. -/
theorem scrubDrop_ends {x e : Nat} (hr : s.scrub.run = true) (hd : s.scrub.due = false)
    (h : ∀ i ∈ s.scrub.todo, i.1 = x ∧ i.2.1 = e) :
    (s.scrubDrop x e).scrub.run = false ∧ (s.scrubDrop x e).scrub.cnt = s.scrub.cnt + 1 := by
  have hn : (s.scrubWithout x e).scrub.todo = [] :=
    List.eq_nil_iff_forall_not_mem.2 fun i hi => (mem_scrubWithout.1 hi).2 (h i (mem_scrubWithout.1 hi).1)
  rw [scrubDrop_of_not_due x e hd, if_pos hr, scrubNext_ends hn]
  exact ⟨rfl, rfl⟩

end

/-! ### Damage and re-digests -/

section
variable {s : State}

/-- The handling of the record marks a slot that still holds the edition. -/
theorem markDamage_held {x e n : Nat} {ed : Word32} (hs : ((s.ctx x).slot e).st.scrubbed = true) (he : ((s.ctx x).slot e).edition = ed) :
    s.markDamage x e (some n) ed = (s.modSlot x e fun z => { z with
      dmg := true, bad := if n ∈ z.bad then z.bad else insertSorted n z.bad }).notify 0x0006 (some x)
        ([BitVec.ofNat 8 e, 0] ++ leBytes 2 n ++ leBytes 4 ed.toNat) := if_pos ⟨hs, he⟩

theorem redigestDone_homeless {d : Redigest} {r : List Redigest} (hr : s.redigests = d :: r) (hl : s.jobs.any Job.takesLanes = false)
    (hf : s.failedShards d = none) : exec .redigestDone s = .next { s with redigests := r } := by
  show execRedigestDone s = _
  simp only [execRedigestDone, hr, hl, hf, Bool.false_eq_true, if_false]

/-- The shards of a failed fill have been read again: each that fails damages its slot, and with none the token falls. -/
theorem redigestDone_shards {d : Redigest} {r : List Redigest} {x e : Nat} {is : List Nat} (hr : s.redigests = d :: r)
    (hl : s.jobs.any Job.takesLanes = false) (hf : s.failedShards d = some (x, e, is)) :
    let u := is.foldl (fun s i => s.readShard x e i) { s with redigests := r }
    let bad := is.filter fun i => !s.digestHolds x e i
    exec .redigestDone s = .next (if bad.isEmpty then u.dropToken else bad.foldl (fun s i => s.damage x e i) u) := by
  show execRedigestDone s = _
  simp only [execRedigestDone, hr, hl, hf, Bool.false_eq_true, if_false]

end

/-! ### A stalled transfer -/

section
variable {s : State}

/-- The sender's streams that have gone on within 2^20 steps. -/
def State.dropStuckSends (s : State) : State :=
  { s with links := { s.links with sends := s.links.sends.filter fun x => !decide (x.progress + 2 ^ 20 ≤ s.ring.ms) } }

theorem transferStall_none (h : s.links.streams.find? (fun x => decide (x.progress + 2 ^ 20 ≤ s.ring.ms)) = none) :
    exec .transferStall s = .next s.dropStuckSends := by
  show execTransferStall s = _
  simp only [execTransferStall, h]
  rfl

/-- The load that a stalled stream served reports it. -/
theorem transferStall_load {y : MsgStream} {j : Job}
    (h : s.links.streams.find? (fun x => decide (x.progress + 2 ^ 20 ≤ s.ring.ms)) = some y)
    (hj : s.jobs.find? (fun j => j.streams y.stream) = some j) :
    let s0 := s.dropStuckSends
    exec .transferStall s = .next
      ((({ s0 with links := { s0.links with streams := s.links.streams.erase y } }).modSlot j.ctx.toNat j.slotArg Slot.stalled).complete
        j 0x10 0 (badData [])) := by
  show execTransferStall s = _
  simp only [execTransferStall, h, hj]
  rfl

end

/-- Settles O38: a pending slot by its moment and its damage, an item by its digest, a rotation by what a release leaves of it, and a load by its
phase. -/
theorem editionEvents : Obligations.EditionEvents := by
  intro s x e j it l d r y k s1
  refine ⟨fun hp ht => ⟨fun hd => ?_, fun hd => ?_⟩, editionSwitch_early, fun hr hh hn => ?_, fun hr hh hn => ?_,
    fun hr ht hs hl => ⟨fun hd => ?_, fun hd => ?_⟩, fun h => digests_wait (List.any_eq_true.2 h),
    ⟨fun hd i => scrubDrop_todo hd, fun hr hd => scrubDrop_ends hr hd⟩, fun ed n => markDamage_held, rfl,
    fun hr hl => ⟨redigestDone_homeless hr (lanesFree_iff.2 hl), fun x e is hf => ⟨fun hb => ?_, fun hb => ?_⟩⟩,
    fun hb hj => ⟨fun hp => ?_, fun hp => ?_, fun hp => ?_, fun a b c d e hp => ?_⟩, transferStall_none, fun h hj => transferStall_load h hj⟩
  · exact (editionSwitch_due hp ht).trans (if_neg (Bool.eq_false_iff.1 hd))
  · exact (editionSwitch_due hp ht).trans (if_pos hd)
  · exact (scrubRotation_serving hr hh).trans (if_neg (Bool.eq_false_iff.1 hn))
  · exact (scrubRotation_serving hr hh).trans (if_pos hn)
  · rw [scrubDigestDone_item hr ht hs (lanesFree_iff.2 hl), if_pos hd]
  · rw [scrubDigestDone_item hr ht hs (lanesFree_iff.2 hl), if_neg (Bool.eq_false_iff.1 hd)]
  · exact (redigestDone_shards hr (lanesFree_iff.2 hl) hf).trans (congrArg _ (if_pos (List.isEmpty_iff.2 hb)))
  · exact (redigestDone_shards hr (lanesFree_iff.2 hl) hf).trans (congrArg _ (if_neg fun h => hb (List.isEmpty_iff.1 h)))
  all_goals
    show execLoadDigestDone s = _
    simp only [execLoadDigestDone, hb, hj, hp, Bool.false_eq_true, if_false]

/-! ### The state after reset -/

/-- Mailbox 0 alone is armed, with every context in its mask (R409). -/
theorem reset_mbox (m : MbxId) : State.reset.mbox m =
    { armed := decide (m = 0), mask := if m = 0 then 0xFFFFFFFFFFFFFFFF else 0 } := by
  by_cases h : m = 0
  · subst h
    rfl
  · have hv : m.val ≠ 0 := fun hv => h (Fin.ext hv)
    simp only [State.mbox, State.reset, sget, mboxFix, hv, h, if_false, decide_false]

/-- Settles O60: every map is empty, so that each key reads as its default. -/
theorem resetState : Obligations.ResetState := by
  refine ⟨rfl, reset_lpddr_wf, fun c => ⟨rfl, rfl, fun r => ?_, fun t => ⟨rfl, rfl, rfl⟩, fun ls => ?_, fun n => ⟨rfl, rfl, rfl⟩, rfl, rfl⟩,
    fun p => ⟨rfl, rfl⟩, fun m => ?_, rfl, rfl, rfl, rfl, fun q i => ⟨rfl, rfl⟩, rfl, rfl, rfl, fun x => rfl, fun q => rfl, rfl, rfl, rfl, rfl,
    rfl, rfl, rfl, rfl⟩
  · exact ite_self 0
  · cases ls <;> rfl
  · rw [reset_mbox]
    exact ⟨rfl, rfl, rfl, rfl, rfl, rfl, rfl⟩

end Sys2Proof.Machine
end

section
/-! PROOFS. What the four stream instructions do to their channel: the marks of ring slots, T and the descriptor that it passes, ST.ARM and
ST.CANCEL (R212 to R215, R217, R220 to R226, R231). -/
namespace Sys2Proof.Machine

/-! ### Marked slots of a ring -/

/-- Whether one of the n slot counts from p on falls in ring slot i (R217). -/
def Chan.reaches (y : Chan) (p n i : Nat) : Bool := (List.range n).any fun j => decide (y.ringSlot (p + j) = i)

section
variable (y : Chan) (on : Bool) (p n : Nat)

theorem reaches_succ (i : Nat) : y.reaches p (n + 1) i = (y.reaches p n i || decide (y.ringSlot (p + n) = i)) := by
  simp [Chan.reaches, List.range_succ]

theorem mark_frame : { y.mark on p n with mask := y.mask } = y :=
  List.foldlRecOn (motive := fun z : Chan => { z with mask := y.mask } = y) _ _ rfl fun _ h _ _ => h

@[simp] theorem mark_h : (y.mark on p n).h = y.h := (congrArg Chan.h (mark_frame y on p n) :)
@[simp] theorem mark_t : (y.mark on p n).t = y.t := (congrArg Chan.t (mark_frame y on p n) :)
@[simp] theorem mark_f : (y.mark on p n).f = y.f := (congrArg Chan.f (mark_frame y on p n) :)
@[simp] theorem mark_outs : (y.mark on p n).outs = y.outs := (congrArg Chan.outs (mark_frame y on p n) :)
@[simp] theorem mark_active : (y.mark on p n).active = y.active := (congrArg Chan.active (mark_frame y on p n) :)
@[simp] theorem mark_shadow : (y.mark on p n).shadow = y.shadow := (congrArg Chan.shadow (mark_frame y on p n) :)

theorem mark_frame_at : { y.mark on p n with h := y.h, mask := y.mask } = y :=
  (congrArg (fun z : Chan => { z with h := y.h }) (mark_frame y on p n) :)

/-- Marks move no ring slot. -/
@[simp] theorem mark_ringSlot (q : Nat) : (y.mark on p n).ringSlot q = y.ringSlot q :=
  (congrArg (fun z : Chan => z.ringSlot q) (mark_frame y on p n) :)

/-- The slots of a range are marked one after the other. -/
theorem mark_succ : (y.mark on p (n + 1)).mask = if on then (y.mark on p n).mask ||| BitVec.ofNat 16 (2 ^ y.ringSlot (p + n))
    else (y.mark on p n).mask &&& ~~~(BitVec.ofNat 16 (2 ^ y.ringSlot (p + n))) := by
  conv_lhs => unfold Chan.mark
  rw [List.range_succ, List.foldl_append, ← mark_ringSlot y on p n]
  rfl

end

theorem getLsbD_slotBit (s : Nat) {i : Nat} (hi : i < 16) : (BitVec.ofNat 16 (2 ^ s)).getLsbD i = decide (s = i) := by
  rw [BitVec.getLsbD_ofNat, Nat.testBit_two_pow]
  simp [hi]

/-- A mark over a range sets, or clears, the bits of the ring slots that the range reaches (R217, R220). -/
theorem mark_mask (y : Chan) (on : Bool) (p n : Nat) {i : Nat} (hi : i < 16) : (y.mark on p n).mask.getLsbD i
    = if on then y.mask.getLsbD i || y.reaches p n i else y.mask.getLsbD i && !y.reaches p n i := by
  induction n with
  | zero => cases on <;> simp [Chan.mark, Chan.reaches]
  | succ n ih =>
    rw [mark_succ, reaches_succ]
    cases on with
    | true => simp only [if_true, BitVec.getLsbD_or, ih, getLsbD_slotBit _ hi, Bool.or_assoc]
    | false =>
      simp only [Bool.false_eq_true, if_false, BitVec.getLsbD_and, BitVec.getLsbD_not, hi, decide_true, Bool.true_and, ih, getLsbD_slotBit _ hi,
        Bool.not_or, Bool.and_assoc]

/-! ### T passes slots -/

section
variable (y : Chan) (n : Nat)

/-- A move of T touches T, the transfers counted and the descriptors. -/
theorem advanceT_frame : { y.advanceT n with xfer := y.xfer, active := y.active, shadow := y.shadow } = { y with t := y.t + n } := by
  unfold Chan.advanceT
  dsimp only
  split
  · split
    · split
      · split <;> rfl
      · rfl
    · rfl
  · rfl

@[simp] theorem advanceT_t : (y.advanceT n).t = y.t + n := (congrArg Chan.t (advanceT_frame y n) :)
@[simp] theorem advanceT_h : (y.advanceT n).h = y.h := (congrArg Chan.h (advanceT_frame y n) :)
@[simp] theorem advanceT_f : (y.advanceT n).f = y.f := (congrArg Chan.f (advanceT_frame y n) :)
@[simp] theorem advanceT_mask : (y.advanceT n).mask = y.mask := (congrArg Chan.mask (advanceT_frame y n) :)
@[simp] theorem advanceT_outs : (y.advanceT n).outs = y.outs := (congrArg Chan.outs (advanceT_frame y n) :)

end

section
variable {y : Chan} {n : Nat} {a b : Desc}

/-- The active descriptor stays while it has slots beyond T. -/
theorem advanceT_within (ha : y.active = some a) (hn : y.t + n < a.first + a.slots) :
    (y.advanceT n).active = some a ∧ (y.advanceT n).shadow = y.shadow := by
  have hn : ¬ a.first + a.slots ≤ y.t + n := Nat.not_le.2 hn
  simp [Chan.advanceT, ha, hn]

/-- A descriptor without a shadow ends with its slots, and none is active (R215). -/
theorem advanceT_ends (ha : y.active = some a) (hn : a.first + a.slots ≤ y.t + n) (hs : y.shadow = none) :
    (y.advanceT n).active = none ∧ (y.advanceT n).shadow = none := by
  simp [Chan.advanceT, ha, hn, hs]

/-- A descriptor that ends gives way to its shadow, whose slots follow its own (R215). -/
theorem advanceT_shadow (ha : y.active = some a) (hn : a.first + a.slots ≤ y.t + n) (hs : y.shadow = some b)
    (hb : y.t + n < a.first + a.slots + b.slots) :
    (y.advanceT n).active = some { b with first := a.first + a.slots } ∧ (y.advanceT n).shadow = none := by
  have hb : ¬ a.first + a.slots + Desc.slots { b with first := a.first + a.slots } ≤ y.t + n := Nat.not_le.2 hb
  simp [Chan.advanceT, ha, hn, hs, hb]

end

/-- ST.TAIL marks its slots and moves T, on an inbound and on an outbound channel. -/
theorem tail_descs {y z : Chan} {n : Nat} (hz : z = y.tailIn n ∨ z = y.tailOut n) :
    ∃ on, z.active = ((y.mark on y.t n).advanceT n).active ∧ z.shadow = ((y.mark on y.t n).advanceT n).shadow := by
  rcases hz with rfl | rfl
  · exact ⟨false, rfl, rfl⟩
  · exact ⟨true, rfl, rfl⟩

section
variable (y : Chan) (n : Nat)

theorem tailIn_pointers : (y.tailIn n).t = y.t + n ∧ (y.tailIn n).h = y.h ∧ (y.tailIn n).f = Nat.max y.f (y.t + n) ∧ (y.tailIn n).outs = y.outs := by
  simp [Chan.tailIn]

theorem tailOut_pointers : (y.tailOut n).t = y.t + n ∧ (y.tailOut n).h = y.h ∧ (y.tailOut n).f = y.f := by
  simp [Chan.tailOut]

/-- Published slots are no longer veiled (R221). -/
theorem tailIn_mask : (y.tailIn n).mask = (y.mark false y.t n).mask := advanceT_mask _ _

/-- Slots that are handed over are locked (R224). -/
theorem tailOut_mask : (y.tailOut n).mask = (y.mark true y.t n).mask := advanceT_mask _ _

end

/-- The slots that ST.TAIL hands over are listed by their counts, each with or without a descriptor of its own. -/
theorem tailOut_outs (y : Chan) (n : Nat) : (y.tailOut n).outs.map (·.n) = y.outs.map (·.n) ++ (List.range n).map (y.t + ·) := by
  unfold Chan.tailOut
  rw [List.map_append, List.map_map]
  congr 1
  refine List.map_congr_left fun i _ => ?_
  dsimp only [Function.comp]
  cases y.owner (y.t + i) <;> rfl

/-! ### Completion -/

section
variable {s : State} {c : Nat} {x : StItem} {beat : Nat} {ch : Fin 6}

theorem streamDone_tail {n : Fin 16} (h : x.ent.op = .tail ch n) : s.streamDone c x beat =
    if x.bad ≠ 0 then s.streamFault c 0x0104 ch.val x.bad x.ent.pc (beat - 1)
    else s.modCore c fun k => k.modChan ch.val fun _ =>
      if ch.val < 4 then ((s.core c).chan ch).tailIn (n.val + 1) else ((s.core c).chan ch).tailOut (n.val + 1) := by
  simp only [State.streamDone, h, inboundCh, decide_eq_true_eq, State.modCore, Core.modChan]

theorem streamDone_head {n : Fin 16} (h : x.ent.op = .head ch n) : s.streamDone c x beat =
    if x.bad ≠ 0 then s.streamFault c 0x0104 ch.val x.bad x.ent.pc (beat - 1)
    else s.modCore c fun k => k.modChan ch.val fun _ =>
      if ch.val < 4 then ((s.core c).chan ch).headIn (n.val + 1) else ((s.core c).chan ch).headOut (n.val + 1) := by
  simp only [State.streamDone, h, inboundCh, decide_eq_true_eq, State.modCore, Core.modChan]

/-- What ST.ARM has read, as a descriptor of its completion beat. -/
def StItem.armed (x : StItem) (k : Core) (beat : Nat) : Desc := parseDesc x.desc (k.lstepIn beat) x.ent.pc 0

/-- The reason for which the descriptor that ST.ARM has read is refused, or 0: the first check of R212 that fails, else 7 for a descriptor of
another ring on a channel that is not idle (R214). -/
def StItem.armFault (x : StItem) (k : Core) (ch beat : Nat) : Nat :=
  let why := descCheck k x.desc (inboundCh ch) (x.armed k beat)
  if why = 0 ∧ ((k.chan ch).active.isNone && decide ((k.chan ch).h = (k.chan ch).t)) = false ∧ (x.armed k beat).geo ≠ (k.chan ch).geo then 7
  else why

/-- A channel that has accepted a descriptor: active where none is, else the shadow (R213, R214). -/
def Chan.armWith (y : Chan) (ch : Nat) (d : Desc) : Chan := if y.active.isNone then y.activate ch d else { y with shadow := some d }

section
variable {sh : Bool} {sa : Reg} (h : x.ent.op = .arm ch sh sa)
include h

/-- An occupied position ignores the descriptor and counts it (R213). -/
theorem streamDone_arm_occupied (ho : (if sh then ((s.core c).chan ch).shadow.isSome else ((s.core c).chan ch).active.isSome) = true) :
    s.streamDone c x beat = s.modCore c fun k => k.modChan ch.val fun y => { y with ign := sat16 y.ign 1 } := by
  simp only [State.streamDone, h, State.armDone]
  exact if_pos (by cases sh <;> simpa using ho)

/-- A free position takes the descriptor, unless it is refused (R212, R214). -/
theorem streamDone_arm_free (ho : (if sh then ((s.core c).chan ch).shadow.isSome else ((s.core c).chan ch).active.isSome) = false) :
    s.streamDone c x beat = if x.armFault (s.core c) ch beat ≠ 0
      then s.streamFault c 0x0103 ch (x.armFault (s.core c) ch beat) x.ent.pc beat
      else s.modCore c fun k => k.modChan ch.val fun _ => ((s.core c).chan ch).armWith ch (x.armed (s.core c) beat) := by
  simp only [State.streamDone, h, State.armDone]
  exact if_neg (by cases sh <;> simpa using ho)

end

section
variable {k : Core}

theorem armFault_of_check {ch : Nat} (hw : descCheck k x.desc (inboundCh ch) (x.armed k beat) ≠ 0) :
    x.armFault k ch beat = descCheck k x.desc (inboundCh ch) (x.armed k beat) := if_neg fun hf => hw hf.1

theorem armFault_of_otherRing {ch : Nat} (hw : descCheck k x.desc (inboundCh ch) (x.armed k beat) = 0)
    (hn : ¬ ((k.chan ch).active = none ∧ (k.chan ch).h = (k.chan ch).t)) (hg : (x.armed k beat).geo ≠ (k.chan ch).geo) :
    x.armFault k ch beat = 7 := if_pos ⟨hw, by rw [Bool.eq_false_iff]; simpa using hn, hg⟩

theorem armFault_idle {ch : Nat} (hw : descCheck k x.desc (inboundCh ch) (x.armed k beat) = 0) (ha : (k.chan ch).active = none)
    (he : (k.chan ch).h = (k.chan ch).t) : x.armFault k ch beat = 0 := (if_neg (by simp [ha, he])).trans hw

theorem armFault_sameRing {ch : Nat} (hw : descCheck k x.desc (inboundCh ch) (x.armed k beat) = 0)
    (hg : (x.armed k beat).geo = (k.chan ch).geo) : x.armFault k ch beat = 0 := (if_neg fun hf => hf.2.2 hg).trans hw

end

section
variable {y : Chan} {d : Desc}

/-- A descriptor on an idle channel sets the ring and every pointer; every slot of an inbound ring is veiled (R214, R220). -/
theorem armWith_idle (ha : y.active = none) (h : y.h = y.t) (hd : d.first = 0) (ch : Nat) : y.armWith ch d = { y with
    geo := d.geo, h := 0, t := 0, f := 0, active := some d
    mask := if ch < 4 then BitVec.ofNat 16 (2 ^ (d.nslot + 1) - 1) else 0 } := by
  have hd : ({ d with first := 0 } : Desc) = d := by rw [← hd]
  simp only [Chan.armWith, Chan.activate, ha, h, Option.isNone_none, if_true, hd, inboundCh, decide_eq_true_eq]
  split <;> rfl

/-- A descriptor on a channel that still holds slots goes on from T. -/
theorem armWith_holding (ha : y.active = none) (h : y.h ≠ y.t) (ch : Nat) :
    y.armWith ch d = { y with active := some { d with first := y.t } } := by
  simp only [Chan.armWith, Chan.activate, ha, h, Option.isNone_none, if_true, if_false]

/-- Beside an active descriptor the new one is the shadow. -/
theorem armWith_active (ha : y.active.isSome = true) (ch : Nat) : y.armWith ch d = { y with shadow := some d } :=
  if_neg (by simpa [Option.isSome_iff_ne_none] using ha)

end

end

/-! ### ST.CANCEL -/

section
variable {k : Core} {x : StItem} {r : List StItem} {ch : Fin 4}

/-- ST.CANCEL parks while a fill carries the generation that it would produce, and else acts at once (R226, R227). -/
theorem doStartSt_cancel (hs : k.sts = x :: r) (ho : x.ent.op = .cancel ch) (b : Nat) : k.doStartSt b = if (k.chan ch).staleBlocks
    then { k with sts := { x with start := some b, occ := 1 } :: r, stNext := b + 1, status := .parked .cancel }
    else k.doCancel x r ch b := by
  simp only [Core.doStartSt, hs, ho]

/-- On a channel with a ring, ST.CANCEL discards the slots from T to the end of the ring's turn (R226). -/
theorem cancel_ring {y : Chan} (h : y.geo.nslot ≠ 0) : y.cancel
    = ({ y with active := none, shadow := none, f := y.t, gen := y.gen + 1, disc := sat16 y.disc (y.h + y.geo.nslot + 1 - y.t) },
      (List.range (y.h + y.geo.nslot + 1 - y.t)).map fun i => y.ringSlot (y.t + i)) := by
  simp only [Chan.cancel, h, if_false]

theorem cancel_slot {y : Chan} (h : y.geo.nslot ≠ 0) {i : Nat} (hi : i < y.h + y.geo.nslot + 1 - y.t) :
    i < y.cancel.2.length ∧ y.cancel.2.getD i 0 = y.ringSlot (y.t + i) := by
  simp [cancel_ring h, hi]

theorem doCancel_chan (hk : Sparse.Wf {} k.chans) (b : Nat) : (k.doCancel x r ch b).chan ch = (k.chan ch).cancel.1 :=
  sget_sset_same _ _ _ hk

/-- The beats in which ST.CANCEL zeroes one slot of a ring: 128 bytes in each (R231). -/
def Geo.zeroBeats (g : Geo) : Nat := (g.slotBytes + 127) / 128

/-- The piece that ST.CANCEL zeroes in the j-th beat of the i-th discarded slot. -/
def Core.zapPiece (k : Core) (ch b i j : Nat) : Nat × Nat × Nat × Nat × Bool :=
  let g := (k.chan ch).geo
  (b + g.zeroBeats * i + j + 1, (k.chan ch).cancel.2.getD i 0, 128 * j, Nat.min 128 (g.slotBytes - 128 * j), decide (j + 1 = g.zeroBeats))

theorem doCancel_sts (b : Nat) : (k.doCancel x r ch b).sts = { x with
    start := some b, occ := 1 + (k.chan ch).cancel.2.length * (k.chan ch).geo.zeroBeats
    zap := (List.range (k.chan ch).cancel.2.length).flatMap fun i => (List.range (k.chan ch).geo.zeroBeats).map (k.zapPiece ch b i) } :: r := rfl

/-- Each byte of each discarded slot lies in a piece that is zeroed in one of the occupied beats (R226, R231). -/
theorem doCancel_zap (b : Nat) {i o : Nat} (hi : i < (k.chan ch).cancel.2.length) (ho : o < (k.chan ch).geo.slotBytes) :
    ∃ w, (k.doCancel x r ch b).sts = w :: r ∧ ∃ z ∈ w.zap, b < z.1 ∧ z.1 < b + w.occ ∧ z.2.1 = (k.chan ch).cancel.2.getD i 0
      ∧ z.2.2.1 ≤ o ∧ o < z.2.2.1 + z.2.2.2.1 := by
  have hj : o / 128 < (k.chan ch).geo.zeroBeats := by
    unfold Geo.zeroBeats
    omega
  refine ⟨_, doCancel_sts b, k.zapPiece ch b i (o / 128), ?mem, ?_⟩
  case mem => exact List.mem_flatMap.2 ⟨i, List.mem_range.2 hi, List.mem_map.2 ⟨o / 128, List.mem_range.2 hj, rfl⟩⟩
  dsimp only [Core.zapPiece]
  generalize (k.chan ch).cancel.2 = disc at hi ⊢
  have hbeat : (k.chan ch).geo.zeroBeats * i + o / 128 < disc.length * (k.chan ch).geo.zeroBeats := calc
    _ < (k.chan ch).geo.zeroBeats * (i + 1) := Nat.add_lt_add_left hj _
    _ ≤ disc.length * (k.chan ch).geo.zeroBeats := by
      rw [Nat.mul_comm]
      exact Nat.mul_le_mul_right _ hi
  have hlen : o - 128 * (o / 128) < Nat.min 128 ((k.chan ch).geo.slotBytes - 128 * (o / 128)) := Nat.lt_min.2 ⟨by omega, by omega⟩
  exact ⟨by omega, by omega, rfl, by omega, by omega⟩

end

/-! ### The claim -/

/-- Settles O23: a completion by its instruction, the mask by the ring slots that a range reaches, a descriptor by where T comes to, and a cancel
by the generation that it would produce. -/
theorem streamPointers : Obligations.StreamPointers := by
  refine ⟨fun s c x beat ch n sh sa => ?completion, fun y n i hi => ?pointers, fun y n a b z hz ha => ?descriptors,
    fun k x r ch b i o hk hs ho => ?cancel⟩
  case completion =>
    intro y d why put
    refine ⟨fun h hb => ?_, fun h hb => ?_, fun h hb => ?_, fun h ho => streamDone_arm_occupied h ho,
      fun h ho => ⟨fun hw => ?_, fun hw hn hg => ?_, fun hw ha he => ?_, fun hw ha he hg => ?_, fun hw ha hg => ?_⟩⟩
    · exact (streamDone_tail h).trans (if_neg (not_not.2 hb))
    · exact (streamDone_head h).trans (if_neg (not_not.2 hb))
    · exact h.elim (fun h => (streamDone_tail h).trans (if_pos hb)) fun h => (streamDone_head h).trans (if_pos hb)
    · rw [streamDone_arm_free h ho, if_pos ((armFault_of_check hw).trans_ne hw), armFault_of_check hw]
      rfl
    · rw [streamDone_arm_free h ho, armFault_of_otherRing hw hn hg]
      rfl
    · rw [streamDone_arm_free h ho, armFault_idle hw ha he, armWith_idle ha he rfl]
      rfl
    · rw [streamDone_arm_free h ho, armFault_sameRing hw hg, armWith_holding ha he]
      rfl
    · rw [streamDone_arm_free h ho, armFault_sameRing hw hg, armWith_active ha]
      rfl
  case pointers =>
    intro reached a b p q
    have hm (on : Bool) (p : Nat) := mark_mask y on p n hi
    obtain ⟨hat, hah, haf, hao⟩ := tailIn_pointers y n
    obtain ⟨hpt, hph, hpf⟩ := tailOut_pointers y n
    exact ⟨⟨hat, hah, haf, (congrArg (·.getLsbD i) (tailIn_mask y n)).trans (hm false y.t), hao⟩,
      ⟨rfl, hm true y.h, mark_frame_at y true y.h n⟩,
      ⟨hpt, hph, hpf, (congrArg (·.getLsbD i) (tailOut_mask y n)).trans (hm true y.t), tailOut_outs y n⟩,
      ⟨rfl, hm false y.h, mark_frame_at y false y.h n⟩⟩
  case descriptors =>
    obtain ⟨on, hza, hzs⟩ := tail_descs hz
    have ha' : (y.mark on y.t n).active = some a := (mark_active ..).trans ha
    have ht := mark_t y on y.t n
    have hs := mark_shadow y on y.t n
    generalize y.mark on y.t n = q at *
    rw [hza, hzs, ← ht, ← hs]
    exact ⟨advanceT_within ha', advanceT_ends ha', advanceT_shadow ha'⟩
  case cancel =>
    intro y disc
    refine ⟨fun hb => ?_, fun hb hn => ?_⟩
    · rw [doStartSt_cancel hs ho, if_pos hb]
      exact ⟨rfl, rfl⟩
    · rw [doStartSt_cancel hs ho, if_neg (Bool.eq_false_iff.1 hb), doCancel_chan hk, cancel_ring hn]
      refine ⟨rfl, fun hi ho => ?_⟩
      obtain ⟨hlen, hslot⟩ := cancel_slot hn hi
      exact hslot ▸ doCancel_zap b hlen ho

end Sys2Proof.Machine
end

section
/-! PROOFS. The Pass instructions of the control core, and a crossing with what it does to Waymarks, layers and channels (R228, R257, R258, R262,
R263, R265, R267). -/
namespace Sys2Proof.Machine

theorem chan_modChan_same {k : Core} (hk : Sparse.Wf {} k.chans) (n : Nat) (f : Chan → Chan) : (k.modChan n f).chan n = f (k.chan n) :=
  sget_sset_same _ _ _ hk

/-! ### A re-level -/

section
variable (w : Waymark) (b : Nat)

@[simp] theorem roll_level : (w.roll b).level = w.level := by
  unfold Waymark.roll
  split <;> rfl

@[simp] theorem roll_desig : (w.roll b).desig = w.desig := by
  unfold Waymark.roll
  split <;> rfl

/-- What earlier beats left is the start value of a later one. -/
theorem roll_shown : (w.roll b).shown = w.shown := by
  unfold Waymark.roll
  split
  · have hv : Nat.min (w.shown.toNat + 0) 4095 = w.shown.toNat := Nat.min_eq_left (Nat.le_of_lt_succ w.shown.isLt)
    simp only [Waymark.shown, Waymark.sum, Option.getD_none, Bool.false_eq_true, if_false]
    rw [← Waymark.sum, ← Waymark.shown, hv, BitVec.ofNat_toNat, BitVec.setWidth_eq]
  · rfl

theorem roll_re (h : w.re = false) : (w.roll b).re = false := by
  unfold Waymark.roll
  split
  · rfl
  · exact h

theorem roll_at {w : Waymark} {b : Nat} (h : w.at_ ≤ b) : (w.roll b).at_ = b := by
  unfold Waymark.roll
  split
  · rfl
  · omega

@[simp] theorem setTo_level : (w.setTo b).level = w.level := by
  unfold Waymark.setTo
  dsimp only
  split <;> exact roll_level w b

@[simp] theorem setTo_desig : (w.setTo b).desig = w.desig := by
  unfold Waymark.setTo
  dsimp only
  split <;> exact roll_desig w b

/-- A re-level at the end of the beat that a Waymark has reached leaves it LEVEL (R265). -/
theorem setTo_shown {w : Waymark} {b : Nat} (h : w.at_ ≤ b) : (w.setTo b).shown = w.level := by
  have hb : ¬ b < (w.roll b).at_ := by rw [roll_at h]; exact Nat.lt_irrefl b
  simp only [Waymark.setTo, hb, if_false, Waymark.shown, if_true, roll_level]

end

/-- A change of LEVEL and DESIG alone does not show in VALUE, unless a re-level of the beat waits for it. -/
theorem shown_of_level (w : Waymark) (h : w.re = false) (level : BitVec 12) (d : Bool) :
    ({ w with level := level, desig := d } : Waymark).shown = w.shown := by
  simp only [Waymark.shown, h, Bool.false_eq_true, if_false]
  rfl

/-- CC.PLEVEL on a Waymark (R258): LEVEL and DESIG, and with NOW the re-level. -/
theorem setLevel_wm {k : Core} (hk : Sparse.Wf {} k.wms) (n : Fin 32) (level : BitVec 12) (d now : Bool) (b : Nat) :
    (k.setLevel n level d now b).wm n = if now then Waymark.setTo { (k.wm n).roll b with level := level, desig := d } b
      else { (k.wm n).roll b with level := level, desig := d } := wm_setWm_same hk _ _

/-! ### A Pass instruction issues -/

/-- An instruction that arrives at a Pass does so with both outbound channels quiet; until they are, the core parks behind it (R228). -/
theorem arrives_or_parks {j : Instr} {s u : State} {c i : Nat} {l r e : Bool} {h : Hdr} {op : CcOp} {b : Nat}
    (hj : exec j s = .next (s.issueCc c op h [] fun s b => s.passEnter c i l r e h b)) (hu : s.issueAt c op h [] = some (u, b)) :
    let pc := (u.core c).pc
    let v := u.modCore c fun k => { k with pc := k.pc + 1, beat := b }
    ((u.core c).mayArrive = true → exec j s = .next ((v.arrive c i l r pc).afterArrive c i e h pc b))
    ∧ ((u.core c).mayArrive = false →
      exec j s = .next (v.modCore c fun k => { k with status := .parked (.arrive i l r e h pc), beat := b })) := by
  rw [hj, issueCc_at hu]
  exact ⟨fun ha => congrArg _ (if_pos ha), fun ha => congrArg _ (if_neg (Bool.eq_false_iff.1 ha))⟩

section
variable {s : State} {c i : Nat} {h : Hdr} {pc : BitVec 15} {b : Nat}

/-- A wait with no release outstanding ends at once, and crosses when arrivals are uncrossed (R258, R262). -/
theorem passWait_released (ho : ((s.core c).pview i).o = 0) :
    s.passWait c i h pc b = s.endPass c i h pc b (decide (((s.core c).pview i).unc ≠ 0)) := if_neg (not_not.2 ho)

theorem passWait_parks (ho : ((s.core c).pview i).o ≠ 0) (hb : (s.pass (idxKey c i)).brk = false) :
    s.passWait c i h pc b = s.modCore c fun k => { k with status := .parked (.pass i h pc), beat := b } :=
  (if_pos ho).trans (if_neg (Bool.eq_false_iff.1 hb))

/-- On a broken Pass the core is released with broken status (R267). -/
theorem passWait_broken (ho : ((s.core c).pview i).o ≠ 0) (hb : (s.pass (idxKey c i)).brk = true) :
    s.passWait c i h pc b = (s.modCore c fun k => { k with beat := b }).brokenCore c i pc := (if_pos ho).trans (if_pos hb)

end

/-- Settles O15: an arrival by whether the outbound channels are quiet, a wait by O and the Pass, and CC.PLEVEL by NOW. -/
theorem passInstructions : Obligations.PassInstructions := by
  refine ⟨fun c h p m l r s u b => ?arrivals, fun c h p wn d now level s u b => ⟨fun hu => ?plevel, fun hu => ?pwait⟩,
    fun k n level d now b hk hb => ?level⟩
  case arrivals =>
    intro pc v
    exact ⟨arrives_or_parks rfl, arrives_or_parks rfl, arrives_or_parks rfl⟩
  case plevel => exact congrArg Host.Outcome.next (issueCc_at hu)
  case pwait =>
    intro v
    exact ⟨fun ho hb => congrArg Host.Outcome.next ((issueCc_at hu).trans (passWait_parks ho hb)),
      fun ho hb => congrArg Host.Outcome.next ((issueCc_at hu).trans (passWait_broken ho hb)),
      fun ho => congrArg Host.Outcome.next ((issueCc_at hu).trans (passWait_released ho))⟩
  case level =>
    intro w
    have hw : w = _ := setLevel_wm hk n level d now b
    cases now with
    | true =>
      have hat : ({ (k.wm n).roll b with level := level, desig := d } : Waymark).at_ ≤ b := Nat.le_of_eq (roll_at hb)
      rw [hw]
      exact ⟨setTo_level _ b, setTo_desig _ b, fun _ => setTo_shown hat, fun hn => Bool.noConfusion hn⟩
    | false =>
      rw [hw]
      exact ⟨rfl, rfl, fun hn => Bool.noConfusion hn, fun _ hr => (shown_of_level _ (roll_re _ b hr) level d).trans (roll_shown _ b)⟩

/-! ### What a core does at a crossing -/

/-- A fold that visits each of its places once changes what is read at a place by what its visit does there. -/
theorem foldl_visits {β : Type} {get : Core → Nat → β} {p : Core → Prop} {step : Core → Nat → Core} {f : Nat → β → β}
    (hp : ∀ k i, p k → p (step k i)) (hstep : ∀ k i n, p k → get (step k i) n = if n = i then f i (get k n) else get k n) (l : List Nat) :
    ∀ {k : Core}, l.Nodup → p k → ∀ n, get (l.foldl step k) n = if n ∈ l then f n (get k n) else get k n := by
  induction l with
  | nil => intro k _ _ n; simp
  | cons i l ih =>
    intro k hl hk n
    obtain ⟨hi, hl⟩ := List.nodup_cons.1 hl
    rw [List.foldl_cons, ih hl (hp k i hk), hstep k i n hk]
    by_cases hn : n = i
    · subst hn
      simp [hi]
    · simp [hn]

/-- Every designated Waymark is re-levelled and every other stays (R265). -/
theorem relevel_wm {k : Core} (hk : Sparse.Wf {} k.wms) (b : Nat) (n : Fin 32) :
    (k.relevel b).wm n = if (k.wm n).desig then (k.wm n).setTo b else k.wm n := by
  refine (foldl_visits (get := Core.wm) (p := fun k => Sparse.Wf {} k.wms) (f := fun _ w => if w.desig then w.setTo b else w)
    (fun k i hk => ?_) (fun k i n hk => ?_) (List.range 32) List.nodup_range hk n).trans (if_pos (List.mem_range.2 n.isLt))
  · dsimp only
    split
    · exact sset_wf _ _ _ hk
    · exact hk
  · dsimp only
    by_cases hn : n = i
    · subst hn
      rw [if_pos rfl]
      split
      · exact wm_setWm_same hk _ _
      · rfl
    · rw [if_neg hn]
      split
      · exact sget_sset_ne _ _ _ _ hk hn
      · rfl

/-- A re-level touches Waymarks alone. -/
theorem relevel_eq (k : Core) (b : Nat) : ∃ w, k.relevel b = { k with wms := w } :=
  List.foldlRecOn (motive := fun t => ∃ w, t = { k with wms := w }) _ _ ⟨_, rfl⟩ fun t ht n _ => by
    obtain ⟨w, rfl⟩ := ht
    dsimp only
    split <;> exact ⟨_, rfl⟩

/-- The channel actions of a crossing touch channels alone. -/
theorem crossChans_eq (k : Core) : ∃ ch, k.crossChans = { k with chans := ch } :=
  List.foldlRecOn (motive := fun t => ∃ ch, t = { k with chans := ch }) _ _ ⟨_, rfl⟩ fun t ht n _ => by
    obtain ⟨ch, rfl⟩ := ht
    exact ⟨_, rfl⟩

theorem flushCross_eq (k : Core) : ∃ ch x, k.flushCross = { k with chans := ch, crossAt := x } := by
  unfold Core.flushCross
  split
  · obtain ⟨ch, hc⟩ := crossChans_eq k
    refine ⟨ch, none, ?_⟩
    rw [Core.doCross, hc]
  · exact ⟨_, _, rfl⟩

/-- The view of a Pass once its arrivals are crossed: they no longer count as uncrossed (R262). -/
def PassView.crossed (v : PassView) : PassView := { v with unc := 0, uncL := false }

section
variable (k : Core) (i b : Nat)

/-- A crossing touches the channels, the Waymarks and the view of its Pass alone. -/
theorem crossIn_eq : ∃ ch w, k.crossIn i b
    = { k with chans := ch, wms := w, pv := sset {} k.pv i (k.pview i).crossed, crossAt := some b } := by
  obtain ⟨ch, x, hf⟩ := flushCross_eq k
  obtain ⟨w, hr⟩ := relevel_eq (({ k with chans := ch, crossAt := x } : Core).setPview i (k.pview i).crossed) b
  refine ⟨ch, w, ?_⟩
  rw [Core.crossIn, hf, ← PassView.crossed, hr]
  rfl

theorem crossIn_wm (hk : Sparse.Wf {} k.wms) (n : Fin 32) :
    (k.crossIn i b).wm n = if (k.wm n).desig then (k.wm n).setTo b else k.wm n := by
  obtain ⟨ch, x, hf⟩ := flushCross_eq k
  have hn := relevel_wm (k := ({ k with chans := ch, crossAt := x } : Core).setPview i (k.pview i).crossed) hk b n
  obtain ⟨w, hr⟩ := relevel_eq (({ k with chans := ch, crossAt := x } : Core).setPview i (k.pview i).crossed) b
  rw [hr] at hn
  rw [Core.crossIn, hf, ← PassView.crossed, hr]
  exact hn

end

/-! ### The layer -/

section
variable {s : State} (hw : Sparse.Wf {} s.cores) (c i b : Nat) (w : Option (Fin 32)) (pc : BitVec 15)

/-- The core of a crossing, before a layer advance. -/
def Core.crossed (k : Core) (i b : Nat) : Core := { k.crossIn i b with beat := b + 1 }

/-- A crossing without a signal advances the layer when an arrival crossed carried L (R263). -/
theorem endPass_crosses : s.endPass c i { w := w, s := none } pc b true
    = if ((s.core c).pview i).uncL then (s.modCore c fun k => k.crossed i b).advanceLayer c b else s.modCore c fun k => k.crossed i b := rfl

theorem Core.crossed_eq (k : Core) (i b : Nat) : ∃ ch w, k.crossed i b
    = { k with chans := ch, wms := w, pv := sset {} k.pv i (k.pview i).crossed, crossAt := some b, beat := b + 1 } := by
  obtain ⟨ch, w, h⟩ := crossIn_eq k i b
  exact ⟨ch, w, by rw [Core.crossed, h]⟩

include hw

/-- A layer advance adds one to LAYER, up to the layers of the image, and a dispatch of its beat still reads the old layer step. -/
theorem advanceLayer_core : ((s.advanceLayer c b).core c).beat = (s.core c).beat
    ∧ ((s.advanceLayer c b).core c).layer = Nat.min ((s.core c).layer + 1) s.layerCount
    ∧ ((s.advanceLayer c b).core c).lstepIn b = (s.core c).lstep := by
  unfold State.advanceLayer
  rw [core_modCore_same hw]
  exact ⟨rfl, rfl, if_pos (Nat.lt_succ_self b)⟩

end

/-! ### The channels -/

/-- Each of the six channels makes its own actions (R228). -/
theorem crossChans_chan {k : Core} (hk : Sparse.Wf {} k.chans) {n : Nat} (hn : n < 6) : k.crossChans.chan n = (k.chan n).cross n := by
  refine (foldl_visits (get := Core.chan) (p := fun k => Sparse.Wf {} k.chans) (f := fun ch x => x.cross ch) (fun k i hk => sset_wf _ _ _ hk)
    (fun k i m hk => ?_) (List.range 6) List.nodup_range hk n).trans (if_pos (List.mem_range.2 hn))
  split
  · next hm =>
    subst hm
    exact chan_modChan_same hk _ _
  · next hm => exact sget_sset_ne _ _ _ _ hk hm

theorem doCross_chan {k : Core} (hk : Sparse.Wf {} k.chans) {n : Nat} (hn : n < 6) : k.doCross.chan n = (k.chan n).cross n := by
  have hc := crossChans_chan hk hn
  obtain ⟨ch, he⟩ := crossChans_eq k
  rw [he] at hc
  rw [Core.doCross, he]
  exact hc

/-- Settles O18: a Waymark by DESIG, a layer by L, and a channel by its direction. -/
theorem crossing : Obligations.Crossing := by
  refine ⟨fun k i b n hk hp => ?core, fun s c i b w pc hw => ?layer, fun k n y i hn hk hi => ?channel⟩
  case core =>
    intro t
    have hwm : t.wm n = _ := crossIn_wm k i b hk n
    refine ⟨fun hd ha => ?_, fun hd => hwm.trans (if_neg (Bool.eq_false_iff.1 hd)), ?_⟩
    · rw [hwm, if_pos hd]
      exact setTo_shown ha
    · obtain ⟨ch, v, ht⟩ : ∃ ch v, t = _ := crossIn_eq k i b
      have hpv : t.pview i = (k.pview i).crossed := by
        rw [ht]
        exact sget_sset_same _ _ _ hp
      rw [hpv, ht]
      exact ⟨⟨rfl, rfl, rfl⟩, rfl, rfl, rfl, rfl, rfl, rfl, rfl⟩
  case layer =>
    intro v t
    have ht : t = _ := endPass_crosses c i b w pc
    have hc : (s.modCore c fun k => k.crossed i b).core c = (s.core c).crossed i b := core_modCore_same hw _ _
    have ha := advanceLayer_core (s := s.modCore c fun k => k.crossed i b) (sset_wf _ _ _ hw) c b
    obtain ⟨ch, x, hk⟩ : ∃ ch x, (s.core c).crossed i b = _ := (s.core c).crossed_eq i b
    rw [hc, hk] at ha
    rw [ht]
    cases hl : ((s.core c).pview i).uncL with
    | true =>
      obtain ⟨hbeat, hlayer, hstep⟩ := ha
      exact ⟨hbeat, fun hf => Bool.noConfusion hf, fun _ => ⟨hlayer, hstep⟩⟩
    | false =>
      rw [if_neg (by decide), hc, hk]
      exact ⟨rfl, fun _ => ⟨rfl, rfl⟩, fun hf => Bool.noConfusion hf⟩
  case channel =>
    intro z gone
    refine ⟨doCross_chan hk hn, rfl, ?_, mark_frame_at y _ y.h _⟩
    refine (mark_mask y (inboundCh n) y.h (y.t - y.h) hi).trans ?_
    simp only [inboundCh, decide_eq_true_eq]
    rfl

end Sys2Proof.Machine
end

section
/-! PROOFS. The fills of an inbound channel's slots: their start, their transfers, their completion and the responses of cancelled ones (R205, R210,
R216, R218, R219, R227, R455). -/
namespace Sys2Proof.Machine

/-! ### The slot that may fill next -/

section
variable {s : State} {c n : Nat} {ch : Nat} {d : Desc}

/-- The slot that may fill next is the one after those that fill, remote, within the lead and the ring, and its gate is open (R216, R219). -/
theorem fillSlot_eq_some (h : s.fillSlot c ch = some (n, d)) :
    let x := (s.core c).chanNow ch
    n = x.f + x.liveFills.length ∧ d.region ≠ 0 ∧ n < x.h + x.geo.nslot + 1 ∧ n < x.t + d.lead + 1 ∧ s.gateOpen c d = true := by
  intro x
  unfold State.fillSlot at h
  dsimp only at h
  split at h
  · cases h
  · split at h
    · next hc =>
      obtain ⟨hregion, hlead, hring, -, hgate⟩ := hc
      rw [Option.some.injEq, Prod.mk.injEq] at h
      obtain ⟨rfl, rfl⟩ := h
      exact ⟨rfl, hregion, hring, hlead, hgate⟩
    · cases h

theorem chanNow_of_no_crossing {k : Core} (h : k.crossAt = none) : k.chanNow ch = k.chan ch := if_neg (by simp [h])

end

/-! ### The two rows -/

section
variable {s : State} {c : CoreId} {ch : Fin 4}

/-- The module after a start of slot n (R205, R219): its live fills have come to their last transfers, and the slot's transfers take the free
credits. -/
def State.startFill (s : State) (c ch n : Nat) (d : Desc) : State :=
  let e := s.eachFill c ch (fun s f => State.runFill fillFuel s c ch 1 f) ((s.core c).chan ch).fills
  let s2 := e.1.setFills c ch e.2
  let y := (s2.core c).chan ch
  let z := State.startXfers (s2.freeCredits c ch) s2 c
    { n := n, gen := y.gen, rgen := s.coreGen c, out := [], next := 0, count := (d.slotXfers n).length, desc := d }
  z.1.setFills c ch (y.fills ++ [z.2])

theorem slotFillStart_may {n : Nat} {d : Desc} (hs : s.fillSlot c ch = some (n, d)) (hm : (s.core c).moving = true) :
    exec (.slotFillStart c ch) s = .next (s.startFill c ch n d) := by
  show execSlotFillStart c ch s = _
  simp only [execSlotFillStart, hs, hm, if_true]
  rfl

/-- The module after the completion of a fill (R218, R219): its last transfers have ended, the positions that its slot lacks are zero, F has passed
it, and the other fills take the free credits. -/
def State.completeFill (s : State) (c ch : Nat) (f : SlotFill) : State :=
  let x := (s.core c).chan ch
  let e := State.runFill fillFuel s c ch 0 f
  let s2 := e.1.modCore c fun k => (k.writeSlot ch x.geo (x.ringSlot f.n) (e.2.desc.padPieces e.2.count)).modChan ch fun x =>
    { x with fills := x.fills.erase f, f := x.f + 1 }
  let z := s2.eachFill c ch (fun s f => State.startXfers (s.freeCredits c ch) s c f) ((s2.core c).chan ch).fills
  z.1.setFills c ch z.2

theorem slotFillComplete_oldest {f : SlotFill} (hf : ((s.core c).chan ch).fills.find? ((s.core c).chan ch).isLive = some f)
    (hr : f.rgen = s.coreGen c) (hn : f.n = ((s.core c).chan ch).f) : exec (.slotFillComplete c ch) s = .next (s.completeFill c ch f) := by
  show execSlotFillComplete c ch s = _
  simp only [execSlotFillComplete, hf]
  exact if_pos ⟨hr, hn⟩

theorem slotFillComplete_none (hf : ((s.core c).chan ch).fills.find? ((s.core c).chan ch).isLive = none) :
    exec (.slotFillComplete c ch) s = .next s := by
  show execSlotFillComplete c ch s = _
  simp only [execSlotFillComplete, hf]

end

/-! ### One transfer -/

section
variable {s : State} {c ch : Nat} {f : SlotFill}

/-- A fill with one transfer outstanding and none to start ends it (R218). -/
theorem runFill_last {y : Xact} (hn : f.next = f.count) (ho : f.out = [y]) (n : Nat) : State.runFill (n + 2) s c ch 0 f
    = (s.modCore c fun k => k.writeSlot ch ((s.core c).chan ch).geo (((s.core c).chan ch).ringSlot f.n) [f.desc.piece f.n (s.xferRest c y)],
      { f with out := [] }) := by
  simp [State.runFill, State.endXfer, State.startXfers, hn, ho]

/-- A fill with transfers to start starts the next one (R219). -/
theorem startXfers_one (h : f.next < f.count) : State.startXfers 1 s c f = s.startXfer c f := by
  simp [State.startXfers, h]

end

/-! ### A response that is absorbed -/

section
variable {x : Chan} {p : SlotFill → Bool} {f : SlotFill}

theorem absorb_last (h : x.fills.find? p = some f) (ho : f.out.length ≤ 1) : x.absorb p = { x with fills := x.fills.erase f } := by
  simp only [Chan.absorb, h, ho, if_true]

/-- A fill without its oldest transaction. -/
def SlotFill.less (f : SlotFill) : SlotFill := { f with out := f.out.drop 1 }

theorem absorb_one (h : x.fills.find? p = some f) (ho : 1 < f.out.length) :
    x.absorb p = { x with fills := x.fills.map fun y => if y = f then f.less else y } := by
  have hle : ¬ f.out.length ≤ 1 := Nat.not_le.2 ho
  simp only [Chan.absorb, h, hle, if_false]
  congr 1
  refine List.map_congr_left fun y _ => ?_
  split
  · next hy => rw [hy, SlotFill.less]
  · rfl

/-- Every fill that gives up one of its transactions frees one credit. -/
theorem outstanding_less (ho : 1 ≤ f.out.length) (l : List SlotFill) :
    ((l.map fun y => if y = f then f.less else y).map fun y => y.out.length).sum + l.count f = (l.map fun y => y.out.length).sum := by
  induction l with
  | nil => rfl
  | cons y l ih =>
    simp only [List.map_cons, List.sum_cons, List.count_cons]
    by_cases hy : y = f
    · subst hy
      simp only [if_true, beq_self_eq_true, SlotFill.less, List.length_drop]
      simp only [SlotFill.less] at ih
      omega
    · simp only [hy, if_false, beq_iff_eq]
      omega

end

/-! ### The claim -/

/-- Settles O24: a start by the slot that may fill, a completion by the oldest live fill, a transfer by whether it starts or ends, and a response by
what its fill still has outstanding. -/
theorem slotFills : Obligations.SlotFills := by
  refine ⟨fun s c ch n d f => ?rows, fun s c ch f y => ?transfers, fun x p f hf => ⟨fun ho => absorb_last hf ho, fun ho => ?absorbed⟩⟩
  case rows =>
    intro x
    refine ⟨fun hs hm => slotFillStart_may hs hm, fun hs hc => ?_, fun hf hr hn => slotFillComplete_oldest hf hr hn,
      fun hf => slotFillComplete_none hf, rfl⟩
    have h := fillSlot_eq_some hs
    rwa [chanNow_of_no_crossing hc] at h
  case transfers =>
    intro x
    refine ⟨fun hn ho => runFill_last hn ho 158, fun hn => ?_⟩
    rw [startXfers_one hn]
    exact ⟨rfl, rfl⟩
  case absorbed =>
    rw [absorb_one hf ho]
    exact outstanding_less (Nat.le_of_lt ho) x.fills

end Sys2Proof.Machine
end

section
/-! PROOFS. Signals, takes and waits on a Waymark (R246, R248 to R250, R272). -/
namespace Sys2Proof.Machine

/-! ### Signals and takes -/

section
variable (w : Waymark) (b : Nat)

theorem le_roll_at : b ≤ (w.roll b).at_ := by
  unfold Waymark.roll
  split
  · exact Nat.le_refl b
  · next h => exact Nat.not_lt.1 h

variable {w b}

/-- A Waymark that has reached a beat is not rolled into it again. -/
theorem roll_of_reached (h : b ≤ w.at_) : w.roll b = w := if_neg (Nat.not_lt.2 h)

/-- Below the stop at 4,095 the sum itself shows. -/
theorem shown_toNat (hr : w.re = false) (hs : w.sum ≤ 4095) : w.shown.toNat = w.sum := by
  have hmin : Nat.min w.sum 4095 = w.sum := Nat.min_eq_left hs
  rw [Waymark.shown, hr, if_neg Bool.false_ne_true, hmin, BitVec.toNat_ofNat, Nat.mod_eq_of_lt (Nat.lt_succ_of_le hs)]

end

section
variable {k : Core} (hk : Sparse.Wf {} k.wms) (n : Fin 32) (b : Nat)
include hk

/-- A signal adds one to the signals of its beat; beside that it changes who signalled. -/
theorem signal_wm (e : BitVec 2) (pc : BitVec 15) : ∃ e' pc' f, (k.signal n e pc b).wm n
    = { (k.wm n).roll b with add := ((k.wm n).roll b).add + 1, eng := e', pc := pc', dbg := false, any := true, first := f } :=
  ⟨_, _, _, wm_setWm_same hk _ _⟩

theorem take_wm : (k.take n b).wm n = { (k.wm n).roll b with value := ((k.wm n).roll b).value - 1 } := wm_setWm_same hk _ _

/-- The sum tops 4,095 with a signal when what was left of takes no longer lowers it (R250). -/
theorem signal_tops (e : BitVec 2) (pc : BitVec 15) :
    let w := (k.wm n).roll b
    let t := k.signal n e pc b
    t.tops b n = true ↔ (if w.wr.isSome then 0 else t.takesLeft n b) + 4095 ≤ w.sum := by
  intro w t
  obtain ⟨e', pc', f, hw⟩ := signal_wm hk n b e pc
  have hroll : (t.wm n).roll b = t.wm n := roll_of_reached (by rw [hw]; exact le_roll_at _ _)
  have hsum : (t.wm n).sum = w.sum + 1 := by rw [hw]; rfl
  have hwr : (t.wm n).wr = w.wr := by rw [hw]
  simp only [Core.tops, hroll, hsum, hwr, decide_eq_true_eq]
  omega

theorem signal_shown (e : BitVec 2) (pc : BitVec 15) (hr : ((k.wm n).roll b).re = false) (hs : ((k.wm n).roll b).sum < 4095) :
    ((k.signal n e pc b).wm n).shown.toNat = ((k.wm n).roll b).shown.toNat + 1 := by
  obtain ⟨e', pc', f, hw⟩ := signal_wm hk n b e pc
  have hsum : ((k.signal n e pc b).wm n).sum = ((k.wm n).roll b).sum + 1 := by rw [hw]; rfl
  rw [shown_toNat (by rw [hw]; exact hr) (by omega), shown_toNat hr (Nat.le_of_lt hs), hsum]

/-- A take lowers the start value of its beat by one (R248). -/
theorem take_shown (hv : ((k.wm n).roll b).value ≠ 0) (hr : ((k.wm n).roll b).re = false) (hwr : ((k.wm n).roll b).wr = none)
    (hs : ((k.wm n).roll b).sum ≤ 4095) : ((k.take n b).wm n).shown.toNat + 1 = ((k.wm n).roll b).shown.toNat := by
  have hw := take_wm hk n b
  have hpos : 0 < ((k.wm n).roll b).value.toNat := Nat.pos_of_ne_zero fun h => hv (BitVec.eq_of_toNat_eq h)
  have hsub : (((k.wm n).roll b).value - 1).toNat + 1 = ((k.wm n).roll b).value.toNat := by bv_omega
  have hsum : ((k.take n b).wm n).sum + 1 = ((k.wm n).roll b).sum := by
    simp only [hw, Waymark.sum, hwr, Option.getD_none]
    omega
  rw [shown_toNat (by rw [hw]; exact hr) (by omega), shown_toNat hr hs, hsum]

end

section
variable {s : State} {c b : Nat}

/-- A signal changes the core; where the Waymark tops, the overflow of the beat is raised. -/
theorem signalWm_eq (hs : Sparse.Wf {} s.cores) (n : Fin 32) (eng : Nat) (pc : BitVec 15) :
    let k := (s.core c).signal n (BitVec.ofNat 2 eng) pc b
    s.signalWm c n eng pc b = if k.tops b n then (s.setCore c k).wmOverflow c b else s.setCore c k := by
  intro k
  have hc : (s.modCore c fun k => k.signal n (BitVec.ofNat 2 eng) pc b).core c = k := core_modCore_same hs c _
  rw [State.signalWm, hc]
  rfl

/-- The record of an overflow names the lowest-numbered Waymark that tops and its first signaller (R250). -/
theorem wmOverflow_names {n : Fin 32} {e : BitVec 2} {pc : BitVec 15} (hn : (List.finRange 32).find?
      (((s.core c).signalAll ((s.core c).signalsIn b)).tops b) = some n)
    (hf : (((s.core c).signalAll ((s.core c).signalsIn b)).wm n).first = some (e, pc)) :
    let k := (s.core c).signalAll ((s.core c).signalsIn b)
    s.wmOverflow c b = (s.setCore c { k with pendSig := k.pendSig.filter fun x => decide (x.due ≠ b) }).coreFault c b 0x0105
      (BitVec.ofNat 16 pc.toNat) (BitVec.ofNat 32 (n.val + e.toNat * 256)) 0xFFFFFFFF 0xFFFFFFFF (BitVec.ofNat 32 b) := by
  simp only [State.wmOverflow, hn, Option.getD_some, hf]

end

/-! ### Waits -/

section
variable {k : Core} {n : Fin 32} {h : Hdr}

/-- A wait on a Waymark that is zero, and was at the start of its beat, holds without end (R248). -/
theorem waitFrom_zero (hw : h.w = some n) (hs : (k.wm n).shown = 0) (hv : (k.wm n).value = 0) (b : Nat) : k.waitFrom h b = none := by
  simp [Core.waitFrom, hw, Waymark.openAt, hs, hv]

theorem whenOpen_zero (hw : h.w = some n) (hs : (k.wm n).shown = 0) (hv : (k.wm n).value = 0) (free : Nat → Option Nat) (b : Nat) :
    k.whenOpen h free b = none := by
  simp [Core.whenOpen, waitFrom_zero hw hs hv]

theorem heldHead_zero (hw : h.w = some n) (hs : (k.wm n).shown = 0) : k.heldHead (some h) = some n := by
  simp [Core.heldHead, hw, hs]

/-- What a core that stands before an instruction knows of it. -/
theorem atInstr_iff {op : AnyOp} :
    k.atInstr op h = true ↔ k.engLive = true ∧ k.haltAt.isNone = true ∧ k.pc.toNat < k.codeLen ∧ k.wordAtPc = encOp h op := by
  simp only [Core.atInstr, Bool.and_eq_true, decide_eq_true_eq, and_assoc]

theorem isParked_of_engLive (hl : k.engLive = true) : k.isParked = false := by
  have hr : k.status = .running := by
    simp only [Core.engLive, Core.runs, Bool.and_eq_true, decide_eq_true_eq] at hl
    exact hl.1
  simp [Core.isParked, hr]

/-- The word at PC reads back as the instruction that the core stands before. -/
theorem ccNext_of_atInstr {op : CcOp} (ha : k.atInstr (.cc op) h = true) (hl : op.legal = true) : k.ccNext = some (h, op) := by
  obtain ⟨-, hh, hp, hw⟩ := atInstr_iff.1 ha
  have hd : decOp (encOp h (.cc op)) = some (h, .cc op) := wordReadsBack h (.cc op) hl
  simp [Core.ccNext, hh, hp, hw, hd]

/-- WYM_WAIT shows the control core's wait on a Waymark at zero (R272). -/
theorem ccHeld_zero {op : CcOp} (ha : k.atInstr (.cc op) h = true) (hl : op.legal = true) (hw : h.w = some n) (hs : (k.wm n).shown = 0) :
    k.ccHeld = some n := by
  rw [Core.ccHeld, isParked_of_engLive (atInstr_engLive ha), ccNext_of_atInstr ha hl]
  exact heldHead_zero hw hs

end

/-- An instruction whose wait holds without end does not issue: the core is only brought forward to the beat before (R248, R249). -/
theorem issueCc_waits {s : State} {c : Nat} {op : CcOp} {h : Hdr} {regs : List Reg} {f : State → Nat → State} {n : Fin 32}
    (ha : (s.core c).atInstr (.cc op) h = true) (hw : h.w = some n) :
    let s1 := s.sync c ((s.core c).issueBeat regs - 1)
    ((s1.core c).wm n).shown = 0 → ((s1.core c).wm n).value = 0 → s.issueCc c op h regs f = s1 := by
  intro s1 hs hv
  have hto : s.toWait 4 c h ((s.core c).issueBeat regs) = (s1, none) := by
    simp only [State.toWait]
    rw [waitFrom_zero hw hs hv]
  simp only [State.issueCc, ha, hto, Bool.not_true, Bool.false_eq_true, if_false]

/-- Every legal control-core instruction is one issue of its operation. -/
theorem exec_ccForm {i : Instr} {c : CoreId} {h : Hdr} {op : CcOp} {regs : List Reg} (hf : i.ccForm = some (c, h, op, regs))
    (hl : op.legal = true) : ∃ f, ∀ s, exec i s = .next (s.issueCc c op h regs f) := by
  cases i with
  | ccShli | ccShri | ccSari | ccRds | ccRdsc =>
    cases hf
    exact ⟨_, fun _ => if_pos hl⟩
  | ccNop | ccHalt | ccAdd | ccSub | ccMul | ccAnd | ccOr | ccXor | ccShl | ccShr | ccSar | ccMin | ccMax | ccSlt | ccSltu | ccAddi | ccAndi
  | ccOri | ccXori | ccLi | ccLih | ccBeq | ccBne | ccBlt | ccBge | ccBltu | ccBgeu | ccJmp | ccLd | ccSt | ccParrive | ccPenter | ccPwait
  | ccPlevel =>
    cases hf
    exact ⟨_, fun _ => rfl⟩
  | _ => cases hf

/-- Settles O14: a signal by whether the sum tops, a wait by what a Waymark at zero opens, and every control-core row by its issue. -/
theorem waymarkCounts : Obligations.WaymarkCounts := by
  refine ⟨fun s c n eng pc b hs hk => ?counts, fun s c b n e pc => ?names, fun s i c n x op regs => ?waits, fun k n hs hv => ?dispatches⟩
  case counts =>
    intro w k left
    have htops : k.tops b n = true ↔ left + 4095 ≤ w.sum := signal_tops hk n b _ pc
    rw [signalWm_eq hs]
    refine ⟨fun hlt => ⟨if_neg fun ht => ?_, fun hsum hr => signal_shown hk n b _ pc hr hsum⟩, fun hle => if_pos (htops.2 hle),
      fun hv hr hwr hsum => take_shown hk n b hv hr hwr hsum⟩
    exact Nat.not_le.2 hlt (htops.1 ht)
  case names =>
    intro k hn hf
    exact wmOverflow_names hn hf
  case waits =>
    intro h s1 hf hl ha
    obtain ⟨f, hexec⟩ := exec_ccForm hf hl
    refine ⟨fun hs hv => ?_, fun hs => ccHeld_zero ha hl rfl hs⟩
    rw [hexec, issueCc_waits ha rfl hs hv]
  case dispatches =>
    refine ⟨fun e r hq hw => ?_, fun e r hq hw => ?_, fun e r hq hw => ?_⟩
    · simp only [Core.mmDispatch, hq, whenOpen_zero hw hs hv]
    · simp only [Core.veDispatch, hq, whenOpen_zero hw hs hv]
    · simp only [Core.stDispatch, hq, whenOpen_zero hw hs hv]

end Sys2Proof.Machine
end

section
/-! PROOFS. What an arrival at a Pass counts, a generation that gives way to the next, release notices, and a module's report at a ring Pass (R259 to
R262, R264, R268, R367). -/
namespace Sys2Proof.Machine

theorem pass_modPass_same {s : State} (hs : Sparse.Wf {} s.passes) (p : Nat) (f : Pass → Pass) : (s.modPass p f).pass p = f (s.pass p) :=
  sget_sset_same _ _ _ hs

/-! ### A generation gives way -/

section
variable {s : State} {p : Nat}

theorem passReady_iff : s.passReady p = true
    ↔ (s.pass p).arr = (s.participants p).length ∧ (s.pass p).arr ≠ 0 ∧ ((s.pass p).ring = true → s.ringAll p = true) := by
  simp only [State.passReady, Bool.and_eq_true, decide_eq_true_eq, and_assoc]
  cases (s.pass p).ring <;> simp

theorem completePass_incomplete (h : s.passReady p = false) : s.completePass p = s := by
  simp [State.completePass, h]

theorem completePass_once (h : s.passReady p = true) (hn : (s.nextGeneration p).passReady p = false) :
    s.completePass p = s.nextGeneration p := by
  simp [State.completePass, h, hn]

/-- The Pass in its next generation: NEXT and its cores are now ARR and CUR, and nothing is reported yet (R259). -/
theorem nextGeneration_pass (hs : Sparse.Wf {} s.passes) (p : Nat) : (s.nextGeneration p).pass p =
    { s.pass p with
      gen := !(s.pass p).gen, arr := (s.pass p).next, next := 0, cur := (s.pass p).nxt, nxt := 0, l := (s.pass p).lNext
      ring := (s.pass p).ringNext, lNext := false, ringNext := false, reported := false, pos := 0, rings := 0 } :=
  sget_sset_same _ _ _ hs

end

/-! ### Arrivals -/

/-- The count, L and RING of a generation of a Pass, the current one or the next. -/
def Pass.generation (x : Pass) (current : Bool) : Nat × Bool × Bool :=
  if current then (x.arr, x.l, x.ring) else (x.next, x.lNext, x.ringNext)

/-- Whether an arrival agrees with the L and RING that its generation has (R261); one that opens its generation does. -/
def Pass.agrees (x : Pass) (current l r : Bool) : Prop :=
  if current then x.arr = 0 ∨ (x.l = l ∧ x.ring = r) else x.next = 0 ∨ (x.lNext = l ∧ x.ringNext = r)

theorem not_agrees_iff {x : Pass} {current l r : Bool} : ¬ x.agrees current l r
    ↔ (x.generation current).1 ≠ 0 ∧ ((x.generation current).2.1 ≠ l ∨ (x.generation current).2.2 ≠ r) := by
  cases current <;> simp only [Pass.agrees, Pass.generation, Bool.false_eq_true, if_true, if_false] <;> tauto

/-- Whether the core's next arrival falls in the current generation of the Pass, by the parity of its arrivals (R259). -/
def State.arrivesNow (s : State) (c i : Nat) : Bool := decide (((s.core c).pview i).n % 2 = b2n (s.pass (idxKey c i)).gen)

/-- The module with an arrival counted, in the Pass and in the core's view. -/
def State.counted (s : State) (c i : Nat) (l r : Bool) : State :=
  (s.modPass (idxKey c i) fun x => x.count c (s.arrivesNow c i) l r).modCore c fun k => k.setPview i (((s.core c).pview i).arrived l)

section
variable {s : State} {c i : Nat} {l r : Bool} {pc : BitVec 15} (hb : (s.pass (idxKey c i)).brk = false)
include hb

/-- A third outstanding arrival is a fault (R260). -/
theorem arrive_third (ho : 2 ≤ ((s.core c).pview i).o) :
    s.arrive c i l r pc = s.passFault c i pc 0x0107 (s.pass (idxKey c i)).gen false false := by
  simp only [State.arrive, hb, ho, Bool.false_eq_true, if_false, if_true]

variable (ho : ((s.core c).pview i).o < 2)
include ho

/-- An arrival that does not agree with its generation is a fault that names what the generation has (R261). -/
theorem arrive_mismatch (ha : ¬ (s.pass (idxKey c i)).agrees (s.arrivesNow c i) l r) :
    let x := s.pass (idxKey c i)
    let g := x.generation (s.arrivesNow c i)
    s.arrive c i l r pc = s.passFault c i pc 0x0108 (if s.arrivesNow c i then x.gen else !x.gen) g.2.1 g.2.2 := by
  simp only [State.arrive, hb, Nat.not_le.2 ho, Bool.false_eq_true, if_false]
  exact if_pos (not_agrees_iff.1 ha)

/-- An arrival that agrees is counted; where it leaves its generation incomplete and no participant has ended without it, that is all (R259). -/
theorem arrive_counted (ha : (s.pass (idxKey c i)).agrees (s.arrivesNow c i) l r)
    (hr : (s.counted c i l r).passReady (idxKey c i) = false) (he : (s.counted c i l r).endedAbsent (idxKey c i) = none) :
    s.arrive c i l r pc = s.counted c i l r := by
  have hu : (s.counted c i l r).completePass (idxKey c i) = s.counted c i l r := completePass_incomplete hr
  simp only [State.arrive, hb, Nat.not_le.2 ho, Bool.false_eq_true, if_false]
  refine (if_neg fun hm => not_agrees_iff.2 hm ha).trans ?_
  rw [← State.arrivesNow, ← State.counted, hu, he]

end

/-- Settles O16: an arrival by what is outstanding, then by whether it agrees with its generation. -/
theorem arrivalCounts : Obligations.ArrivalCounts := by
  intro s c i l r pc x v cur t agree hb
  refine ⟨fun ho ha hr he => arrive_counted hb ho ha hr he, fun ho ha => ?_, fun ho => arrive_third hb ho⟩
  rw [arrive_mismatch hb ho ha]
  cases hcur : s.arrivesNow c i <;> rw [show cur = _ from hcur] <;> rfl

/-! ### Release notices -/

/-- A notice reaches its core, or is absorbed when the core has been reset since (R259, R268). -/
theorem releaseNotice_found {s : State} {c : CoreId} {p : PassId} {n : Notice}
    (hn : s.notices.find? (fun n => decide (n.core = c ∧ n.pass = passIdx p)) = some n) :
    let s1 := { s with notices := s.notices.erase n }
    exec (.releaseNotice c p) s = if n.rgen = s.coreGen c then .next (s1.modCore c fun k =>
      k.setPview (passIdx p) { k.pview (passIdx p) with o := (k.pview (passIdx p)).o - 1 }) else .next s1 := by
  intro s1
  show execReleaseNotice c p s = _
  simp only [execReleaseNotice, hn]
  rfl

/-- Settles O17: a Pass by its count and its rings, and a notice by the reset generation that it is addressed to. -/
theorem generationGivesWay : Obligations.GenerationGivesWay := by
  refine ⟨fun s p => ⟨passReady_iff, completePass_incomplete, fun hs hr => ?gives⟩, fun s c p n hn => ?notice⟩
  case gives =>
    intro t
    have ht : t.pass p = _ := nextGeneration_pass hs p
    rw [ht]
    exact ⟨rfl, rfl, rfl, rfl, rfl, rfl, rfl, rfl, completePass_once hr⟩
  case notice =>
    intro s1
    rw [releaseNotice_found hn]
    exact ⟨fun hg => if_pos hg, fun hg => if_neg hg⟩

/-! ### The report at a ring Pass -/

section
variable {s : State} {m : Fin 4}

/-- Whether a module may report its arrival at a ring Pass (R264, R367). -/
def State.reportDue (s : State) (m : Fin 4) : Prop :=
  s.runHolds = true ∧ (s.pass (16 + m)).ring = true ∧ (s.pass (16 + m)).reported = false
    ∧ (s.pass (16 + m)).arr = (s.participants (16 + m)).length ∧ s.sendOwed = false

theorem ringPassReport_due (h : s.reportDue m) :
    let s1 := s.modPass (16 + m) fun x => { x with reported := true, pos := x.pos ||| BitVec.ofNat 64 (2 ^ s.myPos) }
    exec (.ringPassReport m) s = .next (((s1.fullRing m).sendPass m).completePass (16 + m)) := by
  obtain ⟨hrun, hring, hrep, harr, howed⟩ := h
  exact if_pos (by simp [hrun, hring, hrep, harr, howed])

theorem ringPassReport_not_due (h : ¬ s.reportDue m) : exec (.ringPassReport m) s = .next s := by
  refine if_neg fun hd => h ?_
  simp only [Bool.and_eq_true, Bool.not_eq_true', decide_eq_true_eq, and_assoc] at hd
  exact hd

/-- RINGMASK takes the ring's bit once POSMASK holds every position of the ring (R367). -/
theorem fullRing_rings (hs : Sparse.Wf {} s.passes) {im : Loaded} (hi : s.runImage = some im) (m : Nat) :
    ((s.fullRing m).pass (16 + m)).rings = if (s.pass (16 + m)).pos = BitVec.ofNat 64 (2 ^ im.ringlen - 1)
      then (s.pass (16 + m)).rings ||| BitVec.ofNat 64 (2 ^ im.idx) else (s.pass (16 + m)).rings := by
  simp only [State.fullRing, hi]
  rw [pass_modPass_same hs]
  split <;> rfl

end

/-- Settles O34: a report by whether it is due, and RINGMASK by POSMASK. -/
theorem ringPassReports : Obligations.RingPassReports := by
  intro s m x s1
  refine ⟨fun hrun hring hrep harr howed => ringPassReport_due ⟨hrun, hring, hrep, harr, howed⟩, fun h => ringPassReport_not_due ?_,
    fun im hs hi => fullRing_rings hs hi m⟩
  rintro ⟨-, hring, hrep, harr, howed⟩
  rcases h with h | h | h | h
  · exact Bool.noConfusion (h.symm.trans hring)
  · exact Bool.noConfusion (h.symm.trans hrep)
  · exact h harr
  · exact Bool.noConfusion (h.symm.trans howed)

end Sys2Proof.Machine
end

section
/-! PROOFS. The movement round the ring: the sends of the plan, parcels that arrive, forwards, step timeouts and Detours (R280, R281, R289 to R294,
R359, R361, R369). -/
namespace Sys2Proof.Machine

/-! ### INJECT (R289) -/

section
variable {s : State} {r : Nat} {x : PlanRec}

theorem inject_not_due (h : s.dueNow r 0 = none) (ready : Bool) : execInject r ready s = .next s := by
  simp only [execInject, h]

variable (h : s.dueNow r 0 = some x)
include h

theorem inject_not_ready : execInject r false s = .next (s.sendOverrun r x 2) := by
  simp only [execInject, h, Bool.not_false, if_true]

/-- A stored parcel that is ready has been read, whatever comes of it. -/
theorem inject_ready : execInject r true s =
    let b := s.storedParcel x
    let read := s.useTurns .remote (s.storedAt x) b.length
    let w := parInject b s.runTag (x.hops - 1) x.port.toNat s.schedStep
    if s.storedOk x b = false then .next (read.mismatch (some r) x.port.toNat b)
    else if s.runHolds = false then .next read
    else .next (((read.noteSent r).sendParcel x.port.toNat w).land x w) := by
  simp only [execInject, h, Bool.not_true, Bool.false_eq_true, if_false, Bool.not_eq_true']

theorem inject_mismatch (hb : s.storedOk x (s.storedParcel x) = false) : execInject r true s =
    .next ((s.useTurns .remote (s.storedAt x) (s.storedParcel x).length).mismatch (some r) x.port.toNat (s.storedParcel x)) :=
  (inject_ready h).trans (if_pos hb)

variable (hb : s.storedOk x (s.storedParcel x) = true)
include hb

theorem inject_sends (hr : s.runHolds = true) :
    let b := s.storedParcel x
    let w := parInject b s.runTag (x.hops - 1) x.port.toNat s.schedStep
    execInject r true s = .next ((((s.useTurns .remote (s.storedAt x) b.length).noteSent r).sendParcel x.port.toNat w).land x w) :=
  (inject_ready h).trans ((if_neg (by simp [hb])).trans (if_neg (by simp [hr])))

theorem inject_stopped (hr : s.runHolds = false) :
    execInject r true s = .next (s.useTurns .remote (s.storedAt x) (s.storedParcel x).length) :=
  (inject_ready h).trans ((if_neg (by simp [hb])).trans (if_pos hr))

end

/-! ### SEND (R290) -/

/-- Every granule that a SEND record names is valid in its send slot. -/
def State.slotFull (s : State) (x : PlanRec) : Prop :=
  ∀ g < x.ngran, ((s.sendSlot x.port.toNat (x.src % 16)).settle s.ring.ms).valid.getLsbD g = true

section
variable {s : State} {r : Nat} {x : PlanRec}

theorem all_valid_iff_slotFull : ((List.range x.ngran).all fun g =>
    ((s.sendSlot x.port.toNat (x.src % 16)).settle s.ring.ms).valid.getLsbD g) = true ↔ s.slotFull x := by
  simp only [List.all_eq_true, List.mem_range, State.slotFull]

theorem send_not_due (h : s.dueNow r 1 = none) : execSend r s = .next s := by
  simp only [execSend, h]

variable (h : s.dueNow r 1 = some x)
include h

theorem send_not_full (hf : ¬ s.slotFull x) : execSend r s = .next (s.sendOverrun r x 3) := by
  simp only [execSend, h, if_neg (all_valid_iff_slotFull.not.2 hf)]

theorem send_stopped (hf : s.slotFull x) (hr : s.runHolds = false) : execSend r s = .next s := by
  simp only [execSend, h, if_pos (all_valid_iff_slotFull.2 hf), hr, Bool.not_false, if_true]

theorem send_sends (hf : s.slotFull x) (hr : s.runHolds = true) :
    let q := x.port.toNat
    let y := (s.sendSlot q (x.src % 16)).settle s.ring.ms
    let w := sendHeader s.runTag s.run.ctx.val s.run.edition.toNat x s.schedStep ++ rdBytes y.bytes 0 (64 * x.ngran)
    execSend r s = .next ((((s.modSendSlot q (x.src % 16) fun z => (z.settle s.ring.ms).sent).noteSent r).sendParcel q w).land x w) := by
  simp only [execSend, h, if_pos (all_valid_iff_slotFull.2 hf), hr, Bool.not_true, Bool.false_eq_true, if_false]

end

/-- Settles O30: INJECT and SEND, each by whether its record is due, what it would send is there, and the run still holds. -/
theorem planSends : Obligations.PlanSends := by
  intro s r x q b y read done
  refine ⟨fun h hb => ⟨inject_sends h hb, inject_stopped h hb⟩, inject_not_ready, inject_mismatch,
    fun h hf => ⟨send_sends h hf, send_stopped h hf⟩, fun h hg => send_not_full h ?_, inject_not_due, send_not_due⟩
  obtain ⟨g, hlt, hg⟩ := hg
  exact fun hf => Bool.false_ne_true (hg.symm.trans (hf g hlt))

/-! ### What an arriving parcel meets first (R280, R337, R341) -/

section
variable {s : State} {q : Nat} {b : List Byte} {f : State → State}

theorem parcelIn_not_ready (h : (s.port q).st ≠ .ready) : s.parcelIn q b f = s := if_pos (.inl h)

variable (hq : (s.port q).st = .ready) (hz : allZero (b.take 64) = false)
include hq hz

theorem parcelIn_ready : s.parcelIn q b f = if parCrcOk b then f (s.modPort q fun p => { p with prx := p.prx + 1 })
    else ({ s with ring := { s.ring with hdrdrop := sat32 s.ring.hdrdrop 1 } }).logLink q :=
  if_neg (by simp [hq, hz])

theorem parcelIn_good (hc : parCrcOk b = true) : s.parcelIn q b f = f (s.modPort q fun p => { p with prx := p.prx + 1 }) :=
  (parcelIn_ready hq hz).trans (if_pos hc)

theorem parcelIn_bad (hc : parCrcOk b = false) :
    s.parcelIn q b f = ({ s with ring := { s.ring with hdrdrop := sat32 s.ring.hdrdrop 1 } }).logLink q :=
  (parcelIn_ready hq hz).trans (if_neg (by simp [hc]))

end

/-! ### PARCEL_ARRIVAL and DETOUR_ARRIVAL (R291, R359, R369) -/

/-- A run in the idle phase is not bound, so no tag is the running job's. -/
theorem isRunTag_idle {s : State} (h : s.run.phase = .idle) (tag : Nat) : s.isRunTag tag = false := by
  simp only [State.isRunTag, State.runBound, h, Bool.false_and]

section
variable {s : State} {q : PortId} {b : List Byte}

/-- While the program runs every parcel passes the port's checks, and so does one whose HCRC fails at any time. -/
theorem parcelArrival_checked (h : parCrcOk b = false ∨ s.runHolds = true) : execParcelArrival q b s =
    .next (s.parcelIn q b fun s => if s.isRunTag (parTag b) then s.matchParcel q b else s.foreignParcel q b) := by
  rcases h with hc | hr
  · simp only [execParcelArrival, hc, Bool.false_and, Bool.false_eq_true, if_false]
  · have hp : s.run.phase = .running := of_decide_eq_true hr
    simp only [execParcelArrival, hr, hp, Bool.not_true, Bool.and_false, reduceCtorEq, decide_false, Bool.false_and, Bool.false_eq_true, if_false]

theorem parcelArrival_not_ready (h : (s.port q).st ≠ .ready) : execParcelArrival q b s = .next s := by
  simp only [execParcelArrival, parcelIn_not_ready h, if_neg h, ite_self]

theorem parcelArrival_stopped (hp : s.run.phase = .idle) (hs : s.run.stopped = true) (hc : parCrcOk b = true) (ht : parTag b = s.runTag)
    (h0 : parTag b ≠ 0) (hq : (s.port q).st = .ready) : execParcelArrival q b s = .next (s.lateParcel q b) := by
  refine (if_neg (by simp [isRunTag_idle hp])).trans ((if_pos (by simp [hp, hs, hc, ← ht, h0])).trans ?_)
  rw [if_pos hq]

/-- The running tag is left to PARCEL_ARRIVAL. -/
theorem detourArrival_runTag (hc : parCrcOk b = true) (ht : s.isRunTag (parTag b) = true) : execDetourArrival q b s = .next s :=
  if_pos (by simp [hc, ht])

theorem detourArrival_checked (h : parCrcOk b = false ∨ s.isRunTag (parTag b) = false) :
    execDetourArrival q b s = .next (s.parcelIn q b fun s => s.foreignParcel q b) :=
  if_neg (by simpa [imp_iff_not_or] using h)

theorem detourArrival_not_ready (h : (s.port q).st ≠ .ready) : execDetourArrival q b s = .next s := by
  simp only [execDetourArrival, parcelIn_not_ready h, ite_self]

/-- Where no record has met Step Timeout, and none meets it now, a parcel after the stop changes nothing. -/
theorem lateParcel_dropped (ht : s.ring.timedOut = []) (hn : s.stoppedNow = false) (q : Nat) : s.lateParcel q b = s := by
  unfold State.lateParcel
  cases s.recvRec q (parStep b) with
  | none => rfl
  | some i =>
    cases hi : s.planRec i with
    | none => simp only [hi]
    | some x => simp only [hi, hn, ht, List.contains_nil, Bool.false_and, Bool.false_eq_true, if_false]

end

/-- Settles O31: a parcel by its port, its HCRC, its tag and the phase of the run. -/
theorem parcelsArrive : Obligations.ParcelsArrive := by
  intro s q b s1
  refine ⟨fun hq hz hc hr ht => ⟨?running, detourArrival_runTag hc ht⟩, fun hq hz hc ht => ?foreign, fun hq hz hc => ⟨?bad, ?badDetour⟩,
    fun hq => ⟨parcelArrival_not_ready hq, detourArrival_not_ready hq⟩, fun hp hs hc ht h0 hq => ?stopped⟩
  case running =>
    refine (parcelArrival_checked (.inr hr)).trans (congrArg _ ?_)
    rw [parcelIn_good hq hz hc]
    exact if_pos ht
  case foreign =>
    refine (detourArrival_checked (.inr ht)).trans (congrArg _ ?_)
    rw [parcelIn_good hq hz hc]
    rfl
  case bad => exact (parcelArrival_checked (.inl hc)).trans (congrArg _ (parcelIn_bad hq hz hc))
  case badDetour => exact (detourArrival_checked (.inl hc)).trans (congrArg _ (parcelIn_bad hq hz hc))
  case stopped =>
    have hl : exec (.parcelArrival q b) s = .next (s.lateParcel q b) := parcelArrival_stopped hp hs hc ht h0 hq
    exact ⟨hl, fun he hn => hl.trans (congrArg _ (lateParcel_dropped he hn q))⟩

/-! ### Step Timeout (R292, R294) -/

section
variable {s : State} {r : Nat} {x : PlanRec}

theorem unmatched_iff : s.unmatched r x = true ↔ 2 ≤ x.act ∧ r ∉ s.ring.matched ∧ r ∉ s.ring.timedOut := by
  simp [State.unmatched, and_assoc]

theorem unmatched_done (h : r ∈ s.ring.matched ∨ r ∈ s.ring.timedOut) : s.unmatched r x = false := by
  rw [Bool.eq_false_iff, ne_eq, unmatched_iff]
  tauto

theorem timeoutDue_done (h : r ∈ s.ring.matched ∨ r ∈ s.ring.timedOut) : s.timeoutDue r x = false := by
  rw [State.timeoutDue, unmatched_done h, Bool.false_and]

theorem forwardDue_done (h : r ∈ s.ring.matched ∨ r ∈ s.ring.timedOut) : s.forwardDue r x = false := by
  rw [State.forwardDue, unmatched_done h, Bool.false_and, Bool.false_and]

theorem timeoutDue_unmatched (h : s.unmatched r x = true) :
    s.timeoutDue r x = decide (s.recStep x + s.layerTimeout x.layer ≤ s.schedStep) := by
  rw [State.timeoutDue, h, Bool.true_and]

theorem forwardDue_unmatched (h : s.unmatched r x = true) :
    s.forwardDue r x = (decide (x.act = 3) && decide (s.recStep x + 2 ≤ s.schedStep)) := by
  rw [State.forwardDue, h, Bool.true_and]

/-- A lost forward goes before a time-out that is due with it. -/
theorem timeoutFirst_due (h : s.timeoutDue r x = true ∨ s.forwardDue r x = true) :
    s.timeoutFirst r x = s.stepTimeoutOf r x (s.forwardDue r x) := by
  unfold State.timeoutFirst
  cases hf : s.forwardDue r x with
  | true => rfl
  | false => exact (if_neg Bool.false_ne_true).trans (if_pos (h.resolve_right (by simp [hf])))

theorem timeoutFirst_done (h : r ∈ s.ring.matched ∨ r ∈ s.ring.timedOut) : s.timeoutFirst r x = s := by
  simp only [State.timeoutFirst, forwardDue_done h, timeoutDue_done h, Bool.false_eq_true, if_false]

variable (hx : s.planRec r = some x)
include hx

theorem stepTimeout_eq : execStepTimeout r s =
    if s.runInStep = true ∧ s.timeoutDue r x = true then .next (s.stepTimeoutOf r x false) else .next s := by
  simp only [execStepTimeout, hx, Bool.and_eq_true]

theorem forwardSlotLost_eq : execForwardSlotLost r s =
    if s.runInStep = true ∧ s.forwardDue r x = true then .next (s.stepTimeoutOf r x true) else .next s := by
  simp only [execForwardSlotLost, hx, Bool.and_eq_true]

theorem stepTimeout_not_due (h : r ∈ s.ring.matched ∨ r ∈ s.ring.timedOut ∨ s.runInStep = false) : execStepTimeout r s = .next s := by
  refine (stepTimeout_eq hx).trans (if_neg fun ⟨hr, hd⟩ => ?_)
  exact Bool.false_ne_true ((timeoutDue_done (h.imp_right (·.resolve_right (by simp [hr])))).symm.trans hd)

theorem forwardSlotLost_not_due (h : r ∈ s.ring.matched ∨ r ∈ s.ring.timedOut ∨ s.runInStep = false) :
    execForwardSlotLost r s = .next s := by
  refine (forwardSlotLost_eq hx).trans (if_neg fun ⟨hr, hd⟩ => ?_)
  exact Bool.false_ne_true ((forwardDue_done (h.imp_right (·.resolve_right (by simp [hr])))).symm.trans hd)

/-! ### A parcel that is its record's (R291 to R294) -/

variable {q : Nat} {b : List Byte} (hr : s.recvRec q (parStep b) = some r) (hd : s.differs x b = false) (hm : r ∉ s.ring.matched)
include hr hd hm

theorem matchParcel_late (h : r ∈ s.ring.timedOut ∨ s.forwardDue r x = true ∨ s.timeoutDue r x = true) :
    s.matchParcel q b = (s.timeoutFirst r x).landLate r x b := by
  simp only [State.matchParcel, hr, hx]
  exact (if_neg (by simp [hm, hd])).trans (if_pos (by simpa [or_assoc] using h))

theorem matchParcel_inTime (ht : r ∉ s.ring.timedOut) (hf : s.forwardDue r x = false) (hl : s.timeoutDue r x = false) :
    s.matchParcel q b = State.land { s with ring := { s.ring with
      matched := r :: s.ring.matched, rx := s.ring.rx + 1
      forwards := if x.act = 3 then s.ring.forwards ++ [Forward.mk r b] else s.ring.forwards } } x b := by
  simp only [State.matchParcel, hr, hx]
  exact (if_neg (by simp [hm, hd])).trans (if_neg (by simp [ht, hf, hl]))

end

/-! ### RECVF_FORWARD and DETOUR_SEND (R292, R361) -/

theorem recvfForward_sends {s : State} {r : Nat} {x : PlanRec} {f : Forward} (hx : s.planRec r = some x) (hr : s.runHolds = true)
    (hf : s.ring.forwards.find? (fun f => decide (f.rix = r)) = some f) (hs : s.schedStep = s.recStep x + 1) :
    execRecvfForward r s = .next ({ s with ring := { s.ring with forwards := s.ring.forwards.erase f } }.sendParcel
      (if x.port = 0 then 1 else 0) (parForward f.bytes (parHops f.bytes - 1) s.schedStep)) := by
  simp only [execRecvfForward, hf, hx]
  exact if_pos (by simp [hr, hs])

/-- The conditions under which the parcel that stands first in a Detour buffer leaves: a READY port that has sent nothing in this frame, the
crossing of the Spine behind it, and a phase that the entry owns at the start of a frame. -/
def State.detourDue (s : State) (e : Route) (em : Nat) : Prop :=
  e.transit = true ∧ (s.port e.outp).st = .ready ∧ (s.port e.outp).lastTx ≠ s.ring.ms + 1 ∧ em + 1 + crossTime e.laneCount ≤ s.ring.ms
    ∧ bitOf (e.sphase e.outp) (s.ring.ms % 16) = true ∧ (e.outp < 2 ∨ s.ring.ms % 4 = 0)

theorem detourSend_oldest {s : State} {tag : BitVec 12} {em : Nat} {b : List Byte} {r : List (Nat × List Byte)}
    (hq : (s.detour tag.toNat).queue = (em, b) :: r) (hd : s.detourDue (s.route tag.toNat) em) :
    let e := s.route tag.toNat
    execDetourSend tag s = .next ((s.modDetour tag.toNat fun d => { d with queue := r }).putParcel e.outp
      (parRestep b (lastStep e.inp b + (s.ring.ms - em)))) := by
  obtain ⟨htransit, hready, hfree, hcross, hphase, hframe⟩ := hd
  have hdrop : (s.modDetour tag.toNat fun d => { d with queue := d.queue.drop 1 }) = s.modDetour tag.toNat fun d => { d with queue := r } := by
    simp only [State.modDetour, hq, List.drop_one, List.tail_cons]
  simp only [execDetourSend, hq, hdrop]
  exact if_pos (by simpa [htransit, hready, hfree, hcross, hphase] using hframe)

/-- Settles O32: a record by whether it is unmatched and what of its time has run out, and a Detour buffer by its oldest parcel. -/
theorem forwardsAndDetours : Obligations.ForwardsAndDetours := by
  refine ⟨fun s r x f q b hx => ⟨recvfForward_sends hx, fun hm ht ha => ?unmatched, fun hr hd hm ht => ?timedOut,
      fun h => ⟨stepTimeout_not_due hx h, forwardSlotLost_not_due hx h⟩⟩,
    fun s tag em b r hq htransit hready hfree hcross hphase hframe =>
      detourSend_oldest hq ⟨htransit, hready, hfree, hcross, hphase, hframe⟩⟩
  case unmatched =>
    intro late lost
    have hu : s.unmatched r x = true := unmatched_iff.2 ⟨ha, hm, ht⟩
    have hlate : s.timeoutDue r x = late := timeoutDue_unmatched hu
    have hlost : s.forwardDue r x = lost := forwardDue_unmatched hu
    refine ⟨fun hi hl => (stepTimeout_eq hx).trans (if_pos ⟨hi, hlate.trans hl⟩),
      fun hi hl => (forwardSlotLost_eq hx).trans (if_pos ⟨hi, hlost.trans hl⟩),
      fun hr hd => ⟨fun hl hf => matchParcel_inTime hx hr hd hm ht (hlost.trans hf) (hlate.trans hl), fun h => ?_⟩⟩
    rw [← hlate, ← hlost] at h
    rw [matchParcel_late hx hr hd hm (.inr h.symm), timeoutFirst_due h, hlost]
  case timedOut => rw [matchParcel_late hx hr hd hm (.inl ht), timeoutFirst_done (.inr ht)]

end Sys2Proof.Machine
end

section
/-! PROOFS. The commands of a context and of its edition slots (R300 to R303, R310 to R316, R323, R326, R412, R422). -/
namespace Sys2Proof.Machine

/-! ### STATUS and the commands of a context -/

section
variable {s : State} {m : MbxId} {j : Job}

theorem status_starts (h : s.starts m 0x0001 .plain [] j) :
    exec (.status m) s = .next ((s.takeEntry m).putCompletion j 0 0
      (leBytes 4 s.glbState ++ leBytes 2 s.boot.cores ++ leBytes 2 (b2n s.boot.strict)
        ++ leBytes 8 ((List.range 64).map fun x => if (s.ctx x).opened then 2 ^ x else 0).sum ++ leBytes 1 (s.inprog m + 1))) :=
  congrArg _ (startCmd_starts (d := ⟨0x0001, .plain, [], noArgs⟩) h (by decide) rfl rfl)

/-- OPEN_CONTEXT with a number of slots that R300 allows: an open context refuses it, and then the place that its ranges find decides. -/
theorem openContext_starts (h : s.starts m 0x0002 .context [(0, 20)] j) (h1 : 1 ≤ leAt j.args 0 4) (h4 : leAt j.args 0 4 ≤ 4) :
    let t := s.takeEntry m
    let x := j.ctx.toNat
    let o := t.placeCtx (leAt j.args 0 4) (leAt j.args 4 4 * unit64) (leAt j.args 8 4 * unit64) (leAt j.args 12 4 * unit64)
      (leAt j.args 16 4 * 4096)
    exec (.openContext m) s = .next (if (s.ctx x).opened then t.putCompletion j 7 0x41 []
      else o.elim (t.putCompletion j 8 0 []) fun k => (t.modCtx x fun _ => k).putCompletion j 0 0 k.openData) := by
  refine congrArg _ ((startCmd_starts (d := ⟨0x0002, .context, [(0, 20)], fun a => decide (1 ≤ leAt a 0 4) && decide (leAt a 0 4 ≤ 4)⟩) h
    (by decide) rfl (by simp [h1, h4])).trans ?_)
  refine ite_congr rfl (fun _ => rfl) fun _ => ?_
  split
  all_goals
    next hk =>
      rw [hk]
      rfl

/-- What keeps a context open (R303): a pinned slot, or a command in progress that names it. -/
def State.ctxInUse (s : State) (x : Nat) : Bool :=
  (List.range 4).any (fun e => decide (((s.ctx x).slot e).pin ≠ 0)) || s.jobs.any (fun k => k.names x)

theorem ctxInUse_iff {x : Nat} :
    s.ctxInUse x = true ↔ (∃ e < 4, ((s.ctx x).slot e).pin ≠ 0) ∨ ∃ i ∈ s.jobs, i.names x = true := by
  simp [State.ctxInUse]

theorem closeContext_starts (h : s.startsOpen m 0x0003 [] j) :
    let t := s.takeEntry m
    let x := j.ctx.toNat
    exec (.closeContext m) s = .next (if s.ctxInUse x then t.putCompletion j 7 0x45 [] else (t.closeCtx x).putCompletion j 0 0 []) :=
  congrArg _ (openCmd_starts (ok := noArgs) h (by decide) rfl)

theorem setWindow_starts (h : s.startsOpen m 0x0041 [(0, 2)] j) (hr : leAt j.args 0 2 + 64 ≤ 1072) :
    let t := s.takeEntry m
    exec (.setWindow m) s = .next (State.putCompletion
      { t with host := { t.host with window := some (j.ctxId, leAt j.args 0 2), windowLogged := false } } j 0 0 []) :=
  congrArg _ (openCmd_starts (ok := fun a => decide (leAt a 0 2 + 64 ≤ 1072)) h (by decide) (decide_eq_true hr))

end

/-- Settles O40: OPEN_CONTEXT by its context and the place that its ranges find, CLOSE_CONTEXT by what is in use. -/
theorem contextCommands : Obligations.ContextCommands := by
  intro s m j k t x
  refine ⟨status_starts, fun h h1 h4 => ⟨fun ho hp => ?placed, fun ho hp => ?noPlace, fun ho => ?opened⟩, fun h hp hj => ?closes,
    fun h hu => ?inUse, setWindow_starts⟩
  case placed =>
    refine (openContext_starts h h1 h4).trans (congrArg _ ?_)
    rw [if_neg (Bool.eq_false_iff.1 ho), show t.placeCtx _ _ _ _ _ = _ from hp]
    rfl
  case noPlace =>
    refine (openContext_starts h h1 h4).trans (congrArg _ ?_)
    rw [if_neg (Bool.eq_false_iff.1 ho), show t.placeCtx _ _ _ _ _ = _ from hp]
    rfl
  case opened => exact (openContext_starts h h1 h4).trans (congrArg _ (if_pos ho))
  case closes =>
    refine (closeContext_starts h).trans (congrArg _ (if_neg fun hu => ?_))
    rcases ctxInUse_iff.1 hu with ⟨e, he, hne⟩ | ⟨i, hi, hn⟩
    · exact hne (hp e he)
    · exact Bool.false_ne_true ((hj i hi).symm.trans hn)
  case inUse => exact (closeContext_starts h).trans (congrArg _ (if_pos (ctxInUse_iff.2 hu)))

/-! ### The commands of an edition slot -/

section
variable {s : State} {m : MbxId} {j : Job}

/-- The slot that a command names is one of its context's. -/
theorem needSlot_slot {f : State → State} (ho : (s.ctx j.ctx.toNat).opened = true) (he : j.slotArg < (s.ctx j.ctx.toNat).eslots) :
    s.needSlot j f = f s := (needOpen_open ho).trans (if_pos he)

/-- A command of an edition slot acts on the module that has taken its entry. -/
theorem slotCmd_starts {opc : Nat} {named : List (Nat × Nat)} {ok : List Byte → Bool} {f : Job → State → State}
    (h : s.startsOpen m opc named j) (he : j.slotArg < (s.ctx j.ctx.toNat).eslots) (hk : knownOpc opc = true) (ha : ok j.args = true) :
    s.startCmd m ⟨opc, .context, named, ok⟩ anyArgs (fun s j => s.needSlot j (f j)) = f j (s.takeEntry m) :=
  (startCmd_starts (d := ⟨opc, .context, named, ok⟩) h.1 hk rfl ha).trans (needSlot_slot h.2 he)

/-- What LOAD_EDITION asks of its arguments: the source, and of a peer its position, its context and its slot. -/
def loadArgs (a : List Byte) : Bool := decide (leAt a 1 1 ≤ 1) && (decide (leAt a 1 1 = 0)
  || (decide (leAt a 2 1 < 64) && decide (leAt a 3 1 < 64) && decide (leAt a 4 1 < 64) && decide (leAt a 5 1 < 4)))

/-- A load from a peer goes in progress on a free stream, and the peer is asked for the edition: a damaged slot's own, else any. -/
def State.loadFromPeer (s : State) (j : Job) (n : Byte) (k : Slot) : State :=
  let u := (s.pushJob { j with phase := .peerLoad n k.dmg }).askPeer j n (if k.dmg then k.edition else 0)
  { u with links := { u.links with streams := u.links.streams ++ [⟨n, [], none, u.ring.ms⟩] } }

/-- LOAD_EDITION from the slot's own area: the slots that it takes are EMPTY, FAILED, or damaged and not yet LOADING (R310, R326). -/
theorem loadEdition_local (h : s.startsOpen m 0x0020 [(0, 6)] j) (he : j.slotArg < (s.ctx j.ctx.toNat).eslots) (ha : leAt j.args 1 1 = 0) :
    let t := s.takeEntry m
    let x := j.ctx.toNat
    let k := (s.ctx x).slot j.slotArg
    exec (.loadEdition m) s = .next (if k.st = .empty ∨ k.st = .failed ∨ (k.dmg = true ∧ k.st ≠ .loading)
      then ((if k.dmg then t else t.modSlot x j.slotArg fun k => { k with st := .loading }).pushJob j).beginLoad j k.dmg
      else t.putCompletion j 7 0x42 []) := by
  refine congrArg _ ((slotCmd_starts (ok := loadArgs) h he (by decide) (by simp [loadArgs, ha])).trans ?_)
  rw [if_neg (by simp [ha])]
  simp only [ha, takeEntry_ctx, Nat.zero_ne_one, if_false]
  rfl

/-- LOAD_EDITION from a peer: the peer must be a module of the slice, the slot one that a load takes, and a stream free (R312, R368). -/
theorem loadEdition_peer (h : s.startsOpen m 0x0020 [(0, 6)] j) (he : j.slotArg < (s.ctx j.ctx.toNat).eslots) (ha : leAt j.args 1 1 = 1)
    (hok : loadArgs j.args = true) :
    let t := s.takeEntry m
    let x := j.ctx.toNat
    let k := (s.ctx x).slot j.slotArg
    exec (.loadEdition m) s = .next (if s.inSlice x (leAt j.args 2 1) (leAt j.args 3 1) = false then t.putCompletion j 3 0x40 []
      else if k.st = .empty ∨ k.st = .failed ∨ (k.dmg = true ∧ k.st ≠ .loading) then
        match s.freeStream with
        | none => t.putCompletion j 8 0 []
        | some n => ((if k.dmg then t else t.modSlot x j.slotArg fun k => { k with st := .loading }).loadFromPeer j n k)
      else t.putCompletion j 7 0x42 []) := by
  refine congrArg _ ((slotCmd_starts (ok := loadArgs) h he (by decide) hok).trans ?_)
  simp only [ha, true_and, if_true]
  rfl

/-- PUBLISH of a VERIFIED slot while none is PENDING. -/
theorem publish_verified (h : s.startsOpen m 0x0021 [(0, 2), (8, 8)] j) (he : j.slotArg < (s.ctx j.ctx.toNat).eslots)
    (ha : leAt j.args 1 1 < 4) (hv : ((s.ctx j.ctx.toNat).slot j.slotArg).st = .verified)
    (hd : ((s.ctx j.ctx.toNat).slot j.slotArg).dmg = false) (hp : (s.ctx j.ctx.toNat).slotIn .pending = none) :
    let t := s.takeEntry m
    let x := j.ctx.toNat
    let e := j.slotArg
    let at_ := leAt j.args 8 8
    let keep := bitOf (leAt j.args 1 1) 1
    exec (.publish m) s = .next (if bitOf (leAt j.args 1 1) 0 then
        if at_ < s.ring.ms + 1024 then t.putCompletion j 7 0x44 []
        else ((t.modSlot x e fun k => { k with st := .pending }).modCtx x fun k => { k with at_ := at_, atKeep := keep }).putCompletion j 0 0 [4]
      else (t.makeLive x e keep false).putCompletion j 0 0 [5]) := by
  refine congrArg _ ((slotCmd_starts (ok := fun a => decide (leAt a 1 1 < 4)) h he (by decide) (decide_eq_true ha)).trans ?_)
  rw [if_neg (by simp [hv, hd]), if_neg (by simp [hp])]
  rfl

theorem unpublish_starts (h : s.startsOpen m 0x0022 [(0, 1)] j) (he : j.slotArg < (s.ctx j.ctx.toNat).eslots) :
    let t := s.takeEntry m
    let x := j.ctx.toNat
    exec (.unpublish m) s = .next (if ((s.ctx x).slot j.slotArg).st = .pending
      then ((t.modSlot x j.slotArg fun k => { k with st := .verified }).modCtx x fun k => { k with at_ := 0, atKeep := false }).putCompletion j 0 0 []
      else t.putCompletion j 7 0x42 []) :=
  congrArg _ (slotCmd_starts (ok := noArgs) h he (by decide) rfl)

theorem unloadEdition_starts (h : s.startsOpen m 0x0023 [(0, 1)] j) (he : j.slotArg < (s.ctx j.ctx.toNat).eslots) :
    let t := s.takeEntry m
    let x := j.ctx.toNat
    let k := (s.ctx x).slot j.slotArg
    exec (.unloadEdition m) s = .next (if k.st = .verified ∨ k.st = .failed then (t.releaseSlot x j.slotArg).putCompletion j 0 0 []
      else t.putCompletion j 7 0x42 []) :=
  congrArg _ (slotCmd_starts (ok := noArgs) h he (by decide) rfl)

/-- A stream that is free serves no command in progress. -/
theorem freeStream_unused {n : Byte} (h : s.freeStream = some n) : ∀ i ∈ s.jobs, i.streams n = false := by
  obtain ⟨i, hi, rfl⟩ := Option.map_eq_some_iff.1 h
  simpa using List.find?_some hi

end

/-- Settles O42: each command by its slot's state, a load by its source, and a PUBLISH by whether it names a Milestone. -/
theorem editionCommands : Obligations.EditionCommands := by
  intro s m j t x e k he
  refine ⟨fun h ha hd hs => ?empty, fun h ha hd hs => ?damaged, fun h ha h2 h3 h4 h5 => ⟨fun hi => ?notInSlice, fun hi hk => ?inSlice⟩,
    fun n => freeStream_unused, fun h ha hd h1 h2 => ?taken, fun h ha hv hd => ⟨fun hp hb => ?now, fun hp hb ht => ?later, fun hp hb ht => ?late⟩,
    fun h hs => ?unpublished, fun h hs => ?notPending, fun h hs => ?unloaded⟩
  case empty =>
    refine (loadEdition_local h he ha).trans (congrArg _ ?_)
    rw [if_pos (hs.imp_right Or.inl), hd]
    rfl
  case damaged =>
    refine (loadEdition_local h he ha).trans (congrArg _ ?_)
    rw [if_pos (.inr (.inr ⟨hd, hs⟩)), hd]
    rfl
  case notInSlice => exact (loadEdition_peer h he ha (by simp [loadArgs, *])).trans (congrArg _ (if_pos hi))
  case inSlice =>
    have hk : k.st = .empty ∨ k.st = .failed ∨ (k.dmg = true ∧ k.st ≠ .loading) := by tauto
    have hl := (loadEdition_peer h he ha (by simp [loadArgs, *])).trans
      (congrArg _ ((if_neg (ne_false_of_eq_true hi)).trans (if_pos hk)))
    refine ⟨fun hf => ?_, fun n hf => ?_⟩
    all_goals
      rw [hf] at hl
      exact hl
  case taken =>
    refine (loadEdition_local h he ha).trans (congrArg _ (if_neg (not_or.2 ⟨h1, not_or.2 ⟨h2, fun hk => ?_⟩⟩)))
    exact Bool.false_ne_true (hd.symm.trans hk.1)
  case now => exact (publish_verified h he ha hv hd hp).trans (congrArg _ (if_neg (by simp [hb])))
  case later => exact (publish_verified h he ha hv hd hp).trans (congrArg _ ((if_pos hb).trans (if_neg (Nat.not_lt.2 ht))))
  case late => exact (publish_verified h he ha hv hd hp).trans (congrArg _ ((if_pos hb).trans (if_pos ht)))
  case unpublished => exact (unpublish_starts h he).trans (congrArg _ (if_pos hs))
  case notPending => exact (unpublish_starts h he).trans (congrArg _ (if_neg hs))
  case unloaded => exact (unloadEdition_starts h he).trans (congrArg _ (if_pos hs))

end Sys2Proof.Machine
end

section
/-! PROOFS. RUN_BATCH, STOP_RUN and DMA (R307, R318, R365, R369, R415, R424). -/
namespace Sys2Proof.Machine

/-! ### RUN_BATCH and STOP_RUN -/

section
variable {s : State} {m : MbxId} {j : Job}

/-- RUN_BATCH of a loaded and bound context takes its place among the commands in progress, and begins when no batch holds the module (R424). -/
theorem runBatch_bound (h : s.startsOpen m 0x0030 [(0, 5)] j) (hr : leAt j.args 0 4 ≠ 0) (hp : leAt j.args 4 1 < 64 ∨ leAt j.args 4 1 = 0xFF)
    (hl : (s.ctx j.ctx.toNat).loaded.isSome = true) (ht : (s.ctx j.ctx.toNat).tag.isSome = true) :
    let i : Job := { j with phase := .runWaiting }
    let w := (s.takeEntry m).pushJob i
    exec (.runBatch m) s = .next (if s.runFree then w.beginRun i else w) := by
  refine congrArg _ ((openCmd_starts (ok := fun a => decide (leAt a 0 4 ≠ 0) && (decide (leAt a 4 1 < 64) || decide (leAt a 4 1 = 0xFF))) h
    (by decide) (by simp [hr, hp])).trans ?_)
  exact if_neg (by simp [Option.isSome_iff_ne_none.1 hl, Option.isSome_iff_ne_none.1 ht])

/-- The run that a STOP_RUN names is the one in agreement or running (R369). -/
theorem stopRun_starts (h : s.startsOpen m 0x0031 [(0, 4)] j) :
    let t := s.takeEntry m
    exec (.stopRun m) s = .next (if s.run.phase ≠ .idle ∧ s.run.ctx.val = j.ctx.toNat ∧ s.run.runid.toNat = leAt j.args 0 4
      then (t.stopAll 0 s.myPos s.myIdx s.schedStep).putCompletion j 0 0 [] else t.putCompletion j 7 0x41 []) := by
  refine congrArg _ ((openCmd_starts (ok := noArgs) h (by decide) rfl).trans ?_)
  simp only [Bool.and_eq_true, decide_eq_true_eq, and_assoc]
  rfl

/-! ### DMA -/

theorem dma_starts (h : s.startsOpen m 0x0040 [(0, 1), (8, 24)] j) (hd : leAt j.args 0 1 ≤ 1) (hn : leAt j.args 0x18 8 % 64 = 0)
    (hl : leAt j.args 0x18 8 ≤ 2 ^ 36) :
    let t := s.takeEntry m
    let k := s.ctx j.ctx.toNat
    let o := leAt j.args 0x10 8
    let n := leAt j.args 0x18 8
    exec (.dma m) s = .next (if (if leAt j.args 0 1 = 0 then k.mayWrite o n else k.mayRead o n) = true
      then t.pushJob { j with phase := if s.dmaRunning < 4 then .dmaRunning else .dmaWaiting }
      else (if leAt j.args 0 1 = 0 then t.logDropped j.ctx.toNat o n else t).putCompletion j 3 0x40 []) :=
  congrArg _ (openCmd_starts (ok := fun a => decide (leAt a 0 1 ≤ 1) && decide (leAt a 0x18 8 % 64 = 0) && decide (leAt a 0x18 8 ≤ 2 ^ 36)) h
    (by decide) (by simpa [hd, hn] using hl))

variable {r : DmaResult}

theorem dmaTransferDone_none (h : s.jobs.find? (fun j => decide (j.phase = .dmaRunning)) = none) :
    exec (.dmaTransferDone r) s = .next s := by
  show execDmaTransferDone r s = _
  simp only [execDmaTransferDone, h]

/-- The bytes that a transfer has moved when it ends. -/
def dmaMoved (r : DmaResult) (n : Nat) : Nat := if r.ok then n else Nat.min r.moved n

/-- The oldest transfer in progress ends, towards LPDDR or towards the host, and lets a waiting one run. -/
theorem dmaTransferDone_oldest (h : s.jobs.find? (fun j => decide (j.phase = .dmaRunning)) = some j) :
    let o := leAt j.args 0x10 8
    let moved := dmaMoved r (leAt j.args 0x18 8)
    let u := s.useTurns .remote o moved
    exec (.dmaTransferDone r) s = .next (((if leAt j.args 0 1 = 1 then u.emit (.toHost (leAt j.args 8 8) (rdBytes s.lpddr o moved))
      else State.logDropped { u with lpddr := putAllowed (s.ctx j.ctx.toNat) s.lpddr o ((r.bytes ++ zeros moved).take moved) } j.ctx.toNat o
        moved).complete j (if r.ok then 0 else 0x10) 0 (leBytes 8 moved)).nextDma) := by
  show execDmaTransferDone r s = _
  simp only [execDmaTransferDone, h]
  rfl

end

/-! ### Which bytes the host has written -/

section
variable {k : Ctx}

/-- A write leaves every byte below it alone. -/
theorem rdByte_putAllowed_below {x : Nat} (l : List Byte) : ∀ {m : Memory} {a : Nat}, Memory.wf m → x < a →
    rdByte (putAllowed k m a l) x = rdByte m x := by
  induction l with
  | nil => exact fun _ _ => rfl
  | cons b l ih =>
    intro m a hm hx
    rw [putAllowed]
    split
    · rw [ih (wrByte_wf m a b hm) (by omega), rdByte_wrByte_ne m a x b hm (by omega)]
    · exact ih hm (by omega)

/-- A byte that may be written is read back. -/
theorem rdByte_putAllowed_inside (l : List Byte) : ∀ {m : Memory} {a i : Nat}, Memory.wf m → i < l.length → k.mayWrite (a + i) 1 = true →
    rdByte (putAllowed k m a l) (a + i) = l.getD i 0 := by
  induction l with
  | nil => exact fun _ hi => absurd hi (Nat.not_lt_zero _)
  | cons b l ih =>
    intro m a i hm hi hk
    rw [putAllowed]
    cases i with
    | zero =>
      rw [if_pos (show k.mayWrite a 1 = true from hk)]
      exact (rdByte_putAllowed_below l (wrByte_wf m a b hm) (Nat.lt_add_one a)).trans (rdByte_wrByte_same m a b hm)
    | succ i =>
      have hm' : Memory.wf (if k.mayWrite a 1 then wrByte m a b else m) := by
        split
        · exact wrByte_wf m a b hm
        · exact hm
      have ha : a + (i + 1) = a + 1 + i := by omega
      rw [ha] at hk ⊢
      exact ih hm' (Nat.lt_of_succ_lt_succ hi) hk

end

/-- Settles O43: a batch by whether the module is free, a STOP_RUN by the run that it names, a transfer by its direction and its range, and a byte
by whether the host may write it. -/
theorem runCommands : Obligations.RunCommands := by
  intro s m j r t x o n
  refine ⟨runBatch_bound, fun h hp hx hr => ?stops, fun h hn => ?otherRun,
    fun h hn hl => ⟨fun hd hm => ?toModule, fun hd hm => ?toHost, fun hd hm => ?refused⟩,
    fun h => ⟨fun hd => ?written, fun hd => ?read⟩,
    fun k mem a d i hm => ⟨fun hi => rdByte_putAllowed hi d hm, rdByte_putAllowed_inside d hm⟩, dmaTransferDone_none⟩
  case stops => exact (stopRun_starts h).trans (congrArg _ (if_pos ⟨hp, hx, hr⟩))
  case otherRun =>
    refine (stopRun_starts h).trans (congrArg _ (if_neg ?_))
    rintro ⟨hp, hx, hr⟩
    exact hn.elim hp (·.elim (· hx) (· hr))
  case toModule =>
    refine (dma_starts h (by omega) hn hl).trans (congrArg _ (if_pos ?_))
    rwa [if_pos hd]
  case toHost =>
    refine (dma_starts h (by omega) hn hl).trans (congrArg _ (if_pos ?_))
    rwa [if_neg (by omega)]
  case refused =>
    refine (dma_starts h (by omega) hn hl).trans (congrArg _ ?_)
    rw [if_neg (by rw [if_neg (by omega), hm]; exact Bool.false_ne_true), if_neg (by omega)]
  case written => exact (dmaTransferDone_oldest h).trans (by rw [if_neg hd]; rfl)
  case read => exact (dmaTransferDone_oldest h).trans (by rw [if_pos hd]; rfl)

end Sys2Proof.Machine
end

section
/-! PROOFS. The run-start agreement (R317 to R319, R338, R339, R343, R365, R366). -/
namespace Sys2Proof.Machine

/-! ### The words that a member repeats (R365) -/

section
variable (s : State)

@[simp] theorem sendSlice_run (type tag : Nat) (body : List Byte) : (s.sendSlice type tag body).run = s.run :=
  foldl_proj State.run (fun t q => by split <;> rfl) _ s

/-- A new OP takes the place of the words before it, any other word stands beside them. -/
theorem sendRun_words (body : List Byte) (next : Bool) :
    (s.sendRun body next).run.words = (if next then [] else s.run.words) ++ [body] := by
  rw [State.sendRun, sendSlice_run]

theorem repeatWords_agreement (hs : s.run.stopLeft = 0) (hd : s.run.declLeft = 0) (hr : s.runHolds = false) :
    s.repeatWords = s.run.words.foldl (fun s w => s.sendSlice 5 s.runTag w) s := by
  have hrun : (s.run.words.foldl (fun s w => s.sendSlice 5 s.runTag w) s).runHolds = false := by
    rw [State.runHolds, foldl_proj State.run (fun t w => sendSlice_run t 5 t.runTag w)]
    exact hr
  simp only [State.repeatWords, hs, hd, if_true]
  rw [if_neg (by simp [hrun])]

end

/-! ### A word of the agreement arrives -/

theorem any_place_iff {l : List Member} {p i : Nat} :
    (l.any fun r => decide (r.pos = p ∧ r.idx = i)) = true ↔ ∃ r ∈ l, r.pos = p ∧ r.idx = i := by
  simp only [List.any_eq_true, decide_eq_true_eq]

section
variable {s : State} {q : PortId} {pos idx : Fin 64} {w : List Byte}

/-- The READY of a member that the leader holds already changes nothing more; any other is kept, goes on while READYs are awaited, and is looked
at. -/
theorem ready_arrives (h : s.runArrives q w 1) :
    let b := wordBody w
    let s1 := s.heard q w
    let s2 := { s1 with run := { s.run with readys := s.run.readys ++ [Member.mk pos idx (leAt b 6 2) 0 ((b.drop 24).take 16)] } }
    exec (.ready q pos idx w) s = .next (if (s.run.readys.any fun r => decide (r.pos = pos.val ∧ r.idx = idx.val)) = true then s1
      else (if s.run.phase = .ready then s2.sendRun b false else s2).readyCheck) := congrArg _ (runIn_arrives h)

theorem fix_arrives (h : s.runArrives q w 2) :
    let b := wordBody w
    let s1 := s.heard q w
    exec (.fix q w) s = .next (if s.run.phase = .ready then (s1.sendRun b true).fixRun (leAt b 8 8) else s1) := congrArg _ (runIn_arrives h)

theorem bound_arrives (h : s.runArrives q w 3) :
    let b := wordBody w
    let s1 := s.heard q w
    let s2 := { s1 with run := { s.run with bounds := s.run.bounds ++ [Member.mk pos idx (leAt b 16 4) (leAt b 20 4) []] } }
    exec (.bound q pos idx w) s = .next (if (s.run.bounds.any fun r => decide (r.pos = pos.val ∧ r.idx = idx.val)) = true then s1
      else (s2.sendRun b false).boundCheck) := congrArg _ (runIn_arrives h)

theorem go_arrives (h : s.runArrives q w 4) :
    let s1 := s.heard q w
    exec (.go q w) s = .next (if s.run.phase = .bound then State.sendRun { s1 with run := { s.run with phase := .go } } (wordBody w) true
      else s1) := congrArg _ (runIn_arrives h)

/-- The leader's DECLINE completes RUN_BATCH with its STATUS, any other member's with DECLINED and that STATUS (R366). -/
theorem decline_arrives (h : s.runArrives q w 5) :
    let b := wordBody w
    let s1 := s.heard q w
    exec (.decline q pos idx w) s = .next (if s.run.phase = .running then s1
      else if pos.val = 0 ∧ idx.val = 0 then (s1.sendRun b true).endAgreement (leAt b 5 1) 0 b
      else (s1.sendRun b true).endAgreement 0x0E (leAt b 5 1) b) := congrArg _ (runIn_arrives h)

theorem place_zero_iff : (pos = 0 ∧ idx = 0) ↔ (pos.val = 0 ∧ idx.val = 0) := by simp only [Fin.ext_iff, Fin.val_zero]

end

/-! ### The leader's checks -/

section
variable {s : State}

theorem readyCheck_unawaited (h : s.run.phase ≠ .ready) : s.readyCheck = s := if_neg (by simp [h])

theorem readyCheck_member (h : s.isLeader = false) : s.readyCheck = s := if_neg (by simp [h])

theorem boundCheck_member (h : s.isLeader = false) : s.boundCheck = s := if_neg (by simp [h])

theorem any_differs_iff {r : Member} {l : List Member} :
    (l.any fun x => decide (x.a ≠ r.a) || decide (x.dig ≠ r.dig)) = true ↔ ¬ ∀ x ∈ l, x.a = r.a ∧ x.dig = r.dig := by
  simp [imp_iff_not_or]

/-- R365, step 2: READYs that differ end the agreement, READYs of every member fix B unless the slice is too long. -/
theorem readyCheck_leader {r : Member} {l : List Member} (hl : s.isLeader = true) (hp : s.run.phase = .ready) (hr : s.run.readys = r :: l) :
    let b := up16 (s.ring.ms + 4 * s.hops + 48)
    let s1 := { s with run := { s.run with b := b } }
    s.readyCheck = if (l.any fun x => decide (x.a ≠ r.a) || decide (x.dig ≠ r.dig)) = true then s.decline 0x12
      else if l.length + 1 = s.members then if 240 < s.hops then s.decline 0x0D else (s1.sendRun (s1.runWord 2 0) true).fixRun b
      else s := by
  refine (if_pos (by simp [hl, hp])).trans ?_
  simp only [hr, List.length_cons]

theorem up16_eq {x b : Nat} (hb : b % 16 = 0) (hx : x ≤ b) (hl : b < x + 16) : up16 x = b := by
  unfold up16
  omega

theorem all_same_iff {l : List Member} {a b : Nat} :
    (l.all fun x => decide (x.a = a) && decide (x.b = b)) = true ↔ ∀ x ∈ l, x.a = a ∧ x.b = b := by
  simp

/-- R365, step 4: once the leader holds every BOUND, GO follows when their numbers are its own. -/
theorem boundCheck_leader (hl : s.isLeader = true) (hp : s.run.phase = .bound) :
    s.boundCheck = if s.run.bounds.length = s.members then
      if (s.run.bounds.all fun b => decide (b.a = s.run.edition.toNat) && decide (b.b = s.run.pedition.toNat)) = true
      then State.sendRun { s with run := { s.run with phase := .go } } (s.runWord 4 0) true else s.decline 0x0B
      else s := by
  simp only [State.boundCheck, hl, hp, decide_true, Bool.true_and, Bool.and_true, decide_eq_true_eq]

theorem bindRun_refused (h : s.admission s.run.ctx s.run.pctx s.run.b = none) : s.bindRun = s.decline 0x0A := by
  simp only [State.bindRun, h]

theorem runTimeout_eq : exec .runTimeout s = .next
    (if (s.isLeader = true ∧ s.run.phase = .ready) ∧ s.run.firstReady + 2 ^ 24 ≤ s.ring.ms then s.decline 0x0C else s) := by
  show execRunTimeout s = _
  simp only [execRunTimeout, Bool.and_eq_true, decide_eq_true_eq]

end

/-- Settles O36: a word by whether it is known and awaited, the leader's checks by what it holds, and the repeats by the words that stand. -/
theorem runAgreement : Obligations.RunAgreement := by
  refine ⟨fun s q pos idx w => ?words, fun s b n => ?moments, fun s r l hl => ?checks, fun s h => ⟨readyCheck_member h, boundCheck_member h⟩⟩
  case words =>
    intro s1 b mem ready bound
    refine ⟨fun h => ⟨fun hm => ?_, fun hm => ⟨fun hp => ?_, fun hp => ?_⟩⟩, fun h => ⟨fun hp => ?_, fun hp => ?_⟩,
      fun h => ⟨fun hm => ?_, fun hm => ?_⟩, fun h => ⟨fun hp => ?_, fun hp => ?_⟩, fun h => ⟨fun hp => ?_, fun hp => ?_⟩⟩
    · exact (ready_arrives h).trans (congrArg _ (if_pos (any_place_iff.2 hm)))
    · rw [ready_arrives h, if_neg (any_place_iff.not.2 hm), if_pos hp]
    · rw [ready_arrives h, if_neg (any_place_iff.not.2 hm), if_neg hp]
      exact congrArg _ (readyCheck_unawaited hp)
    · exact (fix_arrives h).trans (congrArg _ (if_pos hp))
    · exact (fix_arrives h).trans (congrArg _ (if_neg hp))
    · exact (bound_arrives h).trans (congrArg _ (if_pos (any_place_iff.2 hm)))
    · exact (bound_arrives h).trans (congrArg _ (if_neg (any_place_iff.not.2 hm)))
    · exact (go_arrives h).trans (congrArg _ (if_pos hp))
    · exact (go_arrives h).trans (congrArg _ (if_neg hp))
    · rw [decline_arrives h, if_neg hp]
      simp only [place_zero_iff]
      split <;> rfl
    · exact (decline_arrives h).trans (congrArg _ (if_pos hp))
  case moments =>
    exact ⟨fun h => congrArg _ (if_pos h), fun h => congrArg _ (if_neg h), fun h => runTimeout_eq.trans (congrArg _ (if_pos h)),
      fun h => runTimeout_eq.trans (congrArg _ (if_neg h)), rfl, bindRun_refused, sendRun_words s b false, sendRun_words s b true,
      repeatWords_agreement s⟩
  case checks =>
    refine ⟨fun hp hr => ⟨fun hn => ?_, fun hs hm hh => ?_, fun hs hm hh b hb hx hlt => ?_, fun hs hm => ?_⟩,
      fun hp => ⟨fun hm hs => ?_, fun hm hn => ?_, fun hm => ?_⟩⟩
    · exact (readyCheck_leader hl hp hr).trans (if_pos (any_differs_iff.2 hn))
    · exact (readyCheck_leader hl hp hr).trans ((if_neg (any_differs_iff.not_left.2 hs)).trans ((if_pos hm).trans (if_pos hh)))
    · rw [readyCheck_leader hl hp hr, up16_eq hb hx hlt]
      exact (if_neg (any_differs_iff.not_left.2 hs)).trans ((if_pos hm).trans (if_neg (Nat.not_lt.2 hh)))
    · exact (readyCheck_leader hl hp hr).trans ((if_neg (any_differs_iff.not_left.2 hs)).trans (if_neg hm))
    · exact (boundCheck_leader hl hp).trans ((if_pos hm).trans (if_pos (all_same_iff.2 hs)))
    · exact (boundCheck_leader hl hp).trans ((if_pos hm).trans (if_neg (all_same_iff.not.2 hn)))
    · exact (boundCheck_leader hl hp).trans (if_neg hm)

end Sys2Proof.Machine
end

section
/-! PROOFS. The raising, the handling and the logging of events (R325, R451, R458, R465, R468, R475, R476). -/
namespace Sys2Proof.Machine

section
variable {s : State} {r : EvRec}

/-! ### Raising -/

theorem eventRaise_unknown {e : EvReq} (h : eventKnown e.code = false) : exec (.eventRaise e) s = .next s := if_neg (by simp [h])

/-- A known event stops the core that it names and raises its record (R465). -/
theorem eventRaise_known {e : EvReq} (ha : s.alive = true) (hk : eventKnown e.code = true) (hw : e.code ≠ 0x0604) :
    let s1 := if e.code.toNat / 256 = 1 ∧ e.unit.toNat / 2 ^ 28 = 1 then s.modCore (unitCore e.unit) Core.stopNow else s
    exec (.eventRaise e) s = .next (s1.raise
      { code := e.code, unit := e.unit, layer := e.layer, pc := e.pc, ctx := (e.ctx.map fun x => BitVec.ofNat 8 x.val).getD 0xFF
        a0 := e.arg0, a1 := e.arg1, a2 := e.arg2, a3 := e.arg3 }) := by
  refine (if_pos (by rw [ha, hk, decide_eq_true hw]; rfl)).trans ?_
  cases e.ctx <;> rfl

/-! ### Handling -/

/-- The head of the queue is taken into the volatile log; when its handling ends, a record of the stopped run waits for the STOPs (R468). -/
theorem recordHandling_head {l : List EvRec} (ha : s.alive = true) (hf : s.boot.fwstate = 4) (hq : s.err.queue = r :: l) :
    exec .recordHandling s = if s.err.busy = false then .next (s.beginHandling r)
      else if s.accounts r = true ∧ s.run.stopLeft ≠ 0 then .next s else .next (s.endHandling r) := by
  refine (if_pos (by simp [ha, hf])).trans ?_
  simp only [hq, Bool.not_eq_true', Bool.and_eq_true, decide_eq_true_eq]

theorem condStep_one {a : CondAct} (h : s.err.acts = [(r.code, a)]) :
    s.condStep r = State.condAct { s with err := { s.err with acts := [] } } a := by
  simp [State.condStep, h]

/-- No action waits for a record of this code, which is not Lost Errors. -/
theorem condStep_none (hr : r.code ≠ 0x0802) (h : ∀ a ∈ s.err.acts, a.1 ≠ r.code) : s.condStep r = s := by
  have hm : ∀ a ∈ s.err.acts, (decide (a.1 = r.code) || decide (r.code = 0x0802)) = false := fun a ha => by
    rw [decide_eq_false (h a ha), decide_eq_false hr]
    rfl
  have hnone : s.err.acts.filter (fun a => decide (a.1 = r.code) || decide (r.code = 0x0802)) = [] :=
    List.filter_eq_nil_iff.2 fun a ha => Bool.eq_false_iff.1 (hm a ha)
  have hall : s.err.acts.filter (fun a => !(decide (a.1 = r.code) || decide (r.code = 0x0802))) = s.err.acts :=
    List.filter_eq_self.2 fun a ha => congrArg not (hm a ha)
  simp only [State.condStep, hnone, hall, List.foldl_nil]

theorem dropsToken_iff : r.dropsToken = true ↔ r.remote = false
    ∧ (r.code = 0x0401 ∨ r.code = 0x0205 ∨ r.code = 0x0602 ∨ r.code = 0x0603 ∨ r.code = 0x0804) := by
  simp [EvRec.dropsToken, or_assoc]

/-- A record raised since the token was written takes it along (R451). -/
theorem tokenStep_drops (h : r.dropsToken = true) (hs : s.boot.tokSeq ≤ r.seq) : s.tokenStep r = s.dropToken := if_pos (by simp [h, hs])

/-! ### The persistent log and the SMC's halt -/

theorem persistentLogWrite_oldest {l : List EvRec} (h : s.err.ppend = r :: l) :
    exec .persistentLogWrite s = .next { s with keep := s.keep.log r, err := { s.err with ppend := l } } := by
  show execPersistentLogWrite s = _
  simp only [execPersistentLogWrite, h]

/-- A halt request that finds the module halted raises no event, and is acknowledged all the same (R475). -/
theorem smcHalt_serving {tag : Word32} (h : s.serves = true) :
    exec (.smcHalt tag) s = .next ((if s.boot.halt then s else s.raise { code := 0x0803, a0 := tag }).smcAck tag 0 0) :=
  if_neg (by simp [h])

end

/-- Settles O54: an event by whether its code is known, the head of the queue by the phase of its handling, its actions by its code, and a halt
request by whether the module is halted. -/
theorem eventsHandled : Obligations.EventsHandled := by
  intro s e r l tag ha s1
  refine ⟨eventRaise_known ha, eventRaise_unknown,
    fun hf hq => ⟨fun hb => ?taken, fun hb hs => ?handled, fun hb hr hl => ?waits⟩,
    fun x k i ed n hr => ⟨condStep_one, fun h => ?wear, condStep_none hr⟩, fun hr hc => tokenStep_drops (dropsToken_iff.2 ⟨hr, hc⟩),
    persistentLogWrite_oldest, fun h hh => ?halts, fun h hh => ?halted⟩
  case taken => exact (recordHandling_head ha hf hq).trans (if_pos hb)
  case handled =>
    refine (recordHandling_head ha hf hq).trans ((if_neg (by simp [hb])).trans (if_neg ?_))
    rintro ⟨hr, hl⟩
    exact hs.elim (fun h => Bool.false_ne_true (h.symm.trans hr)) hl
  case waits => exact (recordHandling_head ha hf hq).trans ((if_neg (by simp [hb])).trans (if_pos ⟨hr, hl⟩))
  case wear => simp only [condStep_one h, State.condAct, List.contains_iff_mem]
  case halts => rw [smcHalt_serving h, if_neg (by simp [hh])]
  case halted => rw [smcHalt_serving h, if_pos hh]

end Sys2Proof.Machine
end

section
/-! PROOFS. What a module reset leaves of the state, and the invariants of every step: the queue, the canonical form of LPDDR, a halt (R453, R472). -/
namespace Sys2Proof.Machine

/-- A state without what the ports' frames change: the ports, what waits to go out on them, what has been sent, and the Milestone. -/
def State.offWire (s : State) : State := { s with ports := [], links := {}, lpd := {}, free := 0, sent := [], ring := {} }

section
variable (s : State)

/-! ### A step of the ports -/

theorem useTurns_offWire (cls : LpdClass) (a len : Nat) : (s.useTurns cls a len).offWire = s.offWire := rfl

theorem sendWord_offWire (q type tag : Nat) (body : List Byte) : (s.sendWord q type tag body).offWire = s.offWire := rfl

theorem modPort_offWire (q : Nat) (f : Port → Port) : (s.modPort q f).offWire = s.offWire := rfl

theorem setLinks_offWire (l : Links) : ({ s with links := l } : State).offWire = s.offWire := rfl

theorem sendSlice_offWire (type tag : Nat) (body : List Byte) : (s.sendSlice type tag body).offWire = s.offWire :=
  foldl_proj State.offWire (fun t q => by split <;> rfl) _ s

theorem countFec_offWire : s.countFec.offWire = s.offWire := foldl_proj State.offWire (fun t q => by split <;> rfl) _ s

theorem sendPosition_offWire (q start : Nat) (seq0 : Byte) (k msgs : Nat) : (s.sendPosition q start seq0 k msgs).1.offWire = s.offWire := by
  unfold State.sendPosition
  dsimp only
  cases (s.port q).heardBy (departs q start k) <;> cases (s.port q).pick k (departs q start k) msgs <;> rfl

theorem sendPositions_offWire (n : Nat) : ∀ (s : State) (q start : Nat) (seq0 : Byte) (k msgs : Nat),
    (s.sendPositions n q start seq0 k msgs).offWire = s.offWire := by
  induction n with
  | zero => exact fun _ _ _ _ _ _ => rfl
  | succ n ih => exact fun s q start seq0 k msgs => (ih _ _ _ _ _ _).trans (sendPosition_offWire s q start seq0 k msgs)

theorem endFrame_offWire (q start : Nat) (seq0 : Byte) : (s.endFrame q start seq0).offWire = s.offWire := by
  rw [State.endFrame, modPort_offWire, sendPositions_offWire]

theorem portFrame_offWire (ms q : Nat) : (s.portFrame ms q).offWire = s.offWire := by
  unfold State.portFrame
  dsimp only
  split
  · rw [modPort_offWire]
    split
    · exact endFrame_offWire s q _ _
    · rfl
  · rfl

theorem feedSend_offWire (n : Nat) : ∀ (s : State) (q i : Nat), (State.feedSend n s q i).offWire = s.offWire := by
  induction n with
  | zero => exact fun _ _ _ => rfl
  | succ n ih =>
    intro s q i
    unfold State.feedSend
    split
    · rfl
    · refine (ih _ _ _).trans ?_
      dsimp only
      rw [setLinks_offWire, sendWord_offWire, useTurns_offWire]

theorem feedPort_offWire (q : Nat) : (s.feedPort q).offWire = s.offWire := by
  unfold State.feedPort
  split
  · rfl
  · split
    · refine foldl_proj State.offWire (fun t i => ?_) _ s
      split
      · split
        · exact feedSend_offWire _ _ _ _
        · rfl
      · rfl
    · rfl

theorem portFrames_offWire (ms : Nat) : (s.portFrames ms).offWire = s.offWire := by
  refine foldl_proj State.offWire (fun t q => ?_) _ s
  split
  · exact (portFrame_offWire _ _ _).trans (feedPort_offWire _ _)
  · rfl

theorem nextStep_offWire : s.nextStep.offWire = s.offWire := (portFrames_offWire _ _).trans (countFec_offWire s)

theorem stopSteps_offWire (n tag : Nat) (b : List Byte) : ∀ s : State, (stopSteps n tag b s).offWire = s.offWire := by
  induction n with
  | zero => exact fun _ => rfl
  | succ n ih => exact fun s => (ih _).trans ((nextStep_offWire _).trans (sendSlice_offWire s 3 tag b))

/-- The STOP words of a reset change nothing but the ports and what goes out on them (R456). -/
theorem stopForReset_offWire : s.stopForReset.offWire = s.offWire := by
  unfold State.stopForReset
  split
  · exact stopSteps_offWire _ _ _ s
  · exact stopSteps_offWire _ _ _ s

theorem stopForReset_pending : s.stopForReset.pending = s.pending := (congrArg State.pending (stopForReset_offWire s) :)
theorem stopForReset_lpddr : s.stopForReset.lpddr = s.lpddr := (congrArg State.lpddr (stopForReset_offWire s) :)
theorem stopForReset_boot : s.stopForReset.boot = s.boot := (congrArg State.boot (stopForReset_offWire s) :)
theorem stopForReset_trust : s.stopForReset.trust = s.trust := (congrArg State.trust (stopForReset_offWire s) :)
theorem stopForReset_err : s.stopForReset.err = s.err := (congrArg State.err (stopForReset_offWire s) :)

/-! ### Module resets -/

theorem romRun_eq (r : RomTest) : s.romRun r = { s with boot := (s.romRun r).boot, trust := s.trust.derive s.keep } := by
  unfold State.romRun
  dsimp only
  split
  · rfl
  · split
    · split <;> rfl
    · rfl

/-- s has the queue of r, and its LPDDR is in canonical form if that of r is. -/
def KeepsMem (r s : State) : Prop := s.pending = r.pending ∧ (Memory.wf r.lpddr → Memory.wf s.lpddr)

variable {s} {r : State}

theorem Keeps.mem (h : Keeps r s) : KeepsMem r s := ⟨h.pending, h.lpddr⟩

theorem KeepsMem.resetBase (st : Straps) (h : KeepsMem r s) : KeepsMem r (s.resetBase st) := h

theorem KeepsMem.stopForReset (h : KeepsMem r s) : KeepsMem r s.stopForReset := by
  unfold KeepsMem
  rw [stopForReset_pending, stopForReset_lpddr]
  exact h

theorem KeepsMem.romRun (rom : RomTest) (h : KeepsMem r s) : KeepsMem r (s.romRun rom) := by
  rw [romRun_eq]
  exact h

theorem KeepsMem.ite {a b : State} {p : Prop} [Decidable p] (ha : KeepsMem r a) (hb : KeepsMem r b) : KeepsMem r (if p then a else b) := by
  split
  · exact ha
  · exact hb

theorem KeepsMem.moduleReset (st : Straps) (rom : RomTest) (keep : Bool) (h : KeepsMem r s) : KeepsMem r (s.moduleReset st rom keep) :=
  have hb : KeepsMem r (s.stopForReset.resetBase st) := h.stopForReset.resetBase st
  .romRun rom (.ite hb hb)

/-- The commands that begin or end a module reset keep the queue and the canonical form of LPDDR, which a power loss empties. -/
theorem reset_keepsMem {i : Instr} {t : State} (hi : resetsModule i = true) (ht : exec i s = .next t) : KeepsMem s t := by
  have keep : KeepsMem s s := (Keeps.refl s).mem
  have empty : s.pending = s.pending ∧ (Memory.wf s.lpddr → Memory.wf []) := ⟨rfl, fun _ => by simp [Memory.wf]⟩
  suffices h : ∃ u, exec i s = .next u ∧ KeepsMem s u by
    obtain ⟨u, hu, hk⟩ := h
    exact Host.Outcome.next.inj (hu.symm.trans ht) ▸ hk
  cases i with
  | powerGood st rom =>
    by_cases hp : s.boot.power = true
    · exact ⟨s, if_pos hp, keep⟩
    · exact ⟨_, if_neg hp, .ite empty (.romRun rom empty)⟩
  | powerGoodDrop =>
    by_cases hp : s.boot.power = true
    · exact ⟨_, if_pos hp, empty⟩
    · exact ⟨s, if_neg hp, keep⟩
  | perstAssert st =>
    by_cases hp : s.boot.perst = true
    · exact ⟨s, if_pos hp, keep⟩
    · exact ⟨_, if_neg hp, KeepsMem.ite (keep.stopForReset.resetBase st) keep⟩
  | perstDeassert rom =>
    by_cases hp : s.boot.perst = true
    · exact ⟨_, if_pos hp, .ite (.romRun rom keep) keep⟩
    · exact ⟨s, if_neg hp, keep⟩
  | functionLevelReset st rom => exact ⟨_, rfl, .ite (.moduleReset st rom true keep) keep⟩
  | hotReset st rom => exact ⟨_, rfl, .ite (.moduleReset st rom false keep) keep⟩
  | moduleReset st rom => exact ⟨_, rfl, .ite (.moduleReset st rom false keep) keep⟩
  | watchdog st rom =>
    by_cases hp : (s.alive && decide (s.boot.fwstate = 4)) = true
    · exact ⟨_, if_pos hp, .moduleReset (s := State.dropToken _) st rom false keep⟩
    · exact ⟨s, if_neg hp, keep⟩
  | smcReset tag st rom => exact ⟨_, rfl, .ite (.moduleReset (s := s.smcAck tag 0 0) st rom false keep) keep⟩
  | _ => cases hi

/-- Every command keeps the queue and the canonical form of LPDDR. -/
theorem exec_keepsMem {i : Instr} {t : State} (ht : exec i s = .next t) : KeepsMem s t := by
  cases hi : resetsModule i with
  | true => exact reset_keepsMem hi ht
  | false => exact (exec_keeps s i hi t ht).mem

end

/-! ### The claims -/

/-- Settles O1: a step is the match on the queue. -/
theorem stepRunsFront : Obligations.StepRunsFront := fun _ _ _ => rfl

/-- Settles O2: of what every command keeps, the part about the queue. -/
theorem commandsKeepQueue : Obligations.CommandsKeepQueue := fun _ _ _ ht => (exec_keepsMem ht).1

/-- Settles O57: a step with an empty queue changes nothing, and any other is that of its command. -/
theorem lpddrStaysCanonical : Obligations.LpddrStaysCanonical := by
  intro s t hs ht
  unfold step at ht
  split at ht
  · exact Host.Outcome.next.inj ht ▸ hs
  · exact (exec_keepsMem ht).2 hs

/-- Settles O59: of what `Keeps` says of every command but the module resets, the part about a halt. -/
theorem haltStays : Obligations.HaltStays := by
  intro s t i c n hs hi ht
  obtain ⟨hh, hc, hn⟩ := hs
  obtain ⟨th, tc, tn⟩ := (exec_keeps s i hi t ht).halt hh
  exact ⟨th, tc.trans hc, tn.trans hn⟩

end Sys2Proof.Machine
end

section
/-! PROOFS. The control words of a port: those that are dropped, and what TIME, IDENT, PASS, STOP and MSG words do (R340, R341, R343, R345, R367 to
R369). -/
namespace Sys2Proof.Machine

section
variable {s : State} {q : PortId} {w : List Byte}

/-! ### Words that are dropped -/

theorem wordIn_untrained {q : Nat} {o x : Option Nat} {f : State → State} (h : (s.port q).trained = false) : s.wordIn q w o x f = s := by
  simp [State.wordIn, h]

/-- A command that hands its word to `wordIn`: a port that is not trained takes none, and a bad one is dropped and counted. -/
theorem wordIn_drops {i : Instr} {o x : Option Nat} {f : State → State} (hi : exec i s = .next (s.wordIn q.val w o x f)) :
    ((s.port q).trained = false → exec i s = .next s)
    ∧ ((s.port q).trained = true → wordOk w = false → exec i s = .next (s.modPort q fun p => { p with cwdrop := p.cwdrop + 1 })) :=
  ⟨fun h => hi.trans (congrArg _ (wordIn_untrained h)), fun h hw => hi.trans (congrArg _ (wordIn_bad h hw))⟩

/-! ### Words that arrive -/

/-- A TIME word whose ESEQ names a word that the port has sent gives a sample, any other none (R343). -/
theorem timeWord_arrives {pos : Fin 22} {frac : BitVec 16} (h : s.wordArrives q w (wordType w)) :
    let s2 := s.heardAt q w frac.toNat
    let a := s.ring.ms * 65536 + frac.toNat
    exec (.timeWordReceived q pos frac w) s = .next (match (s2.port q).sentBy q a (byteAt w 0x10) with
      | none => s2
      | some t0 =>
        let d := (a - t0 - leAt w 0x14 4) / 2
        (s2.modPort q fun p => p.sample s.ring.ms ((a : Int) - (departs q (leAt w 8 8) pos : Int) - (d : Int)) d).afterSample q) :=
  congrArg _ (wordIn_at h)

theorem ident_arrives (h : s.wordArrives q w 1) : exec (.identReceived q w) s = .next
    (if ((s.heard q w).port q).ident = some (parseIdent w) then s.heard q w
      else ((s.heard q w).modPort q fun p => { p with ident := some (parseIdent w) }).checkPort q) := congrArg _ (wordIn_arrives h)

theorem passWord_arrives (h : s.wordArrives q w 2) : exec (.passWordReceived q w) s = .next
    (if s.isRunTag (wordTag w) = true then (if s.runHolds = true then (s.heard q w).mergePass w else s.heard q w)
      else (s.heard q w).foreignWord q w) := congrArg _ (wordIn_arrives h)

/-- A STOP word for the RUNID of the batch, under its tag in agreement and in progress or under the tag that it had when it stopped (R369). -/
theorem stopWord_arrives (h : s.wordArrives q w 3) (hr : leAt (wordBody w) 0 4 = s.run.runid.toNat) (h0 : s.run.runid ≠ 0)
    (ht : (s.run.phase ≠ .idle ∧ wordTag w = s.runTag) ∨ (s.run.stopped = true ∧ wordTag w = s.run.stopTag)) :
    let b := wordBody w
    exec (.stopReceived q w) s = .next
      ((s.heard q w).remoteStop q (BitVec.ofNat 16 (leAt b 4 2)) s.run.runid (byteAt b 6) (byteAt b 7) (leAt b 8 8)) := by
  refine congrArg _ ((wordIn_arrives h).trans ?_)
  dsimp only
  have hrid : BitVec.ofNat 32 (leAt (wordBody w) 0 4) = s.run.runid := by rw [hr, BitVec.ofNat_toNat, BitVec.setWidth_eq]
  rw [hrid]
  refine if_pos ?_
  simp only [Bool.and_eq_true, Bool.or_eq_true, decide_eq_true_eq]
  exact ⟨⟨rfl, h0⟩, ht⟩

/-- An EVENT that R464 does not list stops the batch without a record. -/
theorem remoteStop_unknown {q : Nat} {code : BitVec 16} {x y : Byte} {n : Nat} (hk : eventKnown code = false) (hp : s.run.phase ≠ .idle) :
    s.remoteStop q code s.run.runid x y n = s.stopAll code x.toNat y.toNat n := by
  simp [State.remoteStop, hk, hp]

/-- A MSG word for another module is routed on; for this one it is an ACK, a request or a fragment of a stream (R368). -/
theorem msgWord_arrives {pl : CPlan} (h : s.wordArrives q w 4) (hp : s.links.plan = some pl) :
    let b := wordBody w
    let s1 := s.heard q w
    exec (.msgReceived q w) s = .next (if leAt b 0 1 = pl.pos ∧ leAt b 1 1 = pl.idx then
        if bitOf (leAt b 3 1) 0 = true then s1.takeAck (byteAt b 2) b
        else if leAt b 4 4 = askFrag then s1.servePeer (byteAt b 2) (b.drop 8)
        else match s.jobs.find? fun j => j.streams (byteAt b 2) with
          | some j => s1.takeFragment j (byteAt b 2) j.repairs b
          | none => s1
      else s1.routeMsg pl (leAt b 0 1) (leAt b 1 1) b) := by
  refine congrArg _ ((wordIn_arrives h).trans ?_)
  have hp' : (s.heard q w).links.plan = some pl := hp
  dsimp only
  rw [hp']
  rfl

end

/-- Settles O33: each word by the lemma of its TYPE, and the conditions under which it acts. -/
theorem controlWords : Obligations.ControlWords := by
  intro s q w p pos frac i s1 b
  refine ⟨fun hi => ?drops, fun t0 h => ⟨fun ht => ?sample, fun ht => ?noSample⟩, ident_arrives, fun h ht hh => ?pass, stopWord_arrives,
    fun code x y n => remoteStop_unknown, fun pl h hp hn => ?routed, fun pl j h hp h0 h1 => ⟨fun ha => ?ack, fun ha hf hj => ?fragment⟩⟩
  case drops =>
    simp only [List.mem_cons, List.not_mem_nil, or_false] at hi
    rcases hi with rfl | rfl | rfl | rfl | rfl | rfl | rfl | rfl | rfl | rfl <;> exact wordIn_drops rfl
  case sample => exact (timeWord_arrives h).trans (by rw [ht]; rfl)
  case noSample => exact (timeWord_arrives h).trans (by rw [ht])
  case pass => exact (passWord_arrives h).trans (by rw [if_pos ht, if_pos hh])
  case routed => exact (msgWord_arrives h hp).trans (by rw [if_neg hn])
  case ack => exact (msgWord_arrives h hp).trans (by rw [if_pos ⟨h0, h1⟩, if_pos ha])
  case fragment =>
    have hask : leAt (wordBody w) 4 4 ≠ askFrag := hf
    exact (msgWord_arrives h hp).trans (by rw [if_pos ⟨h0, h1⟩, if_neg (Bool.eq_false_iff.1 ha), if_neg hask, hj])

end Sys2Proof.Machine
end

section
/-! PROOFS. The messages of the SMC and the MCTP control requests (R349, R350, R354, R356 to R358, R511, R520 to R523); sensor samples, rails, floors,
wear and LPDDR link errors (R393, R400, R458, R498, R504, R511, R512, R514, R515). -/
namespace Sys2Proof.Machine

section
variable {s : State}

/-! ### What a module that serves the SMC answers -/

/-- A module that serves the SMC goes past the guard of its rows. -/
theorem serving {x y : Host.Outcome State Fault Refusal} (h : s.serves = true) : (if (!s.serves) = true then x else y) = y := if_neg (by simp [h])

section
variable {tag : Word32}

theorem cablingPlan_checked {b : List Byte} (h : s.serves = true) (hl : b.length = 224) :
    exec (.cablingPlan tag b) s = if leAt b 0x10 8 ≠ s.keep.modser.toNat then .next (s.smcAck tag 1 1)
      else if (!planOk b || s.boot.straps.coord) = true then .next (s.smcAck tag 1 2)
      else .next ((s.takePlan (parsePlan b)).smcAck tag 0 0) := (serving h).trans (if_neg (by simp [hl]))

theorem coordinateMessage_checked {a r p i : Byte} (h : s.serves = true) :
    exec (.coordinateMessage tag a r p i) s = if (!s.boot.straps.coord) = true then .next (s.smcAck tag 1 0x20)
      else if (!shapeOk a.toNat r.toNat p.toNat i.toNat) = true then .next (s.smcAck tag 1 2)
      else .next ((s.takePlan { cmode := true, dres := 1, xwrap := false, planid := 0, ringlen := a.toNat, rings := r.toNat, pos := p.toNat
                                idx := i.toNat, ports := [] }).smcAck tag 0 0) := serving h

theorem routingEntryWrite_checked {n : BitVec 16} {b : List Byte} (h : s.serves = true) (hl : b.length = 32) :
    exec (.routingEntryWrite tag n b) s =
      if s.routeCheck n (parseRoute b) ≠ 0 then .next (s.smcAck tag 1 (BitVec.ofNat 8 (s.routeCheck n (parseRoute b))))
      else .next ((s.writeRoute n.toNat (parseRoute b)).smcAck tag 0 0) := (serving h).trans (if_neg (by simp [hl]))

end

theorem setEndpointId_valid {a : Byte} (h : s.serves = true) (h0 : a ≠ 0) (hf : a ≠ 0xFF) :
    exec (.setEndpointId a) s = .next (({ s with phys := { s.phys with eid := some a } }).control 0x01 0x00 [0x00, a, 0x00]) :=
  (serving h).trans (if_neg (not_or.2 ⟨h0, hf⟩))

theorem smcMessageSent_first {m : List Byte} {l : List (List Byte)} (he : s.phys.eid.isSome = true) (hq : s.phys.smcq = m :: l) :
    exec .smcMessageSent s = .next (({ s with phys := { s.phys with smcq := l } }).sendMctp m) := by
  obtain ⟨a, ha⟩ := Option.isSome_iff_exists.1 he
  show execSmcMessageSent s = _
  simp only [execSmcMessageSent, ha, hq]

theorem smcMessageSent_no_eid (he : s.phys.eid = none) : exec .smcMessageSent s = .next s := by
  show execSmcMessageSent s = _
  simp only [execSmcMessageSent, he]

/-- The address pins lie below the fixed part of the address (R518, R520). -/
theorem smbAddress_toNat : s.smbAddress.toNat = 0x60 + s.boot.smbAdr.toNat := by
  unfold State.smbAddress
  bv_omega

end

/-- Settles O56: each message by its checks in order. -/
theorem sideband : Obligations.Sideband := by
  intro s tag b n a r p i m l h
  refine ⟨fun hl hs ho hc => ?plan, fun hl hs => ?otherModule, fun hc ho => ?coordinate, fun hc => ?noCoordinate, fun hl hr => ?route,
    fun hl hr => ?badRoute, congrArg _ (if_pos h), congrArg _ (if_pos h), setEndpointId_valid h,
    ⟨congrArg _ (if_pos h), (serving h).trans rfl, congrArg _ (if_pos h), (serving h).trans rfl⟩, smcMessageSent_first, smbAddress_toNat,
    fun _ _ _ => rfl, smcMessageSent_no_eid⟩
  case plan => rw [cablingPlan_checked h hl, if_neg (not_not.2 hs), if_neg (by simp [ho, hc])]
  case otherModule => rw [cablingPlan_checked h hl, if_pos hs]
  case coordinate => rw [coordinateMessage_checked h, if_neg (by simp [hc]), if_neg (by simp [ho])]
  case noCoordinate => rw [coordinateMessage_checked h, if_pos (by simp [hc])]
  case route => rw [routingEntryWrite_checked h hl, if_neg (not_not.2 hr)]
  case badRoute => rw [routingEntryWrite_checked h hl, if_pos hr]

/-! ### Samples -/

section
variable (s : State)

/-- Reading the refresh-rate codes changes the LPDDR controllers and the count of free values alone. -/
theorem readTref_eq : s.readTref = { s with lpd := s.readTref.lpd, free := s.readTref.free } := by
  suffices h : ∀ l : List Nat, ∀ t : State, ∃ a b, l.foldl (fun (s : State) n =>
      if (s.lctl n).st = 2 then
        ({ s with free := s.free + 1 }).modLctl n fun c => { c with tref := (Config.freeWord64 s.free).truncate 8 }
      else s) t = { t with lpd := a, free := b } by
    obtain ⟨a, b, hab⟩ := h (List.range 12) s
    have hr : s.readTref = { s with lpd := a, free := b } := hab
    rw [hr]
  intro l
  induction l with
  | nil => exact fun t => ⟨t.lpd, t.free, rfl⟩
  | cons n l ih =>
    intro t
    obtain ⟨a, b, hab⟩ := ih (if (t.lctl n).st = 2 then
        ({ t with free := t.free + 1 }).modLctl n fun c => { c with tref := (Config.freeWord64 t.free).truncate 8 } else t)
    refine ⟨a, b, hab.trans ?_⟩
    split <;> rfl

/-- A sample of the presence inputs changes their levels and SEALCNT alone. -/
theorem sampleInputs_eq (ex se : Bool) :
    s.sampleInputs ex se = { s with trust := (s.sampleInputs ex se).trust, keep := (s.sampleInputs ex se).keep } := by
  unfold State.sampleInputs
  extract_lets t a b s1
  split
  · split <;> rfl
  · rfl

theorem sampleInputs_phys (ex se : Bool) : (s.sampleInputs ex se).phys = s.phys := by rw [sampleInputs_eq]
theorem sampleInputs_boot (ex se : Bool) : (s.sampleInputs ex se).boot = s.boot := by rw [sampleInputs_eq]

variable {s}

/-- The trips of a sample are those of the readings that it took, whether or not the presence inputs are sampled in between. -/
theorem foldl_trips {t : State} {p : Phys} {n : Nat} (x : Sensors) (hk : t.keep.ticks = n) (hp : t.phys = p) :
    let u := if t.keep.ticks % 10 = 0 then t.everyMs x.expert x.sealed else t
    u.phys.tripped.foldl (fun (s : State) q => s.junctionTrip q) u
      = p.tripped.foldl (fun s q => s.junctionTrip q) (if n % 10 = 0 then t.everyMs x.expert x.sealed else t) := by
  intro u
  have hu : u.phys = p := by
    unfold u
    split
    · exact (sampleInputs_phys _ _ _).trans hp
    · exact hp
  rw [hu, ← hk]

/-- A sample raises Junction Trip for each cluster at 105 °C or more; every tenth takes the presence inputs and ends a round first. -/
theorem junctionSample_eq {x : Sensors} (h : s.alive = true) :
    let s1 := State.readTref { s with keep := { s.keep with ticks := s.keep.ticks + 1 }, phys := s.phys.sample x }
    exec (.junctionSample x) s = .next ((s.phys.sample x).tripped.foldl (fun s q => s.junctionTrip q)
      (if (s.keep.ticks + 1) % 10 = 0 then s1.everyMs x.expert x.sealed else s1)) := by
  have hp : s.boot.power = true := (Bool.and_eq_true_iff.1 h).1
  exact (if_pos hp).trans (congrArg _ (foldl_trips x (by rw [readTref_eq]) (by rw [readTref_eq])))

/-! ### Rails and floors -/

theorem vcoreStep_running (h : s.alive = true) (hf : s.boot.fwstate = 4) (hv : s.phys.va ≠ 0) :
    exec .vcoreStep s = .next { s with phys := s.phys.step (hottest (s.dieTj false)) (hottest (s.dieTj true)) } := by
  have h1 : s.firstRails = s := if_neg hv
  refine (if_pos (by simp [h, hf])).trans ?_
  rw [h1]

/-- A rail in steps of 10 mV stays between 0.65 V and the greater of its voltage and VMAX, and steps down over the power limit (R511, R512). -/
theorem railStep_bounds {v vmax avg plim : Nat} {hot : Int} (hv : 650 ≤ v) (hm : 650 ≤ vmax) (h10 : v % 10 = 0) (hm10 : vmax % 10 = 0) :
    650 ≤ railStep v vmax avg plim hot ∧ railStep v vmax avg plim hot ≤ Nat.max v vmax
      ∧ (plim < avg → railStep v vmax avg plim hot = Nat.max 650 (v - 10)) := by
  have ht : ¬ v = railTrip := by unfold railTrip; omega
  have hd : 650 ≤ railDown v ∧ railDown v ≤ Nat.max v vmax := by simp only [railDown, railMin, Nat.max_def]; split <;> split <;> omega
  have hs : v ≤ Nat.max v vmax := Nat.le_max_left v vmax
  unfold railStep
  rw [if_neg ht]
  by_cases hp : plim < avg
  · rw [if_pos hp]
    exact ⟨hd.1, hd.2, fun _ => rfl⟩
  · rw [if_neg hp]
    refine ⟨?_, ?_, fun h => absurd h hp⟩
    · split
      · exact hd.1
      · split
        · exact hd.1
        · split <;> omega
    · split
      · exact hd.2
      · split
        · exact hd.2
        · split
          next hup =>
            have : vmax ≤ Nat.max v vmax := Nat.le_max_right v vmax
            omega
          next => exact hs

theorem powerFloor_raises (hr : s.runHolds = true) (hp : 100 ≤ s.phys.powerOver) (hl : 100 ≤ sget 0 s.phys.hot lowKey) :
    exec .powerFloor s = .next (s.raise
      { code := 0x0206, ctx := BitVec.ofNat 8 s.run.ctx.val, a0 := BitVec.ofNat 32 s.phys.pin.toNat, a1 := BitVec.ofNat 32 s.phys.va }) :=
  if_pos (by simp [hr, hp, hl])

theorem thermalFloor_raises {q : Fin 256} (hr : s.runHolds = true) (hh : 100 ≤ sget 0 s.phys.hot q.val) (ht : s.phys.tripped = []) :
    exec (.thermalFloor q) s = .next (s.raise { code := 0x0207, unit := clusterUnit q.val, ctx := BitVec.ofNat 8 s.run.ctx.val
                                                a0 := BitVec.ofInt 32 (junction s.phys.tj q.val).toInt }) :=
  if_pos (by simp [hr, hh, ht])

/-! ### Wear -/

/-- A value other than the default is read back, whatever the map. -/
theorem sget_sset_of_ne {α : Type} [DecidableEq α] {d v : α} (hv : v ≠ d) (m : Sparse α) (i : Nat) : sget d (sset d m i v) i = v := by
  induction m with
  | nil => simp [sset, sget, hv]
  | cons x r ih =>
    obtain ⟨k, w⟩ := x
    simp only [sset, hv, if_false]
    split
    · simp [sget]
    · split
      · simp [sget]
      next hne => simp only [sget, Ne.symm hne, if_false, ih]

theorem markWorn_wear (k : Persist) (n : Nat) : (k.markWorn n).wear = k.wear := by
  unfold Persist.markWorn
  split <;> rfl

theorem raise_keep (e : Ev) : (s.raise e).keep = s.keep := (congrArg Apart.keep (raise_apart s e) :)

/-- The lowest sample of a position is kept (R458). -/
theorem wearOf_margin (n m : Nat) : (s.wearOf n m).keep.margin n = some (match s.keep.margin n with
    | some o => Nat.min o m
    | none => m) := by
  have hw : (s.wearOf n m).keep.wear = sset 0 s.keep.wear n ((match s.keep.margin n with
    | some o => Nat.min o m
    | none => m) + 1) := by
    unfold State.wearOf
    extract_lets old new k s1 s2 e
    have h2 : s2.keep.wear = s1.keep.wear := by
      unfold s2
      split
      · rw [raise_keep]
        exact markWorn_wear _ _
      · rfl
    split
    · rw [raise_keep]
      exact h2
    · exact h2
  unfold Persist.margin
  rw [hw, sget_sset_of_ne (Nat.succ_ne_zero _)]
  rfl

theorem wearSample_due {l : List (Nat × Nat)} (hr : s.boot.ready = true) (hl : ∀ y ∈ l, y.1 < 2304 ∧ y.2 < 1024)
    (hd : s.boot.wearAt ≤ s.ring.ms / 2 ^ 20) :
    exec (.wearSample l) s = .next (l.foldl (fun s y => s.wearOf y.1 y.2) { s with boot := { s.boot with wearAt := s.ring.ms / 2 ^ 20 + 1 } }) := by
  refine (if_pos (Bool.and_eq_true_iff.2 ⟨hr, decide_eq_true hd⟩)).trans (congrArg _ (List.foldl_ext _ _ _ fun t y hy => ?_))
  obtain ⟨hn, hm⟩ := hl y hy
  rw [if_pos hn, show Nat.min y.2 1023 = y.2 from Nat.min_eq_left (by omega)]

theorem wearSample_not_due {l : List (Nat × Nat)} (h : s.ring.ms / 2 ^ 20 < s.boot.wearAt) : exec (.wearSample l) s = .next s :=
  if_neg fun hc => Nat.not_le_of_lt h (of_decide_eq_true (Bool.and_eq_true_iff.1 hc).2)

end

/-- Settles O53: each row by the conditions under which it acts; a rail by its bounds, wear by the margin that is kept. -/
theorem sensorsAndRails : Obligations.SensorsAndRails := by
  intro s x q n ch off l ha s1 s2
  refine ⟨fun h => ?sample, fun h => ?sampleMs, fun hf hv => vcoreStep_running ha hf hv, fun v vmax avg plim hot => railStep_bounds,
    powerFloor_raises, thermalFloor_raises, wearSample_due, wearSample_not_due, wearOf_margin, ?corrected, ?uncorrected⟩
  case sample => exact (junctionSample_eq ha).trans (by rw [if_neg h])
  case sampleMs =>
    refine (junctionSample_eq ha).trans ?_
    have hb : s2.boot = s.boot := by
      unfold s2 s1
      rw [sampleInputs_boot, readTref_eq]
    rw [if_pos h]
    unfold State.everyMs
    dsimp only
    rw [show (s1.sampleInputs x.expert x.sealed).boot.ready = s.boot.ready from congrArg Boot.ready hb]
  case corrected => exact (if_neg (by simp [ha])).trans (if_pos rfl)
  case uncorrected => exact (if_neg (by simp [ha])).trans (if_neg Bool.false_ne_true)

end Sys2Proof.Machine
end

section
/-! SUPPORT. A mailbox after a write to one, and what completions, notices and records leave of the mailboxes (R409, R411, R420, R465). -/
namespace Sys2Proof.Machine

theorem mboxFix_mboxFix (m : Nat) (x : Mbx) : mboxFix m (mboxFix m x) = x := by
  unfold mboxFix
  by_cases h : m = 0 <;> simp [h]

section
variable {s : State} (hs : Sparse.Wf {} s.mbx)
include hs

theorem mbox_modMbox_same (m : Nat) (f : Mbx → Mbx) : (s.modMbox m f).mbox m = f (s.mbox m) := by
  rw [State.mbox, State.modMbox_mbx, sget_sset_same _ _ _ hs, mboxFix_mboxFix]

theorem mbox_modMbox_ne {m n : Nat} (hn : n ≠ m) (f : Mbx → Mbx) : (s.modMbox m f).mbox n = s.mbox n := by
  rw [State.mbox, State.modMbox_mbx, sget_sset_ne _ _ _ _ hs hn, State.mbox]

theorem modMbox_wf (m : Nat) (f : Mbx → Mbx) : Sparse.Wf {} (s.modMbox m f).mbx := sset_wf _ _ _ hs

/-- What a change of one mailbox leaves of that mailbox, it leaves of every one. -/
theorem mbox_modMbox_proj {α : Type} (p : Mbx → α) {m : Nat} {f : Mbx → Mbx} (hf : p (f (s.mbox m)) = p (s.mbox m)) (n : Nat) :
    p ((s.modMbox m f).mbox n) = p (s.mbox n) := by
  by_cases hn : n = m
  · rw [hn, mbox_modMbox_same hs, hf]
  · rw [mbox_modMbox_ne hs hn]

end

section
variable (s : State)

/-- A vector that is signalled is sent, or stands in the pending bits while masked. -/
theorem signalVec_eq (v : Nat) : s.signalVec v = { s with host := { s.host with pba := (s.signalVec v).host.pba }, sent := (s.signalVec v).sent } := by
  unfold State.signalVec
  split <;> rfl

theorem signalVec_mbx (v : Nat) : (s.signalVec v).mbx = s.mbx := by rw [signalVec_eq]

theorem signalVec_mbox (v n : Nat) : (s.signalVec v).mbox n = s.mbox n := by rw [State.mbox, signalVec_mbx, State.mbox]

/-- A record that is offered changes the error state and the count of free values alone. -/
theorem enqueue_eq (r : EvRec) : s.enqueue r = { s with err := (s.enqueue r).err, free := (s.enqueue r).free } := by
  unfold State.enqueue
  split <;> rfl

theorem offer_eq (r : EvRec) : s.offer r = { s with err := (s.offer r).err, free := (s.offer r).free } := by
  unfold State.offer
  split
  · rfl
  · split
    · exact enqueue_eq s r
    · rfl

theorem logEvent_eq (e : Ev) : s.logEvent e = { s with err := (s.logEvent e).err, free := (s.logEvent e).free } := by
  unfold State.logEvent
  exact offer_eq _ _

/-- A notice changes the mailboxes, and the host's pending bits and what is sent by its vector. -/
theorem noticeTo_host (b : List Byte) (m : Nat) : (s.noticeTo b m).host = { s.host with pba := (s.noticeTo b m).host.pba } := by
  unfold State.noticeTo
  dsimp only
  split
  · rfl
  · rw [signalVec_eq]
    rfl

/-- What the host and the module have written to a mailbox's pointers, its ring of notices apart. -/
def Mbx.pointers (x : Mbx) : Bool × BitVec 9 × BitVec 9 × BitVec 9 × Byte × BitVec 9 := (x.armed, x.chead, x.ctail, x.rhead, x.nhead, x.rtail)

variable {s}

theorem noticeTo_pointers (hs : Sparse.Wf {} s.mbx) (b : List Byte) (m n : Nat) :
    ((s.noticeTo b m).mbox n).pointers = (s.mbox n).pointers := by
  unfold State.noticeTo
  dsimp only
  split
  · exact mbox_modMbox_proj hs Mbx.pointers (by rfl) n
  · rw [signalVec_mbox]
    exact mbox_modMbox_proj hs Mbx.pointers (by rfl) n

end

end Sys2Proof.Machine
end

section
/-! PROOFS. Doorbells, head writes and ring writes of a READY module (R416, R418, R431, R432, R434). -/
namespace Sys2Proof.Machine

section
variable {s : State} {m : MbxId} {v : RegWrite}

/-! ### Registers of a mailbox -/

theorem doorbell_ready (hr : s.boot.ready = true) :
    let x := s.mbox m
    let t : BitVec 9 := v.value.truncate 9
    exec (.doorbell m v) s = .next (if x.armed = false then s.misuse m 1 0x0C v.rid
      else if 512 ≤ v.value.toNat then s.misuse m 2 0x0C v.rid
      else if 256 < (x.ctail - x.chead).toNat + (t - x.ctail).toNat then s.misuse m 3 0x0C v.rid
      else s.modMbox m fun x => { x with ctail := t }) := by
  refine congrArg _ ((if_neg (by simp [hr])).trans ?_)
  simp only [Bool.not_eq_true']

theorem rheadWrite_ready (hr : s.boot.ready = true) :
    let x := s.mbox m
    let t : BitVec 9 := v.value.truncate 9
    exec (.mbxRheadWrite m v) s = .next (if x.armed = false then s.misuse m 7 0x1C v.rid
      else if (x.rtail - x.rhead).toNat < (t - x.rhead).toNat then s.misuse m 5 0x1C v.rid
      else s.modMbox m fun x => { x with rhead := t }) := by
  refine congrArg _ ((if_neg (by simp [hr])).trans ?_)
  simp only [Bool.not_eq_true']

theorem nheadWrite_ready (hr : s.boot.ready = true) :
    let x := s.mbox m
    let t : Byte := v.value.truncate 8
    exec (.mbxNheadWrite m v) s = .next (if x.armed = false then s.misuse m 7 0x24 v.rid
      else if (x.ntail - x.nhead).toNat < (t - x.nhead).toNat then s.misuse m 5 0x24 v.rid
      else s.modMbox m fun x => { x with nhead := t }) := by
  refine congrArg _ ((if_neg (by simp [hr])).trans ?_)
  simp only [Bool.not_eq_true']

/-! ### The command ring -/

/-- A write that lies in the command ring whole: its bytes go where the module owns no entry, and the first one that it owns is reported. -/
theorem entryWrite_ring {off : BitVec 16} {d : List Byte} {rid : BitVec 16} (hr : s.boot.ready = true) (ha : s.alive = true)
    (hm : (s.mbox m).armed = true) (hd : d ≠ []) (hlo : 0x1000 ≤ off.toNat) (hhi : off.toNat + d.length ≤ 0x9000) :
    let s1 := s.modMbox m fun x => x.hostBytes off.toNat d
    exec (.mailboxEntryWrite m off ⟨d, rid⟩) s
      = match (List.range d.length).find? fun i => (s.mbox m).owned (off.toNat + i) with
        | some i => .next (s1.misuse m 4 (off.toNat + i) rid)
        | none => .next s1 := by
  have hn : d.length ≠ 0 := fun h => hd (List.eq_nil_of_length_eq_zero h)
  intro s1
  refine (if_neg ?_).trans ((if_neg ?_).trans ((if_neg ?_).trans ((if_neg ?_).trans ((if_neg ?_).trans ((if_neg ?_).trans rfl)))))
  · rw [ha]
    simp only [Bool.true_eq_false, false_or]
    omega
  · omega
  · simp [hr]
  · simp [hm]
  · omega
  · exact Nat.not_lt_of_le hhi

/-- Where the module owns no entry, every byte is written. -/
theorem hostBytes_all (d : List Byte) : ∀ {x : Mbx} {off : Nat}, 0x1000 ≤ off → off + d.length ≤ 0x9000 →
    (∀ i < d.length, x.owned (off + i) = false) → x.hostBytes off d = { x with page := wrBytes x.page off d } := by
  induction d with
  | nil => exact fun _ _ _ => rfl
  | cons b r ih =>
    intro x off hlo hhi ho
    simp only [List.length_cons] at hhi ho
    have h0 : x.owned off = false := ho 0 (by omega)
    have hin : (decide (0x1000 ≤ off) && decide (off < 0x9000) && !x.owned off) = true := by
      simp only [h0, Bool.not_false, Bool.and_true, Bool.and_eq_true, decide_eq_true_eq]
      omega
    rw [Mbx.hostBytes, if_pos hin, ih (by omega) (by omega) fun i hi => ?_]
    · rfl
    · have := ho (i + 1) (by omega)
      rwa [show off + (i + 1) = off + 1 + i by omega] at this

/-- A byte of an entry that the module owns stays. -/
theorem rdByte_hostBytes_owned {a : Nat} (d : List Byte) : ∀ {x : Mbx} {off : Nat}, Memory.wf x.page → x.owned a = true →
    rdByte (x.hostBytes off d).page a = rdByte x.page a := by
  induction d with
  | nil => exact fun _ _ => rfl
  | cons b r ih =>
    intro x off hw ho
    rw [Mbx.hostBytes]
    split
    · next hc =>
      simp only [Bool.and_eq_true, Bool.not_eq_true'] at hc
      have hne : a ≠ off := by rintro rfl; rw [ho] at hc; cases hc.2
      rw [ih (x := { x with page := wrByte x.page off b }) (wrByte_wf _ _ _ hw) ho]
      exact rdByte_wrByte_ne _ _ _ _ hw hne
    · exact ih hw ho

/-! ### Misuses -/

/-- A misuse is counted, and moves no pointer of any mailbox (R434). -/
theorem misuse_frame (hs : Sparse.Wf {} s.mbx) (k code o : Nat) (rid : BitVec 16) (n : Nat) :
    (s.misuse k code o rid).host.misCount = sat16 s.host.misCount 1 ∧ (s.misuse k code o rid).host.misLast = BitVec.ofNat 8 code
      ∧ ((s.misuse k code o rid).mbox n).pointers = (s.mbox n).pointers := by
  unfold State.misuse
  extract_lets s1 h s2 s3
  have hs1 : Sparse.Wf {} s1.mbx ∧ s1.host = s.host ∧ (s1.mbox n).pointers = (s.mbox n).pointers := by
    unfold s1
    split
    · exact ⟨modMbox_wf hs _ _, rfl, mbox_modMbox_proj hs Mbx.pointers (by rfl) n⟩
    · exact ⟨hs, rfl, rfl⟩
  obtain ⟨hw, hh, hp⟩ := hs1
  have hhost : s3.host = { s2.host with pba := s3.host.pba } := noticeTo_host _ _ _
  rw [logEvent_eq]
  refine ⟨?_, ?_, ?_⟩
  · show s3.host.misCount = _
    rw [hhost]
    show sat16 s1.host.misCount 1 = _
    rw [hh]
  · show s3.host.misLast = _
    rw [hhost]
  · exact (noticeTo_pointers (s := s2) hw _ 0 n).trans hp

end

/-- Settles O39: each register by the checks of its write, the ring byte by byte. -/
theorem mailboxRegisters : Obligations.MailboxRegisters := by
  intro s m v off d rid hr ha x t9 t8
  refine ⟨fun hm hv hd => ?accepted, fun hm hv => ?reserved, fun hm hv hd => ?beyond, fun hm => ⟨?_, ?_, ?_⟩, fun hm hh => ?rhead, fun hm hh => ?rheadBad,
    fun hm hh => ?nhead, fun hm hh => ?nheadBad, fun hm hd hlo hhi ho => ?written, fun hm hd hlo hhi i hi ho hj => ?owned,
    fun hw a ho => rdByte_hostBytes_owned d hw ho, fun code o n hs => ?misuse⟩
  case accepted => rw [doorbell_ready hr, if_neg (by simp [hm, x]), if_neg (Nat.not_le.2 hv), if_neg (Nat.not_lt.2 hd)]
  case reserved => rw [doorbell_ready hr, if_neg (by simp [hm, x]), if_pos hv]
  case beyond => rw [doorbell_ready hr, if_neg (by simp [hm, x]), if_neg (Nat.not_le.2 hv), if_pos hd]
  · rw [doorbell_ready hr, if_pos hm]
  · rw [rheadWrite_ready hr, if_pos hm]
  · rw [nheadWrite_ready hr, if_pos hm]
  case rhead => rw [rheadWrite_ready hr, if_neg (by simp [hm, x]), if_neg (Nat.not_lt.2 hh)]
  case rheadBad => rw [rheadWrite_ready hr, if_neg (by simp [hm, x]), if_pos hh]
  case nhead => rw [nheadWrite_ready hr, if_neg (by simp [hm, x]), if_neg (Nat.not_lt.2 hh)]
  case nheadBad => rw [nheadWrite_ready hr, if_neg (by simp [hm, x]), if_pos hh]
  case written =>
    have hf : ((List.range d.length).find? fun i => (s.mbox m).owned (off.toNat + i)) = none := by
      rw [List.find?_eq_none]
      exact fun i hi => by simp [ho i (List.mem_range.1 hi), x]
    rw [entryWrite_ring hr ha hm hd hlo hhi, hf]
    dsimp only
    rw [State.modMbox, hostBytes_all d hlo hhi ho]
    rfl
  case owned =>
    have hf : ((List.range d.length).find? fun i => (s.mbox m).owned (off.toNat + i)) = some i := by
      rw [List.find?_range_eq_some]
      exact ⟨ho, List.mem_range.2 hi, fun j hji => by simp [hj j hji, x]⟩
    rw [entryWrite_ring hr ha hm hd hlo hhi, hf]
  case misuse =>
    obtain ⟨hc, hl, hp⟩ := misuse_frame (rid := rid) hs m code o n
    simp only [Mbx.pointers, Prod.mk.injEq] at hp
    obtain ⟨h1, h2, h3, h4, h5, h6⟩ := hp
    exact ⟨hc, hl, h1, h2, h3, h4, h5, h6⟩

end Sys2Proof.Machine
end

section
/-! PROOFS. A mailbox command that is refused, and what a refusal leaves alone (R411, R417, R419, R423, R425, R426, R471). -/
namespace Sys2Proof.Machine

/-! ### Every row of the mailbox commands starts the same way -/

/-- A row starts as the command d of mailbox m, for entries that are `mine`; where it needs an open context, it completes with reason 0x41 without
one (R423). -/
def StartsAs (i : Instr) (m : MbxId) (d : Cmd) (mine : List Byte → Bool) : Prop :=
  knownOpc d.opc = true ∧ ∃ f, (∀ s, exec i s = .next (s.startCmd m d mine f))
    ∧ (d.need = .context → d.opc ≠ 2 → ∀ t j, (t.ctx j.ctx.toNat).opened = false → f t j = t.putCompletion j 7 0x41 [])

theorem needOpen_closed {s : State} {j : Job} {f : State → State} (h : (s.ctx j.ctx.toNat).opened = false) :
    s.needOpen j f = s.putCompletion j 7 0x41 [] := if_neg (by simp [h])

section
variable {i : Instr} {m n : MbxId} {d e : Cmd} {p q : List Byte → Bool}

theorem StartsAs.of_some (h : some (n, e, q) = some (m, d, p)) (hs : StartsAs i n e q) : StartsAs i m d p := by
  simp only [Option.some.injEq, Prod.mk.injEq] at h
  obtain ⟨rfl, rfl, rfl⟩ := h
  exact hs

/-- A command that needs no open context. -/
theorem StartsAs.free {f : State → Job → State} (hk : knownOpc d.opc = true) (hd : d.need ≠ .context ∨ d.opc = 2)
    (hf : ∀ s, exec i s = .next (s.startCmd m d p f)) : StartsAs i m d p :=
  ⟨hk, f, hf, fun hc h2 => (hd.elim (· hc) h2).elim⟩

/-- A command of an open context. -/
theorem StartsAs.opened {f : State → Job → State → State} (hk : knownOpc d.opc = true)
    (hf : ∀ s, exec i s = .next (s.startCmd m d p fun t j => t.needOpen j (f t j))) : StartsAs i m d p :=
  ⟨hk, _, hf, fun _ _ _ _ h => needOpen_closed h⟩

end

theorem startsAs_of_mailboxCmd {i : Instr} {m : MbxId} {d : Cmd} {mine : List Byte → Bool} (h : mailboxCmd i = some (m, d, mine)) :
    StartsAs i m d mine := by
  cases i with
  | openContext => exact .of_some h (.free rfl (.inr rfl) fun _ => rfl)
  | status | setStrict | armMailbox | disarmMailbox | setPolicy | debugMap | debugUnmap | coreHalt | coreReset | clusterReset | partitionReset
  | rawXfer | rawDesc | unlockDebug | commitSpares | regenIdentity => exact .of_some h (.free rfl (.inl nofun) fun _ => rfl)
  | closeContext | loadImage | unloadImage | bind | unbind | loadEdition | publish | unpublish | unloadEdition | runBatch | stopRun | dma
  | setWindow => exact .of_some h (.opened rfl fun _ => rfl)
  | _ => cases h

/-! ### The checks of a start, in order -/

section
variable {s : State} {m : MbxId} {d : Cmd} {mine : List Byte → Bool} {f : State → Job → State}

theorem startCmd_away (h : s.boot.ready = false ∨ s.nextServed ≠ some m.val) : s.startCmd m d mine f = s :=
  if_neg (by simpa [Bool.and_eq_true, or_iff_not_imp_left] using h)

/-- What the checks make of the command that the mailbox serves next (R417, R419, R423). -/
theorem startCmd_served (hr : s.boot.ready = true) (hn : s.nextServed = some m.val) :
    let e := (s.mbox m).entry (s.mbox m).chead.toNat
    let j := parseJob m e
    let t := s.takeEntry m
    s.startCmd m d mine f =
      if knownOpc j.opc.toNat = false then
        t.putCompletion j (if 0x8000 ≤ j.opc.toNat ∧ s.expertLevel m = false then 5 else 2) 0 []
      else if j.opc.toNat = d.opc ∧ mine j.args = true then
        if s.permission d j ≠ 0 then t.putCompletion j (s.permission d j) 0 []
        else if d.entryOk e j = false then t.putCompletion j 3 0x40 []
        else if s.boot.halt = true ∧ d.opc ≠ 1 then t.putCompletion j 7 0x46 []
        else f t j
      else s := by
  refine (if_pos (by simp [hr, hn])).trans ?_
  simp only [Bool.not_eq_true']

end

/-! ### What a refusal changes -/

/-- A mailbox whose entry at CHEAD is taken. -/
def Mbx.take (x : Mbx) : Mbx := { x with chead := x.chead + 1 }

/-- A mailbox with one more completion. -/
def Mbx.completed (x : Mbx) (j : Job) (st r : Nat) (data : List Byte) : Mbx := { x with
  page := wrBytes x.page (0x9000 + 64 * (x.rtail.toNat % 256)) (completionBytes j.tag j.opc st r (if data.isEmpty then j.blank else data))
  rtail := x.rtail + 1 }

section
variable (s : State) (m : MbxId) (j : Job) (st r : Nat) (data : List Byte)

/-- A completion writes its mailbox, and is sent or stands in the pending bits where its entry asks for a vector. -/
theorem putCompletion_eq : s.putCompletion j st r data = { s.modMbox j.mbx fun x => x.completed j st r data with
      host := { s.host with pba := (s.putCompletion j st r data).host.pba }, sent := (s.putCompletion j st r data).sent } := by
  unfold State.putCompletion
  extract_lets k t
  split
  · rw [signalVec_eq]
    rfl
  · rfl

/-- A command that asks for no vector signals none. -/
theorem putCompletion_silent (h : j.flags.getLsbD 0 = false) :
    (s.putCompletion j st r data).sent = s.sent ∧ (s.putCompletion j st r data).host.pba = s.host.pba := by
  unfold State.putCompletion
  extract_lets k t
  rw [h, Bool.false_and, if_neg Bool.false_ne_true]
  exact ⟨rfl, rfl⟩

theorem mbox_of_mbx {s u : State} (h : s.mbx = u.mbx) (n : Nat) : s.mbox n = u.mbox n := by rw [State.mbox, h, State.mbox]

theorem takeEntry_mbox (n : Nat) : (s.takeEntry m).mbox n = (s.modMbox m Mbx.take).mbox n := mbox_of_mbx (by rfl) n

theorem putCompletion_mbox (n : Nat) : (s.putCompletion j st r data).mbox n = (s.modMbox j.mbx fun x => x.completed j st r data).mbox n :=
  mbox_of_mbx (by rw [putCompletion_eq]) n

end

/-- Settles O47: the rows start alike, so the checks of a start refuse for all of them; a refusal is the entry taken and a completion put. -/
theorem commandsRefused : Obligations.CommandsRefused := by
  refine ⟨fun i m d mine s h => ?refused, fun s m n j st r data hj hs => ?frame⟩
  case refused =>
    obtain ⟨hk, f, hf, ho⟩ := startsAs_of_mailboxCmd h
    intro e j t
    refine ⟨fun ha => ?away, fun hr hn => ⟨fun hu => ?unknown, fun hu hm => ?other, fun hc hm => ?_⟩⟩
    case away => rw [hf, startCmd_away ha]
    case unknown => rw [hf, startCmd_served hr hn, if_pos hu]
    case other => rw [hf, startCmd_served hr hn, if_neg (by simp [hu, j, e]), if_neg hm]
    have hopc : ¬ knownOpc j.opc.toNat = false := by simp [hc, hk]
    have hx : exec i s = .next (if s.permission d j ≠ 0 then t.putCompletion j (s.permission d j) 0 []
        else if d.entryOk e j = false then t.putCompletion j 3 0x40 []
        else if s.boot.halt = true ∧ d.opc ≠ 1 then t.putCompletion j 7 0x46 []
        else f t j) := by
      rw [hf, startCmd_served hr hn, if_neg hopc, if_pos ⟨hc, hm⟩]
    refine ⟨fun hn hd => ?context, fun hn hd => ?admin, fun hn hd => ?expert, fun hp he => ?entry, fun hp he hh h1 => ?halted,
      fun hp he hh hn h2 hc => ?closed⟩
    case context =>
      have hp : s.permission d j = 4 := by
        simp only [State.permission, hn]
        exact if_neg hd
      rw [hx, hp, if_pos (by decide)]
    case admin =>
      have hp : s.permission d j = 4 := by
        simp only [State.permission, hn]
        exact if_neg fun h => hd (Fin.ext h)
      rw [hx, hp, if_pos (by decide)]
    case expert =>
      have hp : s.permission d j = 5 := by
        simp only [State.permission, hn]
        exact if_neg (by simp [j, parseJob, hd])
      rw [hx, hp, if_pos (by decide)]
    case entry => rw [hx, if_neg (not_not.2 hp), if_pos he]
    case halted => rw [hx, if_neg (not_not.2 hp), if_neg (by simp [he]), if_pos ⟨hh, h1⟩]
    case closed =>
      rw [hx, if_neg (not_not.2 hp), if_neg (by simp [he]), if_neg (by simp [hh]), ho hn h2]
      exact hc
  case frame =>
    subst hj
    intro x u
    have hw : Sparse.Wf {} (s.takeEntry j.mbx).mbx := sset_wf _ _ _ hs
    have hu : u = _ := putCompletion_eq (s.takeEntry j.mbx) j st r data
    refine ⟨?_, ?_, fun hn => ?_, ?_, putCompletion_silent (s.takeEntry j.mbx) j st r data⟩
    · rw [hu]
      rfl
    · rw [hu]
      rfl
    · have hv : n.val ≠ j.mbx.val := fun h => hn (Fin.ext h)
      rw [putCompletion_mbox, mbox_modMbox_ne hw hv, takeEntry_mbox, mbox_modMbox_ne hs hv]
    · rw [putCompletion_mbox, mbox_modMbox_same hw, takeEntry_mbox, mbox_modMbox_same hs]
      rfl

end Sys2Proof.Machine
end

section
/-! PROOFS. The presence-class commands, the press that serves them, the steps of REGEN_IDENTITY and the presence inputs (R428, R457, R486, R487, R490,
R491, R498 to R502). -/
namespace Sys2Proof.Machine

section
variable {s : State} {m : MbxId} {j : Job}

/-! ### The commands wait -/

theorem unlockDebug_starts (h : s.starts m 0x8010 .expert [] j) : exec (.unlockDebug m) s = .next ((s.takeEntry m).waitPress j) :=
  congrArg _ (startCmd_starts (d := ⟨0x8010, .expert, [], noArgs⟩) h (by decide) rfl rfl)

theorem commitSpares_starts (h : s.starts m 0x8011 .expert [] j) :
    exec (.commitSpares m) s = .next (if s.runHolds = true then (s.takeEntry m).putCompletion j 7 0x45 [] else (s.takeEntry m).waitPress j) :=
  congrArg _ (startCmd_starts (d := ⟨0x8011, .expert, [], noArgs⟩) h (by decide) rfl rfl)

theorem regenIdentity_starts (h : s.starts m 0x8012 .expert [] j) :
    exec (.regenIdentity m) s = .next (match s.regenRefusal with
      | some (st, r) => (s.takeEntry m).putCompletion j st r []
      | none => (s.takeEntry m).waitPress j) :=
  congrArg _ (startCmd_starts (d := ⟨0x8012, .expert, [], noArgs⟩) h (by decide) rfl rfl)

/-- Why REGEN_IDENTITY is refused where none has had its press (R490). -/
theorem regenRefusal_eq (h : ∀ i ∈ s.jobs, i.regens = false) : s.regenRefusal = if s.runHolds = true then some (7, 0x45)
    else if s.trust.regened = true then some (7, 0x48) else if 16 ≤ s.keep.idgen then some (8, 0) else none := by
  have hj : s.jobs.any Job.regens = false := List.any_eq_false.2 fun i hi => by simp [h i hi]
  simp only [State.regenRefusal, hj, Bool.or_false]

/-! ### The press -/

/-- A press is counted, and serves the oldest command that waits (R499, R500). -/
theorem presencePress_eq (hp : s.boot.power = true) (hn : s.trust.pres = false) :
    let s1 := { s with trust := { s.trust with pres := true, sampled := true, presses := sat16 s.trust.presses 1 } }
    exec .presencePress s = match s.jobs.find? Job.waitsPress with
      | some j => .next (s1.servePress j)
      | none => .next s1 := if_pos (by simp [hp, hn])

theorem presencePress_serves (hp : s.boot.power = true) (hn : s.trust.pres = false) (hj : s.jobs.find? Job.waitsPress = some j) :
    exec .presencePress s = .next (State.servePress
      { s with trust := { s.trust with pres := true, sampled := true, presses := sat16 s.trust.presses 1 } } j) :=
  (presencePress_eq hp hn).trans (by rw [hj])

theorem servePress_unlock (h : j.opc = 0x8010) :
    s.servePress j = if s.trust.jumper = true then s.unlock j else s.complete j 6 0x51 [] := if_pos h

theorem servePress_commit (h : j.opc = 0x8011) : s.servePress j = s.commitSpares j :=
  (if_neg (by rw [h]; decide)).trans (if_pos h)

theorem servePress_regen (h : j.opc = 0x8012) :
    s.servePress j = if s.trust.sealed = true then s.regenIdentity j else s.complete j 6 0x52 [] :=
  (if_neg (by rw [h]; decide)).trans (if_neg (by rw [h]; decide))

theorem regenIdentity_accepted (h : s.regenRefusal = none) : s.regenIdentity j = s.regenPhase j 0 [] := by rw [State.regenIdentity, h]

theorem presenceTimeout_waits (h : s.jobs.find? Job.waitsPress = some j) : exec .presenceTimeout s = .next (s.complete j 6 0x50 []) := by
  show execPresenceTimeout s = _
  rw [execPresenceTimeout, h]

/-! ### The steps of REGEN_IDENTITY -/

theorem treeBuildDone_regen {n : Nat} {seeds : List Byte} (h : s.jobs.find? Job.regens = some j) (hp : j.phase = .regen n seeds) :
    exec .treeBuildDone s = .next (s.regenStep j n seeds) := by
  show execTreeBuildDone s = _
  simp only [execTreeBuildDone, h, hp]

/-- The lanes are free when no digest of another class is on one (R490). -/
theorem regenDraw_free (hj : ∀ i ∈ s.jobs, i.digests = false) (hr : s.redigests = []) :
    s.regenDraw j = ({ s with free := s.free + 1 }).regenPhase j 1 (seedsOf s.free) := by
  have ha : s.jobs.any Job.digests = false := List.any_eq_false.2 fun i hi => by simp [hj i hi]
  exact if_neg (by simp [ha, hr])

theorem regenDraw_busy (h : (∃ i ∈ s.jobs, i.digests = true) ∨ s.redigests ≠ []) : s.regenDraw j = s := by
  refine if_pos ?_
  rw [Bool.or_eq_true, List.any_eq_true, Bool.not_eq_true', List.isEmpty_eq_false_iff]
  exact h

/-- While an index is reserved, or there are no seeds that could sign, step 3 reserves none. -/
theorem regenPending_keep {seeds : List Byte} (h : s.trust.seeds = none ∨ s.trust.next < s.trust.lim) :
    (s.regenPending j seeds).keep = { s.keep with
      idPend := some (sealRecord (s.trust.kn.getD []) (nonceOf s.free) (keyPlain (s.keep.idgen + 1) seeds))
      chain := s.keep.chain ++ s.linkRecord (s.keep.idgen + 1) seeds } := by
  have hn : (s.trust.seeds.isSome && s.needsReserve) = false := by
    rcases h with h | h
    · simp [h]
    · simp [needsReserve_of_lt h]
  unfold State.regenPending
  rw [hn, if_neg Bool.false_ne_true]
  rfl

/-- Otherwise it reserves the next 4,096 first (R487). -/
theorem regenPending_reserves {seeds : List Byte} (h : s.trust.seeds.isSome = true) (hl : s.trust.lim ≤ s.trust.next) :
    (s.regenPending j seeds).keep.chain = s.keep.chain ++ s.reserve.linkRecord (s.keep.idgen + 1) seeds := by
  unfold State.regenPending
  rw [h, needsReserve_of_le hl, Bool.and_self, if_pos rfl]
  rfl

/-! ### COMMIT_SPARES -/

theorem commitSpares_free (h : s.runHolds = false) : s.commitSpares j =
    if s.keep.fuseFree < s.keep.commitNeeds then s.complete j 8 0 []
    else
      let s1 := s.keep.pendRows.foldl (fun s a => s.modLctl ((lpdPlace a).1) fun c => { c with pprh := c.pprh + 1 }) s
      ({ s1 with keep := s1.keep.commit }).complete j 0 0 [] := if_neg (by simp [h])

end

section
variable (k : Persist)

/-- What a commit leaves beside the token (R457). -/
theorem commit_eq : k.commit = { k with
    fuseMarks := k.fuseMarks ++ (k.pend.map fun (x : Nat × Nat) => x.1).filter fun n => !k.fuseMarks.contains n
    fuseDig := k.fuseDig ||| k.pendDig, fuseRows := k.fuseRows ++ k.pendRows, fuseLost := k.fuseLost ++ k.pendLost
    fuseUnits := k.units, fuseFree := k.fuseFree - k.commitNeeds, pend := [], pendDig := 0, pendRows := [], pendLost := [], pendUnits := []
    spseq := k.spseq + 1, token := k.commit.token } := by
  unfold Persist.commit
  dsimp only
  split <;> rfl

/-- What is added to a list where it does not stand there yet is there then. -/
theorem mem_append_new {α : Type} [DecidableEq α] {l r : List α} {x : α} (hx : x ∈ r) : x ∈ l ++ r.filter fun y => !l.contains y := by
  by_cases h : x ∈ l
  · exact List.mem_append_left _ h
  · exact List.mem_append_right _ (List.mem_filter.2 ⟨hx, by simp [h]⟩)

/-- Every pending mark of a position is a mark of the fuse map after a commit. -/
theorem commit_fuseMarks {x : Nat × Nat} (hx : x ∈ k.pend) : x.1 ∈ k.commit.fuseMarks := by
  rw [commit_eq]
  exact mem_append_new (List.mem_map_of_mem hx)

theorem commit_token_invalid (h : k.tokValid = false) : k.commit.token = k.token := by
  unfold Persist.commit
  rw [h, Bool.false_and, if_neg Bool.false_ne_true]

/-- A valid token is written again for the new fuse map (R452). -/
theorem commit_token_valid (hv : k.tokValid = true) (hi : k.tokIntact = true) :
    k.commit.token = ({ k.commit with token := [] } : Persist).tokenAt k.tokWritten := by
  have h : k.commit = _ := if_pos (by rw [hv, hi]; rfl)
  rw [h]
  rfl

end

/-! ### The presence inputs -/

/-- An input takes a level that 20 samples in a row have shown (R498); an opening of the SEAL loop is counted (R502). -/
theorem sampleInputs_levels (s : State) (ex se : Bool) :
    let u := s.sampleInputs ex se
    let a := decide (ex ≠ s.trust.jumper ∧ s.trust.jumperN = 19)
    let b := decide (se ≠ s.trust.sealed ∧ s.trust.sealedN = 19)
    u.trust.jumper = (if a then ex else s.trust.jumper) ∧ u.trust.jumperN = (if ex = s.trust.jumper ∨ a = true then 0 else s.trust.jumperN + 1)
      ∧ u.trust.sealed = (if b then se else s.trust.sealed)
      ∧ u.trust.sealedN = (if se = s.trust.sealed ∨ b = true then 0 else s.trust.sealedN + 1)
      ∧ u.keep.sealcnt = (if b = true ∧ se = false then s.keep.sealcnt + 1 else s.keep.sealcnt) := by
  intro u a b
  unfold u State.sampleInputs
  extract_lets t na nb s1 e
  have ha : na = debounceN ↔ a = true := by
    simp only [na, a, debounceN, t]
    split <;> simp_all
  have hb : nb = debounceN ↔ b = true := by
    simp only [nb, b, debounceN, t]
    split <;> simp_all
  have hj : s1.trust.jumper = if a then ex else s.trust.jumper := by simp only [s1, ha, t]
  have hn : s1.trust.jumperN = if ex = s.trust.jumper ∨ a = true then 0 else s.trust.jumperN + 1 := by
    by_cases h : a = true
    · simp [s1, ha, h]
    · simp [s1, ha, h, na, t]
  by_cases h : b = true
  · rw [if_pos (hb.2 h)]
    cases se with
    | true => exact ⟨hj, hn, (if_pos h).symm, (if_pos (.inr h)).symm, (if_neg (by simp)).symm⟩
    | false => exact ⟨hj, hn, (if_pos h).symm, (if_pos (.inr h)).symm, (if_pos ⟨h, rfl⟩).symm⟩
  · rw [if_neg (mt hb.1 h)]
    exact ⟨hj, hn, (if_neg h).symm, by simp [s1, nb, t, h], (if_neg fun hc => h hc.1).symm⟩

/-- Settles O46. -/
theorem presenceCommands : Obligations.PresenceCommands := by
  intro s m j n seeds ex se t wait s1
  refine ⟨unlockDebug_starts, fun h hr => ?commit, fun h hr => ?commitRefused, fun h hj => ?regen, fun hp hn hj => ?press, fun hp hn hj => ?none,
    fun hj hp => ⟨fun hn hd hr => ?draws, fun hn hb => ?drawsNot, ?pending, ?burn, ?done⟩, fun h => ?noReserve,
    fun h hl => ⟨regenPending_reserves h hl, rfl⟩, fun hr => ⟨fun hf => ?few, fun hf he => ?enough⟩, ?fuses, presenceTimeout_waits,
    fun hp hs => if_pos (by simp [hp, hs]), rfl, fun hp hs => congrArg _ (if_pos (by simp [hp, hs])), sampleInputs_levels s ex se⟩
  case commit => exact (commitSpares_starts h).trans (congrArg _ (if_neg (by simp [hr])))
  case commitRefused => exact (commitSpares_starts h).trans (congrArg _ (if_pos hr))
  case regen =>
    refine ⟨fun hr hg hi => ?_, fun hr => ?_, fun hr hg => ?_, fun hr hg hi => ?_⟩ <;> refine (regenIdentity_starts h).trans ?_ <;>
      rw [regenRefusal_eq hj]
    · rw [if_neg (by simp [hr]), if_neg (by simp [hg]), if_neg (Nat.not_le.2 hi)]
      rfl
    · rw [if_pos hr]
    · rw [if_neg (by simp [hr]), if_pos hg]
    · rw [if_neg (by simp [hr]), if_neg (by simp [hg]), if_pos hi]
  case press =>
    have he := presencePress_serves hp hn hj
    refine ⟨fun ho hx => ?_, fun ho hx => ?_, fun ho => ?_, fun ho hx => ?_, fun ho hx hr => ?_⟩
    · rw [he, servePress_unlock ho, if_pos (by exact hx)]
      rfl
    · rw [he, servePress_unlock ho, if_neg (by simp [hx])]
    · rw [he, servePress_commit ho]
    · rw [he, servePress_regen ho, if_neg (by simp [hx])]
    · rw [he, servePress_regen ho, if_pos (by exact hx), regenIdentity_accepted (by exact hr)]
  case none =>
    exact (presencePress_eq hp hn).trans (by rw [hj])
  case draws =>
    subst hn
    exact (treeBuildDone_regen hj hp).trans (congrArg _ (regenDraw_free hd hr))
  case drawsNot =>
    subst hn
    exact (treeBuildDone_regen hj hp).trans (congrArg _ (regenDraw_busy hb))
  case pending => rintro rfl; exact treeBuildDone_regen hj hp
  case burn => rintro rfl; exact treeBuildDone_regen hj hp
  case done => rintro rfl; exact treeBuildDone_regen hj hp
  case noReserve =>
    intro u
    have hk : u.keep = _ := regenPending_keep h
    rw [hk]
    exact ⟨rfl, rfl, rfl, rfl⟩
  case few => rw [commitSpares_free hr, if_pos hf]
  case enough =>
    rw [commitSpares_free hr, if_neg (Nat.not_lt.2 hf), he]
    rfl
  case fuses =>
    intro c
    refine ⟨?_, ?_, ?_, ?_, ?_, ?_, ?_, fun x => commit_fuseMarks _, fun x hx => ?_, fun x hx => ?_, commit_token_invalid _, commit_token_valid _⟩
    iterate 7
      · unfold c
        rw [commit_eq]
    · unfold c
      rw [commit_eq]
      exact List.mem_append_right _ hx
    · unfold c
      rw [commit_eq]
      exact mem_append_new hx

end Sys2Proof.Machine
end

section
/-! PROOFS. The immediate action of each class of event, and the records that coalesce, are suppressed or are lost (R451, R461, R465, R466, R470, R471,
R479). -/
namespace Sys2Proof.Machine

/-! ### What mailbox output and released slots leave -/

/-- A state without the mailboxes and their commands, what has been sent, the contexts and the scrubber. -/
def State.offMail (s : State) : State := { s with mbx := [], host := {}, jobs := [], sent := [], ctxs := [], scrub := {} }

section
variable (s : State)

theorem signalVec_offMail (v : Nat) : (s.signalVec v).offMail = s.offMail := by
  rw [signalVec_eq]
  rfl

theorem noticeTo_offMail (b : List Byte) (m : Nat) : (s.noticeTo b m).offMail = s.offMail := by
  unfold State.noticeTo
  dsimp only
  split
  · rfl
  · exact signalVec_offMail _ _

theorem notify_offMail (kind : Nat) (x : Nat) (data : List Byte) : (s.notify kind (some x) data).offMail = s.offMail := by
  refine foldl_proj State.offMail (fun t m => ?_) _ s
  split
  · exact noticeTo_offMail _ _ _
  · rfl

theorem putCompletion_offMail (j : Job) (st r : Nat) (d : List Byte) : (s.putCompletion j st r d).offMail = s.offMail := by
  unfold State.putCompletion
  dsimp only
  split
  · exact signalVec_offMail _ _
  · rfl

theorem disarmDone_offMail (m : MbxId) : (s.disarmDone m).offMail = s.offMail := by
  unfold State.disarmDone
  split
  · rfl
  · split
    · exact putCompletion_offMail _ _ _ _ _
    · rfl

theorem complete_offMail (j : Job) (st r : Nat) (d : List Byte) : (s.complete j st r d).offMail = s.offMail :=
  (disarmDone_offMail _ _).trans (putCompletion_offMail _ _ _ _ _)

theorem completeAll_offMail (p : Job → Bool) (st r : Nat) (d : List Byte) : (s.completeAll p st r d).offMail = s.offMail :=
  foldl_proj State.offMail (fun t j => complete_offMail t j st r d) _ s

theorem scrubNext_offMail : s.scrubNext.offMail = s.offMail := by
  unfold State.scrubNext
  split <;> rfl

theorem scrubDue_offMail : s.scrubDue.offMail = s.offMail := by
  unfold State.scrubDue
  split
  · exact scrubNext_offMail _
  · rfl

theorem scrubDrop_offMail (x e : Nat) : (s.scrubDrop x e).offMail = s.offMail := by
  unfold State.scrubDrop
  dsimp only
  split
  · exact (scrubDue_offMail _).trans (scrubNext_offMail _)
  · rfl

theorem releaseSlot_offMail (x e : Nat) : (s.releaseSlot x e).offMail = s.offMail := by
  unfold State.releaseSlot
  dsimp only
  rw [notify_offMail, scrubDrop_offMail]
  rfl

theorem unpin_offMail (x e : Nat) : (s.unpin x e).offMail = s.offMail := by
  unfold State.unpin State.retireSlot
  dsimp only
  split
  · exact releaseSlot_offMail _ _ _
  · rfl

theorem unpinRun_offMail : s.unpinRun.offMail = s.offMail := by
  unfold State.unpinRun
  dsimp only
  split
  · split
    · exact (unpin_offMail _ _ _).trans (unpin_offMail _ _ _)
    · exact unpin_offMail _ _ _
  · rfl

end

/-! ### What a raise sets stays set -/

/-- The bits of GLB_ERRSUM, the stop of a run and the mark of the token that s has are those of t too. -/
structure Grows (s t : State) : Prop where
  sum : ∀ i, s.err.errsum.getLsbD i = true → t.err.errsum.getLsbD i = true
  stopped : s.run.stopped = true → t.run.stopped = true
  tok : s.err.tokDue = true → t.err.tokDue = true

theorem Grows.trans {s t u : State} (h : Grows s t) (k : Grows t u) : Grows s u :=
  ⟨fun i hi => k.sum i (h.sum i hi), fun hs => k.stopped (h.stopped hs), fun ht => k.tok (h.tok ht)⟩

theorem Grows.of_eq {s t : State} (he : t.err = s.err) (hr : t.run = s.run) : Grows s t :=
  ⟨fun _ h => he ▸ h, fun h => hr ▸ h, fun h => he ▸ h⟩

theorem Grows.of_offMail {s t : State} (h : t.offMail = s.offMail) : Grows s t :=
  .of_eq (congrArg State.err h :) (congrArg State.run h :)

theorem Grows.foldl {α : Type} {f : State → α → State} (hf : ∀ t x, Grows t (f t x)) (l : List α) : ∀ s, Grows s (l.foldl f s) := by
  induction l with
  | nil => exact fun _ => .of_eq rfl rfl
  | cons x l ih => exact fun s => (hf s x).trans (ih _)

section
variable (s : State)

theorem enqueue_grows (r : EvRec) : Grows s (s.enqueue r) := by
  unfold State.enqueue
  split
  · exact ⟨fun i h => by simp [h], id, id⟩
  · exact ⟨fun _ h => h, id, id⟩

theorem offer_grows (r : EvRec) : Grows s (s.offer r) := by
  unfold State.offer
  split
  · exact ⟨fun _ h => h, id, id⟩
  · split
    · exact enqueue_grows s r
    · exact .of_eq rfl rfl

theorem setClassBit_grows (c : BitVec 3) : Grows s (s.setClassBit c) := ⟨fun i h => by simp [State.setClassBit, h], id, id⟩

theorem logEvent_grows (e : Ev) : Grows s (s.logEvent e) := (setClassBit_grows s _).trans (offer_grows _ _)

theorem logEvent_grows_of_eq {t : State} (he : t.err = s.err) (hr : t.run = s.run) (e : Ev) : Grows s (t.logEvent e) :=
  (Grows.of_eq he hr).trans (logEvent_grows t e)

theorem jumpBy_grows (q n : Nat) : Grows s (s.jumpBy q n) := by
  unfold State.jumpBy
  refine logEvent_grows_of_eq s ?_ ?_ _ <;> rfl

theorem noteFound_grows (q : Nat) (n : Option Found) : Grows s (s.noteFound q n) := by
  unfold State.noteFound
  split
  · exact .of_eq rfl rfl
  · cases n with
    | none => exact .of_eq rfl rfl
    | some x => refine logEvent_grows_of_eq s ?_ ?_ _ <;> rfl

theorem portReady_grows (q : Nat) : Grows s (s.portReady q) := by
  unfold State.portReady
  split <;> exact .of_eq rfl rfl

theorem offsetCheck_grows (q : Nat) : Grows s (s.offsetCheck q) := by
  unfold State.offsetCheck
  dsimp only
  split
  · exact .of_eq rfl rfl
  · split
    · exact .of_eq rfl rfl
    · split
      · split
        · exact (jumpBy_grows s _ _).trans (portReady_grows _ _)
        · exact .of_eq rfl rfl
      · exact portReady_grows s q

theorem checkPort_grows (q : Nat) : Grows s (s.checkPort q) := by
  unfold State.checkPort
  dsimp only
  split
  · exact .of_eq rfl rfl
  · split
    · exact .of_eq rfl rfl
    · split
      · exact offsetCheck_grows s q
      · split
        · split
          · exact (noteFound_grows s _ _).trans (offsetCheck_grows _ _)
          · exact (noteFound_grows s _ _).trans (.of_eq rfl rfl)
        · split <;> exact .of_eq rfl rfl

theorem closeRun_stopped : s.closeRun.stopped = s.run.stopped := by
  unfold State.closeRun
  split <;> rfl

theorem jobEnded_grows : Grows s s.jobEnded := by
  unfold State.jobEnded
  extract_lets used _ _ _ t
  have ht : Grows s t := ⟨fun _ h => h, fun h => (closeRun_stopped s).trans h, id⟩
  refine ht.trans (.foldl (fun t q => ?_) _ _)
  split
  · exact checkPort_grows t q
  · exact .of_eq rfl rfl

theorem sendSlice_grows (type tag : Nat) (body : List Byte) : Grows s (s.sendSlice type tag body) :=
  .of_eq (congrArg State.err (sendSlice_offWire s type tag body) :) (congrArg State.run (sendSlice_offWire s type tag body) :)

/-- A stop stops the run, and keeps what the state had. -/
theorem stopAll_grows (code : BitVec 16) (pos idx step : Nat) :
    Grows s (s.stopAll code pos idx step) ∧ (s.stopAll code pos idx step).run.stopped = true := by
  unfold State.stopAll
  extract_lets tag body t _ u
  have ht : Grows s t := (Grows.of_eq (s := s) (t := s.haltCores) rfl rfl).trans (.of_offMail (unpinRun_offMail s.haltCores))
  have hu : Grows t u := ⟨fun _ h => h, fun _ => rfl, id⟩
  have hj : Grows u (u.sendSlice 3 tag body).jobEnded := (sendSlice_grows u _ _ _).trans (jobEnded_grows _)
  exact ⟨ht.trans (hu.trans hj), hj.stopped rfl⟩

theorem stopJob_grows (code : BitVec 16) (pos idx step : Nat) : Grows s (s.stopJob code pos idx step) := by
  unfold State.stopJob
  split
  · exact (stopAll_grows s code pos idx step).1
  · exact .of_eq rfl rfl

theorem haltAgreement_grows : Grows s s.haltAgreement := by
  unfold State.haltAgreement
  split
  · have hc : Grows s { s with run := s.closeRun } := ⟨fun _ h => h, fun h => (closeRun_stopped s).trans h, id⟩
    exact hc.trans ((Grows.of_offMail (completeAll_offMail _ _ _ _ _)).trans (.of_eq rfl rfl))
  · exact .of_eq rfl rfl

theorem setHalt_grows (c : Scrub) (d : List Redigest) (l : Links) (b : Boot) (code : BitVec 16) (seq : Word32) :
    Grows s { s with scrub := c, redigests := d, links := l, boot := b, err := { s.err with haltCode := code, haltSeq := seq } } :=
  ⟨fun _ h => h, id, id⟩

theorem moduleHalt_grows (code : BitVec 16) (seq : Word32) : Grows s (s.moduleHalt code seq) := by
  unfold State.moduleHalt
  split
  · exact .of_eq rfl rfl
  · extract_lets t1 t2 t3 t4 t5
    have h1 : Grows s t1 := stopJob_grows s _ _ _ _
    have h2 : Grows t1 t2 := (haltAgreement_grows t1).trans (.of_eq (t := t1.haltAgreement.haltCores) rfl rfl)
    have h3 : Grows t2 t3 := .of_offMail (completeAll_offMail _ _ _ _ _)
    have h4 : Grows t3 t4 := .of_offMail (completeAll_offMail _ _ _ _ _)
    have h5 : Grows t4 t5 := .foldl (fun t q => by split <;> exact .of_eq rfl rfl) _ _
    exact h1.trans (h2.trans (h3.trans (h4.trans (h5.trans (setHalt_grows t5 _ _ _ _ _ _)))))

theorem moduleHalt_halt (code : BitVec 16) (seq : Word32) : (s.moduleHalt code seq).boot.halt = true := by
  unfold State.moduleHalt
  split
  · assumption
  · rfl

theorem noteLost_cores (lost : Bool) : (s.noteLost lost).cores = s.cores := by
  unfold State.noteLost
  split <;> rfl

theorem noteLost_grows (lost : Bool) : Grows s (s.noteLost lost) := by
  unfold State.noteLost
  split
  · exact ⟨fun _ h => h, id, id⟩
  · exact .of_eq rfl rfl

theorem noteSkew_eq (e : Ev) : s.noteSkew e = { s with links := (s.noteSkew e).links } := by
  unfold State.noteSkew
  split <;> rfl

theorem noteJob_grows (r : EvRec) : Grows s (s.noteJob r) := by
  unfold State.noteJob
  split
  · split
    · exact ⟨fun _ h => h, id, id⟩
    · split
      · exact ⟨fun _ h => h, id, id⟩
      · exact .of_eq rfl rfl
  · exact .of_eq rfl rfl

theorem noteJob_eq (r : EvRec) : s.noteJob r = { s with run := (s.noteJob r).run } := by
  unfold State.noteJob
  split
  · split
    · rfl
    · split <;> rfl
  · rfl

theorem noteJob_phase (r : EvRec) : (s.noteJob r).run.phase = s.run.phase := by
  unfold State.noteJob
  split
  · split
    · rfl
    · split <;> rfl
  · rfl

/-- A record of another class than JOB is noted in no run. -/
theorem noteJob_of_ne {r : EvRec} (h : r.cls ≠ clsJob) : s.noteJob r = s := if_neg fun hr => h hr.1

/-- A record is escalated while one of its class is handled, and that class is JOB or MODULE (R469). -/
theorem escalates_eq_true {r : EvRec} (h : s.escalates r = true) : s.err.busy = true ∧ (r.cls = clsJob ∨ r.cls = clsModule) := by
  unfold State.escalates at h
  split at h
  next hb _ =>
    simp only [Bool.and_eq_true, Bool.or_eq_true, decide_eq_true_eq] at h
    obtain ⟨⟨⟨_, hc⟩, _⟩, _⟩ := h
    exact ⟨hb, hc⟩
  next => cases h

theorem setClassBit_bit (c : BitVec 3) : (s.setClassBit c).err.errsum.getLsbD c.toNat = true := by
  have h : c.toNat < 32 := by omega
  rw [State.setClassBit, BitVec.getLsbD_or, BitVec.getLsbD_ofNat, Nat.testBit_two_pow_self, decide_eq_true h]
  exact Bool.or_true _

end

/-! ### The steps of a raise (R465) -/

section
variable (s : State) (e : Ev)

/-- Whether the record of an event is escalated (R469). -/
def State.raiseEsc : Bool :=
  (s.noteSkew e).isNewRec ((s.noteSkew e).mkRecord e) && (s.noteSkew e).escalates ((s.noteSkew e).mkRecord e)

/-- The record that a raise offers. -/
def State.raiseRecord : EvRec := { (s.noteSkew e).mkRecord e with esc := s.raiseEsc e }

/-- The first steps of a raise: the class bit, the record, and the mark of the token. -/
def State.raiseLog : State :=
  let t := (((s.noteSkew e).setClassBit (eventClass e.code)).offer (s.raiseRecord e)).noteJob (s.raiseRecord e)
  if dropsToken e then { t with err := { t.err with tokDue := true } } else t

/-- The raise with the immediate action of its class. -/
def State.raiseAct : State :=
  let t := s.raiseLog e
  if eventClass e.code = clsJob then
    (match e.remote with
    | some (_, p, i) => t.stopJob e.code p.toNat i.toNat ((e.step).getD 0)
    | none => t.stopJob e.code t.myPos t.myIdx t.schedStep).noteLost
      ((s.noteSkew e).isNewRec ((s.noteSkew e).mkRecord e) && decide (32 ≤ (s.noteSkew e).err.queue.length) && (s.noteSkew e).run.cause.isNone)
  else if eventClass e.code = clsModule then t.moduleHalt e.code (State.lastSeq (s.noteSkew e) t)
  else t

theorem raise_of_not_esc (h : s.raiseEsc e = false) : s.raise e = s.raiseAct e := by
  unfold State.raise
  extract_lets s0 r0 esc r s1 _ s1' seq lost s2
  have he : esc = false := h
  rw [if_neg (by simp [he])]
  rfl

theorem raiseAct_grows : Grows (s.raiseAct e) (s.raise e) := by
  unfold State.raise
  extract_lets s0 r0 esc r s1 _ s1' seq lost s2 head sec _ s3 s4
  have h2 : s.raiseAct e = s2 := rfl
  have h3 : Grows s2 s3 := ⟨fun i h => by simp [s3, h], id, id⟩
  have h4 : Grows s3 s4 := (setClassBit_grows s3 _).trans (offer_grows _ _)
  rw [h2]
  split
  · split
    · exact (h3.trans h4).trans (moduleHalt_grows _ _ _)
    · exact h3.trans h4
  · exact .of_eq rfl rfl

theorem raise_boot (h : eventClass e.code ≠ clsJob) : (s.raise e).boot = (s.raiseAct e).boot := by
  unfold State.raise
  extract_lets s0 r0 esc r s1 _ s1' seq lost s2 head sec _ s3 s4
  have h4 : s4.boot = s2.boot := by
    unfold s4
    rw [offer_eq]
    rfl
  split
  · exact (congrArg State.boot (if_neg h)).trans h4
  · rfl

theorem raiseLog_tok (h : dropsToken e = true) : (s.raiseLog e).err.tokDue = true := by
  unfold State.raiseLog
  dsimp only
  rw [if_pos h]

theorem raiseLog_bit : (s.raiseLog e).err.errsum.getLsbD (eventClass e.code).toNat = true := by
  have h := ((offer_grows _ (s.raiseRecord e)).trans (noteJob_grows _ (s.raiseRecord e))).sum _
    (setClassBit_bit (s.noteSkew e) (eventClass e.code))
  unfold State.raiseLog
  dsimp only
  split <;> exact h

/-- The record and the mark of the token leave everything but the errors, the links, the run's notes and the count of free choices. -/
theorem raiseLog_eq : s.raiseLog e =
    { s with err := (s.raiseLog e).err, free := (s.raiseLog e).free, links := (s.raiseLog e).links, run := (s.raiseLog e).run } := by
  unfold State.raiseLog
  rw [noteJob_eq, offer_eq, noteSkew_eq]
  dsimp only
  split <;> rfl

theorem raiseLog_phase : (s.raiseLog e).run.phase = s.run.phase := by
  have h : (((s.noteSkew e).setClassBit (eventClass e.code)).offer (s.raiseRecord e)).run = s.run := by
    rw [offer_eq, noteSkew_eq]
    rfl
  have hp := (noteJob_phase _ (s.raiseRecord e)).trans (congrArg Run.phase h)
  unfold State.raiseLog
  dsimp only
  split <;> exact hp

theorem raiseLog_runBound : (s.raiseLog e).runBound = s.runBound := by
  unfold State.runBound
  rw [raiseLog_phase]

theorem raiseLog_run (h : eventClass e.code ≠ clsJob) : (s.raiseLog e).run = s.run := by
  have hr : (((s.noteSkew e).setClassBit (eventClass e.code)).offer (s.raiseRecord e)).run = s.run := by
    rw [offer_eq, noteSkew_eq]
    rfl
  unfold State.raiseLog
  rw [noteJob_of_ne _ h]
  dsimp only
  split <;> exact hr

theorem raiseLog_act_grows : Grows (s.raiseLog e) (s.raiseAct e) := by
  unfold State.raiseAct
  dsimp only
  split
  · refine Grows.trans ?_ (noteLost_grows _ _)
    split <;> exact stopJob_grows _ _ _ _ _
  · split
    · exact moduleHalt_grows _ _ _
    · exact .of_eq rfl rfl

theorem raiseLog_grows : Grows (s.raiseLog e) (s.raise e) := (raiseLog_act_grows s e).trans (raiseAct_grows s e)

/-- An event that has no immediate action is only recorded. -/
theorem raise_of_other (hm : eventClass e.code ≠ clsModule) (hj : eventClass e.code ≠ clsJob) : s.raise e = s.raiseLog e := by
  have he : s.raiseEsc e = false := Bool.eq_false_iff.mpr fun h =>
    (escalates_eq_true _ (Bool.and_eq_true .. ▸ h).2).2.elim hj hm
  rw [raise_of_not_esc s e he]
  exact (if_neg hj).trans (if_neg hm)

/-- A MODULE event halts the module (R471). -/
theorem raise_module_halts (h : eventClass e.code = clsModule) : (s.raise e).boot.halt = true := by
  have hj : eventClass e.code ≠ clsJob := by
    rw [h]
    decide
  rw [raise_boot s e hj]
  unfold State.raiseAct
  dsimp only
  rw [if_neg hj, if_pos h]
  exact moduleHalt_halt _ _ _

/-- A JOB event of this module stops the job that runs (R461). -/
theorem raise_job_stops (h : eventClass e.code = clsJob) (hb : s.runBound = true) (hr : e.remote = none) :
    (s.raise e).run.stopped = true := by
  refine (raiseAct_grows s e).stopped ?_
  unfold State.raiseAct
  simp only [h, if_true, hr]
  refine (noteLost_grows _ _).stopped ?_
  unfold State.stopJob
  rw [raiseLog_runBound, if_pos hb]
  exact (stopAll_grows _ _ _ _ _).2

/-- With no run in progress a JOB event stops nothing (R461). -/
theorem raise_job_idle (h : eventClass e.code = clsJob) (hi : s.run.phase = .idle) (hr : e.remote = none) (hb : s.err.busy = false) :
    (s.raise e).cores = s.cores := by
  have hE : (s.noteSkew e).err = s.err := by rw [noteSkew_eq]
  have he : s.raiseEsc e = false := Bool.eq_false_iff.mpr fun hT => by
    have := (escalates_eq_true _ (Bool.and_eq_true .. ▸ hT).2).1
    rw [hE, hb] at this
    cases this
  have hn : (s.raiseLog e).runBound = false := by
    rw [raiseLog_runBound, State.runBound, hi]
  have hl : (s.raiseLog e).cores = s.cores := by rw [raiseLog_eq]
  rw [raise_of_not_esc s e he]
  unfold State.raiseAct
  simp only [h, if_true, hr]
  rw [noteLost_cores, State.stopJob, if_neg (by simp [hn]), hl]

/-! ### The queue of records -/

theorem bumpCount_of_first (r : EvRec) (a : List EvRec) (q : EvRec) (b : List EvRec) (ha : ∀ y ∈ a, y.sameKey r = false)
    (hq : q.sameKey r = true) : bumpCount r (a ++ q :: b) = a ++ { q with count := Nat.min (q.count + 1) 255 } :: b := by
  induction a with
  | nil => exact if_pos hq
  | cons y a ih =>
    rw [List.cons_append, bumpCount, if_neg (by simp [ha y List.mem_cons_self]), ih fun z hz => ha z (List.mem_cons_of_mem _ hz)]
    rfl

theorem offer_coalesces {r : EvRec} (h : ∃ q ∈ s.err.queue, q.sameKey r = true) :
    s.offer r = { s with err := { s.err with queue := bumpCount r s.err.queue } } :=
  if_pos (List.any_eq_true.mpr h)

theorem offer_of_new {r : EvRec} (h : ∀ q ∈ s.err.queue, q.sameKey r = false) :
    s.offer r = if r.runid ≠ 0 ∧ (r.runid, r.code) ∈ s.err.entered then s else s.enqueue r := by
  have ha : s.err.queue.any (fun q => q.sameKey r) = false := List.any_eq_false.mpr fun q hq => by simp [h q hq]
  unfold State.offer State.isNewRec
  rw [ha]
  by_cases hr : r.runid ≠ 0 ∧ (r.runid, r.code) ∈ s.err.entered
  · rw [if_pos hr]
    exact (if_neg (by simp)).trans (if_neg (by simpa using hr))
  · rw [if_neg hr]
    refine (if_neg (by simp)).trans (if_pos ?_)
    simpa [imp_iff_not_or] using hr

end

/-- Settles O55. -/
theorem eventClasses : Obligations.EventClasses := by
  intro s e
  refine ⟨(raiseLog_grows s e).sum _ (raiseLog_bit s e), fun h _ => raise_module_halts s e h, fun hm hj => ?_, raise_job_stops s e,
    raise_job_idle s e, fun h => (raiseLog_grows s e).tok (raiseLog_tok s e h), fun r => ⟨offer_coalesces s, fun hn => ⟨fun hr he => ?_, fun hr => ?_⟩,
      bumpCount_of_first r, fun hl => ?_, fun hl => ?_⟩⟩
  · rw [raise_of_other s e hm hj]
    have h := raiseLog_eq s e
    exact ⟨(congrArg State.cores h :), (congrArg State.lpddr h :), raiseLog_run s e hj, (congrArg State.boot h :)⟩
  · exact (offer_of_new s hn).trans (if_pos ⟨hr, he⟩)
  · exact (offer_of_new s hn).trans (if_neg fun h => hr.elim h.1 fun hm => hm h.2)
  · rw [State.enqueue, if_neg (by omega)]
    exact ⟨rfl, rfl⟩
  · rw [State.enqueue, if_pos hl]
    exact ⟨rfl, rfl, rfl⟩

end Sys2Proof.Machine
end

section
/-! PROOFS. What the resets of module level leave and what they keep (R405, R435, R436, R437, R439, R451, R453, R478, R495, R498, R503, R508). -/
namespace Sys2Proof.Machine

/-! ### The mask ROM -/

section
variable (s : State) (r : RomTest)

theorem romRun_boot : (s.romRun r).boot = { s.boot with
    romOk := s.boot.romOk && romPasses r, romDig := r.lanes
    fw := (s.romRun r).boot.fw, fwstate := (s.romRun r).boot.fwstate, phase := (s.romRun r).boot.phase } := by
  unfold State.romRun
  dsimp only
  split
  · rfl
  · split
    · split <;> rfl
    · rfl

theorem romPasses_eq_false (h : r.ok = false ∨ r.lanes = 0xF) : romPasses r = false := by
  unfold romPasses
  rcases h with h | h <;> simp [h]

/-- A failed ROM test stands (R437, R495). -/
theorem romRun_failed (h : (s.boot.romOk && romPasses r) = false) : (s.romRun r).boot.fwstate = 0xF ∧ (s.romRun r).boot.fw = s.boot.fw := by
  unfold State.romRun
  dsimp only
  rw [if_pos (by simp [h])]
  exact ⟨rfl, rfl⟩

/-- An intact resident firmware restarts (R439). -/
theorem romRun_restarts {f : Firmware} (h : (s.boot.romOk && romPasses r) = true) (hf : s.boot.fw = some f) (hi : f.intact = true) :
    (s.romRun r).boot.fw = some f ∧ (s.romRun r).boot.fwstate = 4 := by
  unfold State.romRun
  dsimp only
  rw [if_neg (by simp [h])]
  simp only [hf, hi, if_true]
  exact ⟨trivial, trivial⟩

/-- A resident firmware whose digest is no longer the recorded one is dropped, and the ROM waits for a load (R439). -/
theorem romRun_drops {f : Firmware} (h : (s.boot.romOk && romPasses r) = true) (hf : s.boot.fw = some f) (hi : f.intact = false) :
    (s.romRun r).boot.fw = none ∧ (s.romRun r).boot.fwstate = 1 := by
  unfold State.romRun
  dsimp only
  rw [if_neg (by simp [h])]
  simp only [hf, hi, Bool.false_eq_true, if_false]
  exact ⟨trivial, trivial⟩

theorem romRun_fw_none (hf : s.boot.fw = none) : (s.romRun r).boot.fw = none := by
  unfold State.romRun
  dsimp only
  split
  · exact hf
  · simp only [hf]

theorem derive_inputs (t : Trust) (k : Persist) : t.derive k = { t with kf := (t.derive k).kf, kn := (t.derive k).kn
                                                                        udsLocked := (t.derive k).udsLocked } := by
  unfold Trust.derive
  split <;> rfl

end

/-! ### The state before the mask ROM runs -/

section
variable (s : State)

/-- The state that a module reset leaves before the mask ROM runs: the link trains unless it stays up (R405). -/
def State.beforeRom (st : Straps) (keepLink : Bool) : State :=
  let s1 := s.stopForReset.resetBase st
  if keepLink then { s1 with host := { s1.host with rate := s.host.rate, width := s.host.width, flit := s.host.flit } } else s1.trainHost

theorem moduleReset_eq (st : Straps) (rom : RomTest) (k : Bool) : s.moduleReset st rom k = (s.beforeRom st k).romRun rom := rfl

theorem beforeRom_eq (st : Straps) (k : Bool) : s.beforeRom st k =
    { s.stopForReset.resetBase st with free := (s.beforeRom st k).free, host := (s.beforeRom st k).host } := by
  cases k <;> rfl

theorem beforeRom_host (st : Straps) (k : Bool) : (s.beforeRom st k).host.expert = st.expert ∧ (s.beforeRom st k).host.lock = false := by
  cases k <;> exact ⟨rfl, rfl⟩

theorem beforeRom_boot (st : Straps) (k : Bool) : (s.beforeRom st k).boot =
    { power := s.boot.power, perst := s.boot.perst, romOk := s.boot.romOk, straps := st, smbAdr := s.boot.smbAdr
      fw := if s.boot.discard then none else s.boot.fw, results := s.boot.results } := by
  rw [beforeRom_eq, ← stopForReset_boot s]
  rfl

/-- An event that calls for the cold path has invalidated the token (R451, R478). -/
theorem keepAtReset_tokValid (h : s.err.tokDue = true) : s.keepAtReset.tokValid = false := by
  unfold State.keepAtReset
  dsimp only
  rw [if_pos h]
  refine decide_eq_false ?_
  simp only [List.getD_eq_getElem?_getD, List.getElem?_set_self']
  cases s.flushed.token[6]? <;> exact of_decide_eq_false rfl

theorem moduleReset_fw (st : Straps) (rom : RomTest) (k : Bool) (h : s.boot.discard = true) : (s.moduleReset st rom k).boot.fw = none := by
  refine romRun_fw_none (s.beforeRom st k) rom ?_
  rw [beforeRom_boot]
  exact if_pos h

theorem moduleReset_failed (st : Straps) (rom : RomTest) (k : Bool) (h : s.boot.romOk = false ∨ rom.ok = false ∨ rom.lanes = 0xF) :
    (s.moduleReset st rom k).boot.fwstate = 0xF := by
  refine (romRun_failed (s.beforeRom st k) rom ?_).1
  rw [beforeRom_boot]
  rcases h with h | h
  · exact Bool.and_eq_false_imp.mpr fun hr => absurd (h.symm.trans hr) (by decide)
  · rw [romPasses_eq_false rom h]
    exact Bool.and_false _

/-- The resident firmware after a reset that keeps it and whose ROM test passes (R439). -/
theorem moduleReset_resident (st : Straps) (rom : RomTest) (k : Bool) {f : Firmware} (hd : s.boot.discard = false) (hf : s.boot.fw = some f)
    (ho : s.boot.romOk = true) (hr : rom.ok = true) (hl : rom.lanes ≠ 0xF) :
    (digest512 f.image = f.digest → (s.moduleReset st rom k).boot.fw = some f ∧ (s.moduleReset st rom k).boot.fwstate = 4)
    ∧ (digest512 f.image ≠ f.digest → (s.moduleReset st rom k).boot.fw = none ∧ (s.moduleReset st rom k).boot.fwstate = 1) := by
  have hgood : ((s.beforeRom st k).boot.romOk && romPasses rom) = true := by
    rw [beforeRom_boot]
    exact Bool.and_eq_true_iff.mpr ⟨ho, Bool.and_eq_true_iff.mpr ⟨hr, decide_eq_true hl⟩⟩
  have hfw : (s.beforeRom st k).boot.fw = some f := by
    rw [beforeRom_boot, hd]
    exact hf
  exact ⟨fun h => romRun_restarts _ rom hgood hfw (decide_eq_true h), fun h => romRun_drops _ rom hgood hfw (decide_eq_false h)⟩

/-- Outside the boot state, the trust state and the host link a module reset leaves what `resetBase` says. -/
theorem moduleReset_frame (st : Straps) (rom : RomTest) (k : Bool) : s.moduleReset st rom k = { s.stopForReset.resetBase st with
    free := (s.moduleReset st rom k).free, host := (s.moduleReset st rom k).host
    boot := (s.moduleReset st rom k).boot, trust := (s.moduleReset st rom k).trust } := by
  rw [moduleReset_eq, romRun_eq, beforeRom_eq]

theorem moduleReset_host (st : Straps) (rom : RomTest) (k : Bool) :
    (s.moduleReset st rom k).host.expert = st.expert ∧ (s.moduleReset st rom k).host.lock = false := by
  rw [moduleReset_eq, romRun_eq]
  exact beforeRom_host s st k

/-- The boot state after a module reset is fresh but for the ROM's, the power's and the firmware's (R437, R453). -/
theorem moduleReset_boot (st : Straps) (rom : RomTest) (k : Bool) : (s.moduleReset st rom k).boot =
    { power := s.boot.power, perst := s.boot.perst, straps := st, smbAdr := s.boot.smbAdr, results := s.boot.results
      romOk := s.boot.romOk && romPasses rom, romDig := rom.lanes, fw := (s.moduleReset st rom k).boot.fw
      fwstate := (s.moduleReset st rom k).boot.fwstate, phase := (s.moduleReset st rom k).boot.phase } := by
  conv_lhs => rw [moduleReset_eq, romRun_boot, beforeRom_boot]
  rfl

/-- The trust state after a module reset is fresh but for the carrier's inputs and what the mask ROM derives (R481, R498). -/
theorem moduleReset_trust (st : Straps) (rom : RomTest) (k : Bool) : (s.moduleReset st rom k).trust =
    { pres := s.trust.pres, jumper := s.trust.jumper, sealed := s.trust.sealed, jumperN := s.trust.jumperN, sealedN := s.trust.sealedN
      kf := (s.moduleReset st rom k).trust.kf, kn := (s.moduleReset st rom k).trust.kn
      udsLocked := (s.moduleReset st rom k).trust.udsLocked } := by
  have h : (s.beforeRom st k).trust =
      { pres := s.trust.pres, jumper := s.trust.jumper, sealed := s.trust.sealed, jumperN := s.trust.jumperN, sealedN := s.trust.sealedN } := by
    rw [beforeRom_eq, ← stopForReset_trust s]
    rfl
  conv_lhs => rw [moduleReset_eq, romRun_eq]
  refine (derive_inputs _ _).trans ?_
  rw [moduleReset_eq, romRun_eq, h]

/-- LPDDR, the keeping flash and the queue after a module reset (R453). -/
theorem moduleReset_kept (st : Straps) (rom : RomTest) (k : Bool) :
    (s.moduleReset st rom k).lpddr = s.lpddr ∧ (s.moduleReset st rom k).keep = s.stopForReset.keepAtReset
      ∧ (s.moduleReset st rom k).pending = s.pending := by
  rw [moduleReset_frame]
  exact ⟨stopForReset_lpddr s, rfl, stopForReset_pending s⟩

end

/-- Settles O50. -/
theorem moduleResets : Obligations.ModuleResets := by
  intro s st rom tag e
  refine ⟨fun h => ⟨congrArg _ (if_pos h), congrArg _ (if_pos h), congrArg _ (if_pos h)⟩, fun h => congrArg _ (if_pos h),
    fun ha hf => if_pos (by simp [ha, hf]), ?_, fun hp => ⟨rfl, ite_self none, rfl, rfl, fun hx => ?_, fun hx => ?_⟩, fun hp => if_pos hp,
    fun hx hp => ?_, fun hx hp => ?_, fun hx hp => ?_⟩
  · intro t
    have hf : t = _ := moduleReset_frame s st rom (decide (e = 0))
    have hb : t.boot = _ := moduleReset_boot s st rom (decide (e = 0))
    have ht : t.trust = _ := moduleReset_trust s st rom (decide (e = 0))
    obtain ⟨hl, hk, hp⟩ := moduleReset_kept s st rom (decide (e = 0))
    obtain ⟨he, hlock⟩ := moduleReset_host s st rom (decide (e = 0))
    refine ⟨(congrArg State.cores hf :), (congrArg State.parts hf :), (congrArg State.passes hf :), (congrArg State.ctxs hf :),
      (congrArg State.mbx hf :), (congrArg State.jobs hf :), (congrArg State.run hf :), (congrArg State.err hf :), (congrArg State.links hf :),
      (congrArg State.ring hf :), (congrArg State.phys hf :), (congrArg State.resets hf :), (congrArg Boot.ready hb :), (congrArg Boot.strict hb :),
      (congrArg Boot.halt hb :), (congrArg Trust.dbg ht :), (congrArg Boot.straps hb :), hl, hk, he, hlock, (congrArg Trust.jumper ht :),
      (congrArg Trust.sealed ht :), (congrArg Trust.stuck ht :), (congrArg Trust.sampled ht :), fun hT => ?_, moduleReset_fw s st rom _,
      moduleReset_failed s st rom _, fun f hd hf ho hr hx => moduleReset_resident s st rom _ hd hf ho hr hx, (congrArg Boot.romDig hb :), hp⟩
    rw [hk]
    exact keepAtReset_tokValid _ ((congrArg Err.tokDue (stopForReset_err s)).trans hT)
  · exact (if_neg (by simp [hp])).trans (congrArg _ (if_pos hx))
  · exact (if_neg (by simp [hp])).trans (congrArg _ (if_neg (by simp [hx])))
  · refine (if_neg (by simp [hx])).trans ?_
    rw [if_pos hp]
  · exact (if_pos hx).trans (congrArg _ (if_pos hp))
  · exact (if_pos hx).trans (congrArg _ (if_neg (by simp [hp])))

end Sys2Proof.Machine
end

section
/-! PROOFS. The load of the firmware and its checks in order (R438, R439, R440, R459, R480, R482 to R484). -/
namespace Sys2Proof.Machine

/-- The length check in the words of R438. -/
theorem fwLenOk_iff (n : Nat) : fwLenOk n = true ↔ n ≠ 0 ∧ n % 64 = 0 ∧ n ≤ 8388608 := by
  simp only [fwLenOk, Bool.and_eq_true, decide_eq_true_eq, and_assoc]
  exact Iff.rfl

section
variable (s : State)

/-- GLB_FWCTRL without GO stores DISCARD alone (R439). -/
theorem fwCtrl_store {v : Word32} (ha : s.alive = true) (h : v.getLsbD 0 = false) :
    s.fwCtrl v = { s with boot := { s.boot with discard := v.getLsbD 1 } } := by
  unfold State.fwCtrl
  rw [if_pos ha]
  exact if_neg (by rw [h]; exact Bool.false_ne_true)

/-- GO starts a load when the ROM waits for one (R438, R459). -/
theorem fwCtrl_go {v : Word32} (ha : s.alive = true) (h : v.getLsbD 0 = true) (hs : s.boot.fwstate = 1) :
    s.fwCtrl v = { s with boot := { s.boot with
      discard := v.getLsbD 1, att := BitVec.ofNat 8 (Nat.min (s.boot.att.toNat + 1) 0xFF), fwstate := 2, go := true } } := by
  unfold State.fwCtrl
  rw [if_pos ha]
  exact if_pos (by simp only [h, hs]; rfl)

/-! ### The end of the transfer, in STATE 0x2 -/

variable {s} (h2 : s.boot.fwstate = 2)
include h2

theorem transfer_badLength (img : Option (List Byte)) (hl : fwLenOk s.boot.fwlen.toNat = false) :
    execFirmwareVerified img s = .next (s.fwFailed 1) := by
  unfold execFirmwareVerified
  rw [if_neg (by simp [h2]), if_neg (by simp [h2]), if_pos (by simp [hl])]

theorem transfer_failed (hl : fwLenOk s.boot.fwlen.toNat = true) : execFirmwareVerified none s = .next (s.fwFailed 2) := by
  unfold execFirmwareVerified
  rw [if_neg (by simp [h2]), if_neg (by simp [h2]), if_neg (by simp [hl])]

theorem transfer_done (l : List Byte) (hl : fwLenOk s.boot.fwlen.toNat = true) : execFirmwareVerified (some l) s = .next
    { s with boot := { s.boot with fwstate := 3, fwImg := (l ++ zeros s.boot.fwlen.toNat).take s.boot.fwlen.toNat } } := by
  unfold execFirmwareVerified
  rw [if_neg (by simp [h2]), if_neg (by simp [h2]), if_neg (by simp [hl])]

end

/-! ### The verdict on the image, in STATE 0x3 (R483) -/

section
variable (s : State) {b : List Byte}

theorem fwVerdict_header (h : fwHeaderOk b = false) : s.fwVerdict b = s.fwFailed 3 := if_pos (by simp [h])

theorem fwVerdict_signature (hh : fwHeaderOk b = true) (h : fwSigned s.keep.vkeyBytes b = false) : s.fwVerdict b = s.fwFailed 4 :=
  (if_neg (by simp [hh])).trans (if_pos (by simp [h]))

theorem fwVerdict_floor (hh : fwHeaderOk b = true) (hs : fwSigned s.keep.vkeyBytes b = true) (h : leAt b 8 4 < s.keep.floor) :
    s.fwVerdict b = s.fwFailed 5 :=
  (if_neg (by simp [hh])).trans ((if_neg (by simp [hs])).trans (if_pos h))

theorem fwVerdict_starts (hh : fwHeaderOk b = true) (hs : fwSigned s.keep.vkeyBytes b = true) (h : s.keep.floor ≤ leAt b 8 4) :
    s.fwVerdict b = s.fwStart b :=
  (if_neg (by simp [hh])).trans ((if_neg (by simp [hs])).trans (if_neg (by omega)))

end

/-- What the image header check says of RELEASE, FLOOR, the format and the lengths (R482). -/
theorem fwHeaderOk_fields {b : List Byte} (h : fwHeaderOk b = true) : 1 ≤ leAt b 8 4 ∧ leAt b 8 4 < 2 ^ 20 ∧ leAt b 12 4 ≤ leAt b 8 4
    ∧ leAt b 4 2 = 1 ∧ 0x100 + leAt b 0x10 8 + 2820 ≤ b.length ∧ b.length < 0x100 + leAt b 0x10 8 + 2884 := by
  simp only [fwHeaderOk, Bool.and_eq_true, decide_eq_true_eq] at h
  obtain ⟨⟨⟨⟨⟨⟨⟨⟨⟨_, hver⟩, _⟩, _⟩, _⟩, hlo⟩, hhi⟩, hfloor⟩, hlen⟩, hpad⟩ := h
  exact ⟨hlo, hhi, hfloor, hver, hlen, by omega⟩

theorem raiseFloor_burns {k : Persist} {f : Nat} (hf : k.floor < f) (hl : k.floors.length < 16) :
    k.raiseFloor f = { k with floors := k.floors ++ [BitVec.ofNat 20 f] } := if_pos ⟨hf, hl⟩

theorem raiseFloor_keeps {k : Persist} {f : Nat} (h : f ≤ k.floor ∨ 16 ≤ k.floors.length) : k.raiseFloor f = k := if_neg (by omega)

/-- Settles O51. -/
theorem firmwareLoads : Obligations.FirmwareLoads := by
  refine ⟨?_, fun k f => ⟨raiseFloor_burns, raiseFloor_keeps⟩, fun b => fwHeaderOk_fields⟩
  intro s v img l n b s1 failed lenOk
  refine ⟨fun ha h => congrArg _ (fwCtrl_store s ha h), fun ha h hs => congrArg _ (fwCtrl_go s ha h hs), fun h2 => ⟨fun hl => ?_, fun hl => ?_, fun hl => ?_⟩,
    fun h3 => ?_, fun h2 h3 => ?_, rfl⟩
  · exact transfer_badLength h2 img (Bool.eq_false_iff.mpr fun h => hl ((fwLenOk_iff n).mp h))
  · exact transfer_failed h2 ((fwLenOk_iff n).mpr hl)
  · exact transfer_done h2 l ((fwLenOk_iff n).mpr hl)
  · have hv : exec (.firmwareVerified img) s = .next (s.fwVerdict b) := if_pos h3
    rw [hv]
    exact ⟨fun h => congrArg _ (fwVerdict_header s h), fun hh h => congrArg _ (fwVerdict_signature s hh h),
      fun hh hs h => congrArg _ (fwVerdict_floor s hh hs h), fun hh hs h => congrArg _ (fwVerdict_starts s hh hs h)⟩
  · exact (if_neg h3).trans (if_pos h2)

end Sys2Proof.Machine
end

section
/-! PROOFS. The cold and the warm path of a start-up, and the tests-valid token (R159, R440 to R450, R487). -/
namespace Sys2Proof.Machine

/-! ### The tests-valid token (R449, R450) -/

/-- The field that stands behind the bytes before it. -/
theorem drop_take_field {α : Type} (a b c : List α) : ((a ++ b ++ c).drop a.length).take b.length = b := by
  rw [List.append_assoc, List.drop_left, List.take_left]

theorem leAt_field {off : Nat} (n v : Nat) (a c : List Byte) (ha : a.length = off) : leAt (a ++ leBytes n v ++ c) off n = v % 256 ^ n := by
  have h := drop_take_field a (leBytes n v) c
  rw [ha, leBytes_length] at h
  rw [leAt, h, leNat_leBytes_mod]

theorem mapDigest_length (k : Persist) : k.mapDigest.length = 16 := by simp [Persist.mapDigest]

/-- The bytes of a token that its CHECK covers. -/
def Persist.tokenBody (k : Persist) (w : Nat) : List Byte :=
  tokenHead ++ leBytes 8 k.modser.toNat ++ k.mapDigest ++ leBytes 4 k.spseq ++ leBytes 8 w ++ zeros 4

section
variable (k : Persist) (w : Nat)

theorem tokenAt_eq : k.tokenAt w = k.tokenBody w ++ shake256 (k.tokenBody w) 16 := rfl

theorem tokenBody_length : (k.tokenBody w).length = 48 := by
  simp [Persist.tokenBody, leBytes_length, mapDigest_length, tokenHead, zeros]

theorem tokenAt_length : (k.tokenAt w).length = 64 := by
  rw [tokenAt_eq, List.length_append, tokenBody_length, shake256_length]

theorem tokenAt_head : ∃ l, k.tokenAt w = tokenHead ++ l := by
  refine ⟨leBytes 8 k.modser.toNat ++ k.mapDigest ++ leBytes 4 k.spseq ++ leBytes 8 w ++ zeros 4 ++ shake256 (k.tokenBody w) 16, ?_⟩
  simp only [tokenAt_eq, Persist.tokenBody, List.append_assoc]

/-- A fresh token is VALID, so that setting VALID changes no byte. -/
theorem tokenAt_set : (k.tokenAt w).set 6 1 = k.tokenAt w := by
  obtain ⟨l, hl⟩ := tokenAt_head k w
  rw [hl]
  rfl

theorem tokenAt_intact : ({ k with token := k.tokenAt w } : Persist).tokIntact = true := by
  have hh : (k.tokenAt w).take 6 = tokenHead.take 6 := by
    obtain ⟨l, hl⟩ := tokenAt_head k w
    rw [hl]
    rfl
  have hb : (k.tokenAt w).take 48 = k.tokenBody w := by
    rw [tokenAt_eq, ← tokenBody_length k w, List.take_left]
  have hc : (k.tokenAt w).drop 48 = shake256 (k.tokenBody w) 16 := by
    rw [tokenAt_eq, ← tokenBody_length k w, List.drop_left]
  unfold Persist.tokIntact
  simp only [tokenAt_set, tokenAt_length, hh, hb, hc, decide_true, Bool.and_self]

theorem tokenAt_valid : ({ k with token := k.tokenAt w } : Persist).tokValid = true := by
  obtain ⟨l, hl⟩ := tokenAt_head k w
  unfold Persist.tokValid
  simp only [hl]
  rfl

theorem tokenAt_modser : leAt (k.tokenAt w) 8 8 = k.modser.toNat := by
  have h : k.tokenAt w = tokenHead ++ leBytes 8 k.modser.toNat
      ++ (k.mapDigest ++ leBytes 4 k.spseq ++ leBytes 8 w ++ zeros 4 ++ shake256 (k.tokenBody w) 16) := by
    simp only [tokenAt_eq, Persist.tokenBody, List.append_assoc]
  rw [h]
  exact (leAt_field 8 _ _ _ rfl).trans (Nat.mod_eq_of_lt k.modser.isLt)

theorem tokenAt_fuses : ((k.tokenAt w).drop 16).take 16 = k.mapDigest := by
  have h : k.tokenAt w = (tokenHead ++ leBytes 8 k.modser.toNat) ++ k.mapDigest
      ++ (leBytes 4 k.spseq ++ leBytes 8 w ++ zeros 4 ++ shake256 (k.tokenBody w) 16) := by
    simp only [tokenAt_eq, Persist.tokenBody, List.append_assoc]
  have hf := drop_take_field (tokenHead ++ leBytes 8 k.modser.toNat) k.mapDigest
    (leBytes 4 k.spseq ++ leBytes 8 w ++ zeros 4 ++ shake256 (k.tokenBody w) 16)
  rw [mapDigest_length] at hf
  rw [h]
  exact hf

theorem tokenAt_spseq : leAt (k.tokenAt w) 0x20 4 = k.spseq % 2 ^ 32 := by
  have h : k.tokenAt w = (tokenHead ++ leBytes 8 k.modser.toNat ++ k.mapDigest) ++ leBytes 4 k.spseq
      ++ (leBytes 8 w ++ zeros 4 ++ shake256 (k.tokenBody w) 16) := by
    simp only [tokenAt_eq, Persist.tokenBody, List.append_assoc]
  rw [h]
  refine leAt_field 4 _ _ _ ?_
  simp [leBytes_length, mapDigest_length, tokenHead]

theorem tokenAt_written (hw : w < 2 ^ 64) : leAt (k.tokenAt w) 0x24 8 = w := by
  have h : k.tokenAt w = (tokenHead ++ leBytes 8 k.modser.toNat ++ k.mapDigest ++ leBytes 4 k.spseq) ++ leBytes 8 w
      ++ (zeros 4 ++ shake256 (k.tokenBody w) 16) := by
    simp only [tokenAt_eq, Persist.tokenBody, List.append_assoc]
  rw [h]
  refine (leAt_field 8 _ _ _ ?_).trans (Nat.mod_eq_of_lt hw)
  simp [leBytes_length, mapDigest_length, tokenHead]

end

/-- A choice whose first alternative is not the answer. -/
theorem ite_eq_iff_of_ne {α : Type} {p : Prop} [Decidable p] {a b c : α} (h : a ≠ c) : (if p then a else b) = c ↔ ¬ p ∧ b = c := by
  simp [ite_eq_iff, h]

/-- The token serves while R450 holds and no test was asked for. -/
theorem tokCode_eq_zero (s : State) : s.tokCode = 0 ↔ s.keep.token ≠ [] ∧ s.keep.tokIntact = true ∧ s.keep.tokModser = s.keep.modser.toNat
    ∧ s.keep.tokFuses = s.keep.mapDigest ∧ s.keep.tokWritten ≤ s.keep.powered ∧ s.keep.powered < s.keep.tokWritten + 604800
    ∧ s.boot.results ≠ none ∧ s.keep.tokValid = true ∧ s.boot.straps.cold = false ∧ s.boot.att = 0 := by
  unfold State.tokCode
  dsimp only
  rw [ite_eq_iff_of_ne (by decide), ite_eq_iff_of_ne (by decide), ite_eq_iff_of_ne (by decide), ite_eq_iff_of_ne (by decide),
    ite_eq_iff_of_ne (by decide), ite_eq_iff_of_ne (by decide)]
  simp only [List.isEmpty_iff, Bool.or_eq_true, Bool.not_eq_true', decide_eq_true_eq, not_or, Bool.not_eq_false, not_lt, not_le, not_not,
    Bool.not_eq_true, and_true, and_assoc, ne_eq]

/-! ### The end of a start-up -/

/-- The parts of the state that the end of a start-up reports or keeps: the straps, LPDDR, the token and the error state. -/
def State.startView (s : State) : Straps × List (Nat × Byte) × List Byte × Err := (s.boot.straps, s.lpddr, s.keep.token, s.err)

section
variable (s : State)

theorem setRepairs_startView : s.setRepairs.startView = s.startView := by
  unfold State.setRepairs
  extract_lets f en
  rcases sramReps f en with ⟨r0, r1, r2⟩
  refine (foldl_proj State.startView (fun t p => ?_) _ _).trans (foldl_proj State.startView (fun t c => ?_) _ _)
  · split
    · rfl
    · split <;> rfl
  · split <;> rfl

theorem readTref_startView : s.readTref.startView = s.startView := by
  unfold State.startView
  rw [readTref_eq]

theorem setLpddr_startView (l : List Nat) : (s.setLpddr l).startView = s.startView := by
  unfold State.setLpddr
  rw [readTref_startView]
  refine foldl_proj State.startView (fun t n => ?_) _ s
  rfl

theorem setLanes_startView : s.setLanes.startView = s.startView := by
  unfold State.setLanes
  extract_lets good bad s1
  have h : s1.startView = s.startView := by
    refine foldl_proj State.startView (fun t q => ?_) _ s
    rfl
  exact h

theorem settleKeys_token (k : Persist) (t : Trust) (n : Nat) : (k.settleKeys t n).token = k.token := by
  unfold Persist.settleKeys
  split
  · rfl
  · split <;> rfl

theorem openIdentity_startView : s.openIdentity.startView = s.startView := by
  unfold State.openIdentity
  extract_lets k
  have hk : k.token = s.keep.token := settleKeys_token _ _ _
  split <;> simp only [State.startView, hk]

theorem setWear_startView : s.setWear.startView = s.startView := rfl

/-- The last step of a start-up: READY, strict mode from its strap, the phase and the results. -/
def State.startDone (t : TestResults) (n : BitVec 16) : State := { s with boot := { s.boot with
  ready := true, strict := s.boot.straps.strict, phase := 6, elapsed := n, wearCrit := false, results := some t } }

theorem finishStart_eq (t : TestResults) (l : List Nat) (n : BitVec 16) :
    s.finishStart t l n = (((s.setRepairs.setLpddr l).setLanes).openIdentity.setWear).startDone t n := rfl

theorem startDone_startView (t : TestResults) (n : BitVec 16) : (s.startDone t n).startView = s.startView := rfl

theorem startDone_boot (t : TestResults) (n : BitVec 16) :
    (s.startDone t n).boot.ready = true ∧ (s.startDone t n).boot.strict = (s.startDone t n).boot.straps.strict := ⟨rfl, rfl⟩

theorem finishStart_startView (t : TestResults) (l : List Nat) (n : BitVec 16) : (s.finishStart t l n).startView = s.startView := by
  rw [finishStart_eq, startDone_startView, setWear_startView, openIdentity_startView, setLanes_startView, setLpddr_startView,
    setRepairs_startView]

theorem finishStart_boot (t : TestResults) (l : List Nat) (n : BitVec 16) :
    (s.finishStart t l n).boot.ready = true ∧ (s.finishStart t l n).boot.strict = (s.finishStart t l n).boot.straps.strict := by
  rw [finishStart_eq]
  exact startDone_boot _ t n

/-- At the end of a start-up the module is ready, and strict mode takes its strap (R159, R440). -/
theorem finishStart_ready (t : TestResults) (l : List Nat) (n : BitVec 16) : (s.finishStart t l n).boot.ready = true
    ∧ (s.finishStart t l n).boot.strict = s.boot.straps.strict ∧ (s.finishStart t l n).lpddr = s.lpddr := by
  have h := finishStart_startView s t l n
  simp only [State.startView, Prod.mk.injEq] at h
  obtain ⟨hs, hl, _, _⟩ := h
  obtain ⟨hr, hstrict⟩ := finishStart_boot s t l n
  exact ⟨hr, hstrict.trans (congrArg Straps.strict hs), hl⟩

/-- The end of a cold path writes the token (R449), which vouches for what has called for the cold path (R451). -/
theorem finishCold_token (t : TestResults) : (s.finishCold t).keep.token = s.keep.tokenAt s.keep.powered ∧ (s.finishCold t).boot.ready = true
    ∧ (s.finishCold t).err.tokDue = false := by
  unfold State.finishCold
  extract_lets _ _ _ s1
  have h := finishStart_startView s1 t t.lpdFailed ((Config.freeWord64 s.free).truncate 16)
  simp only [State.startView, Prod.mk.injEq] at h
  obtain ⟨_, _, ht, he⟩ := h
  exact ⟨ht, (finishStart_boot _ _ _ _).1, congrArg Err.tokDue he⟩

/-- With no pending record that opens, the identity is that of the current record, and its next index is LIM (R487, R490). -/
theorem openIdentity_current {x : List Byte} {n : Nat} (hf : keySeeds s.trust.kf s.keep.idgen s.keep.idPend = none)
    (hn : keySeeds (s.trust.kn.getD []) (s.keep.idgen + 1) s.keep.idPend = none) (hk : keySeeds s.trust.kf s.keep.idgen s.keep.idKey = some x)
    (hl : limOf s.trust.kf s.keep.idLim = some n) :
    s.openIdentity.trust.seeds = some x ∧ s.openIdentity.trust.next = n ∧ s.openIdentity.trust.lim = n := by
  have hs : s.keep.settleKeys s.trust s.free = s.keep :=
    (if_neg (by rw [hf]; exact Bool.false_ne_true)).trans (if_neg (by rw [hn]; exact Bool.false_ne_true))
  unfold State.openIdentity
  simp only [hs, hk, hl]
  exact ⟨trivial, trivial, trivial⟩

end

/-! ### The phases of the paths -/

section
variable {s : State}

theorem onPath_iff {q : BitVec 2} (ha : s.alive = true) (hr : s.boot.ready = false) (hp : s.boot.path = q) (n : BitVec 4) :
    s.onPath q n = true ↔ s.boot.phase = n := by
  simp [State.onPath, ha, hr, hp]

theorem not_awaitsPath {q : BitVec 2} (hp : s.boot.path = q) (hq : q ≠ 0) : ¬ s.awaitsPath = true := by
  unfold State.awaitsPath
  rw [hp, decide_eq_false hq, Bool.and_false]
  exact Bool.false_ne_true

theorem coldPath_awaits (h : s.awaitsPath = true) (t : TestResults) :
    exec (.coldPath t) s = .next (if s.tokCode = 0 then s else s.goCold) := if_pos h

theorem warmPath_awaits (h : s.awaitsPath = true) (l : List Nat) : exec (.warmPath l) s =
    .next (if s.tokCode = 0 then { s with boot := { s.boot with path := 2, tok := 0, phase := 7, testBad := [] } } else s) := if_pos h

section
variable (ha : s.alive = true) (hr : s.boot.ready = false)
include ha hr

section
variable (hp : s.boot.path = 1)
include hp

/-- Phase 0x3 of the cold path: every unit is tested (R440). -/
theorem coldPath_tests (h3 : s.boot.phase = 3) (t : TestResults) : exec (.coldPath t) s = .next (s.holdTests t) :=
  (if_neg (not_awaitsPath hp (by decide))).trans (if_pos ((onPath_iff ha hr hp 3).mpr h3))

/-- Phase 0x4 of the cold path: the results are resolved (R442 to R446). -/
theorem coldPath_resolves {t : TestResults} (h4 : s.boot.phase = 4) (ht : s.boot.results = some t) (x : TestResults) :
    exec (.coldPath x) s =
      .next ((({ s with boot := { s.boot with phase := 5 } }).resolve t (~~~s.keep.fuseOff) []).raiseRows t) := by
  have h3 : ¬ s.onPath 1 3 = true := fun h => absurd (((onPath_iff ha hr hp 3).mp h).symm.trans h4) (by decide)
  refine (if_neg (not_awaitsPath hp (by decide))).trans ((if_neg h3).trans ((if_pos ((onPath_iff ha hr hp 4).mpr h4)).trans ?_))
  rw [ht]
  rfl

section
variable {t x : TestResults} (h5 : s.boot.phase = 5) (ht : s.boot.results = some t)
include h5 ht

/-- A second test that fails nothing more ends the cold path (R441). -/
theorem retest_passes (hx : s.keep.addsResults t x = false) : exec (.startupRetest x) s = .next (s.finishCold t) := by
  refine (if_pos ((onPath_iff ha hr hp 5).mpr h5)).trans ?_
  rw [ht]
  exact if_neg (by simp [hx])

/-- A second test that fails a unit is resolved and repeats (R441). -/
theorem retest_fails (hx : s.keep.addsResults t x = true) : exec (.startupRetest x) s =
    .next ((({ s with boot := { s.boot with
      testBad := (plusResults t x).cores, results := some (plusResults t x)
      repeats := BitVec.ofNat 7 (Nat.min (s.boot.repeats.toNat + 1) 127) } }).resolve (plusResults t x) s.boot.enabled
        s.keep.unserved).raiseRows x) := by
  refine (if_pos ((onPath_iff ha hr hp 5).mpr h5)).trans ?_
  rw [ht]
  exact if_pos hx

end

end

section
variable (hp : s.boot.path = 2)
include hp

/-- Phase 0x7 of the warm path: the LPDDR controllers are trained (R447). -/
theorem warmPath_trains (h7 : s.boot.phase = 7) (l : List Nat) :
    exec (.warmPath l) s = .next { s with boot := { s.boot with phase := 4, lpdBad := l } } :=
  (if_neg (not_awaitsPath hp (by decide))).trans (if_pos ((onPath_iff ha hr hp 7).mpr h7))

/-- Phase 0x4 of the warm path: the exclusions that stand are resolved, and the start-up ends (R448). -/
theorem warmPath_ends {t : TestResults} (h4 : s.boot.phase = 4) (ht : s.boot.results = some t) (l : List Nat) : exec (.warmPath l) s =
    .next (((s.applyExcl (s.keep.exclWith []) t s.boot.lpdBad).raiseLost (enabledMask s.keep.fuseOff s.keep.vouched s.keep.units)).finishStart
      t s.boot.lpdBad 120) := by
  have h7 : ¬ s.onPath 2 7 = true := fun h => absurd (((onPath_iff ha hr hp 7).mp h).symm.trans h4) (by decide)
  refine (if_neg (not_awaitsPath hp (by decide))).trans ((if_neg h7).trans ((if_pos ((onPath_iff ha hr hp 4).mpr h4)).trans ?_))
  rw [ht]

end

end

end

/-- Settles O52. -/
theorem startUpPaths : Obligations.StartUpPaths := by
  refine ⟨fun s t x f => ⟨fun h hc => ?_, fun h hc => ?_, fun ha hr hp => ⟨fun h3 => ?_, fun h4 ht => ?_, fun h5 ht => ⟨fun hx => ?_, fun hx => ?_⟩⟩,
    fun ha hr hp => ⟨fun h7 => ?_, fun h4 ht => ?_⟩, finishStart_ready s t f 120, fun sd n => openIdentity_current s, finishCold_token s t,
    tokCode_eq_zero s⟩, fun k w hw => ?_⟩
  · rw [coldPath_awaits h, warmPath_awaits h, if_neg hc, if_neg hc]
    exact ⟨rfl, rfl⟩
  · rw [coldPath_awaits h, warmPath_awaits h, if_pos hc, if_pos hc]
    exact ⟨rfl, rfl⟩
  · exact coldPath_tests ha hr hp h3 t
  · exact coldPath_resolves ha hr hp h4 ht x
  · exact retest_passes ha hr hp h5 ht hx
  · exact retest_fails ha hr hp h5 ht hx
  · exact warmPath_trains ha hr hp h7 f
  · exact warmPath_ends ha hr hp h4 ht f
  · exact ⟨tokenAt_length k w, tokenAt_intact k w, tokenAt_valid k w, tokenAt_modser k w, tokenAt_fuses k w, tokenAt_spseq k w,
      tokenAt_written k w hw⟩

end Sys2Proof.Machine
end
